-- ==== Sys2Proof/Word.lean ====
section
/-! DEFINITION. The words of the machine and their plainest arithmetic (R1: bits are numbered from the least significant,
multi-byte values are little-endian). -/

namespace Sys2Proof

abbrev Byte := BitVec 8
abbrev Word := BitVec 32
abbrev DWord := BitVec 64

/-- One vector register of a wave: 32 lanes of 32 bits (R97, R127). -/
abbrev Row := Vector Word 32

/-- The row that holds 0 in every lane (R128). -/
def zeroRow : Row := Vector.replicate 32 0

/-- Lane `l` of a row; 0 past the last lane. -/
def Row.lane (r : Row) (l : Nat) : Word := (r.toList).getD l 0

/-- A row made lane by lane. -/
def Row.make (f : Nat → Word) : Row := Vector.ofFn fun i => f i.val

/-- `w` bits of `x` from bit `lo` up. -/
def fld (x lo w : Nat) : Nat := x / 2 ^ lo % 2 ^ w

/-- The two's-complement value of the low `w` bits of `x`. -/
def sfld (x w : Nat) : Int :=
  let y := x % 2 ^ w
  if 2 ^ w ≤ 2 * y then (y : Int) - 2 ^ w else y

/-- Bit `i` of a number. -/
def bit (x i : Nat) : Bool := x.testBit i

end Sys2Proof
end

