-- ==== Sys2Proof/Forms.lean ====
section
/-! DEFINITION. The operand forms of the instructions (03_encoding.md R28-R33) and the plain data that operations and
events carry. Numbers of registers are bounded by their field's width; a sub-code the manual reserves stays a number,
and WellFormed refuses it. -/

namespace Sys2Proof

/-- A short code of format VI (R29). -/
inductive Short where
  | imm (n : Fin 32)      -- codes 0x00-0x1F
  | neg (k : Fin 16)      -- codes 0x20-0x2F: k - 16
  | lit (w : Word)        -- code 0x30 and its operand literal
  | lane                  -- code 0x31
  | spec (k : Fin 10)     -- codes 0x32-0x3B: %wave, %gx, %gy, %ngx, %ngy, %gang, %die, %mod, %core, %gen
  | rsvd (k : Fin 4)      -- codes 0x3C-0x3F, reserved
  deriving DecidableEq, Repr

/-- Operand A of format VI (R29). -/
inductive OpA where
  | vreg (r : Fin 128)
  | sreg (r : Fin 64)
  | short (c : Short)
  deriving DecidableEq, Repr

/-- The immediate of format SI (R28): imm6, or the code 0b10_0000 with its operand literal. -/
inductive SImm where
  | small (c : Fin 64)
  | lit (w : Word)
  deriving DecidableEq, Repr

/-- A branch target of format B (R31): a signed 15-bit word offset, or the code 0x4000 with its operand literal. -/
inductive Tgt where
  | near (c : Fin 32768)
  | far (w : Word)
  deriving DecidableEq, Repr

/-- An M-format address (R32), by om. -/
inductive Addr where
  | base (sb : Fin 64) (disp : Word)                              -- om 0b00
  | lane (sb : Fin 64) (sc : Fin 16)                              -- om 0b01
  | laneDisp (sb : Fin 64) (sc : Fin 16) (disp : Word)            -- om 0b10
  | vreg (sb : Fin 64) (sc : Fin 16) (lit : Word)                 -- om 0b11; lit[31:25] names the register
  deriving DecidableEq, Repr

/-- The address of ATOM and CAS (R32): as `Addr`, the scale being fixed by the element size. -/
inductive AAddr where
  | base (sb : Fin 64) (disp : Word)
  | lane (sb : Fin 64)
  | laneDisp (sb : Fin 64) (disp : Word)
  | vreg (sb : Fin 64) (lit : Word)
  deriving DecidableEq, Repr

/-- A version, or a prepare, that arrives from another module (R243, R245), with the sender's context, whose ordered flow carries it. -/
structure RemoteVersion where
  ctx : Nat := 0
  slot : Nat
  words : List Word
  stamp : Nat
  tx : Bool
  poison : Bool
  deriving DecidableEq, Repr

/-- What a message of another module's dusk hold, or of its SNAP, says (R245, R248, R270); the unit is the writer's number
512 × module + unit (R243). -/
inductive HoldMsg where
  | none
  | versions (unit id home : Nat) (vs : List RemoteVersion)
  | release (unit id : Nat)
  | removal (unit id : Nat)
  | frontier (lo : Nat)
  | snapshot (id t frame size : Nat)
  | withdraw (id : Nat)
  | frozen (ordered : Bool) (seq addr : Nat)   -- a write of this module's, number `seq` of its flow, stands at a frozen frame there
  | frozenVersion (unit id slot : Nat)
  deriving DecidableEq, Repr

/-- A message of another module to a home (R193): a store's or copy step's bytes, poisoned or not (R14, R165); an atomic or CAS in the
encoding of its operation and type, with (lane, address, operand, CAS's new value); the addresses that a remote load reads; a
message of a dusk hold. -/
structure RemoteMsg where
  poison : Bool := false
  hold : HoldMsg := .none
  bytes : List (Nat × Byte) := []
  op : Nat := 0
  ty : Nat := 0
  lanes : List (Nat × Nat × Nat × Nat) := []
  reads : List Nat := []
  deriving DecidableEq, Repr

/-- The 64 bytes of a contribution to a reduction, poisoned or not (R14, R286). -/
structure ContributedLine where
  bytes : List Byte
  poison : Bool := false
  deriving DecidableEq, Repr

/-- What the switches report when the links train: ports by link (R17), and the modules of the pod. -/
structure SwitchReport where
  ports : List (Nat × Nat)
  pod : List Nat
  deriving DecidableEq, Repr

/-- Why the module shuts down in order (R324, R241, R331). -/
inductive ShutdownCause where
  | request (port : Fin 2) (dg : List Byte)
  | sensor (die : Nat) (eighths : Nat)
  | supply (milliseconds : Nat)
  | oscillators
  deriving DecidableEq, Repr

/-- An image that boot or an update verifies (R326): its bytes, which carry its kind and version, and its signature, which names a
leaf. -/
structure ImageFile where
  bytes : List Byte
  signature : List Byte
  deriving DecidableEq, Repr

/-- What the sensors read as a die may step up (R324): the die, its hottest sensor in eighths of a degree, the module's power in
tenths of a watt. -/
structure HeatReading where
  die : Nat
  eighths : Nat
  deciwatts : Nat
  deriving DecidableEq, Repr

end Sys2Proof
end

