-- ==== Sys2Proof/Syntax.lean ====
section
/-! DEFINITION. The instructions: one constructor per row of spec/opcode_table.json. The rows with a word carry the
operands of their encoding (the stall code of R23 stands beside the instruction, in `Decoded`); the rows without a word are
the operations and events of the module (95_what_each_step_holds.md), with the data each arrives with. -/

namespace Sys2Proof

/-- One step of the machine. The steps that only the outside world brings, and those without an operand, stand last. -/
inductive Instr where
  | bra (t : Tgt)  -- R108
  | brc (a : Fin 64) (t : Tgt)  -- R108
  | bdiv (m : Fin 8) (t : Fin 32768) (rej : Word)  -- R105
  | brk (n : Fin 32) (t : Tgt)  -- R107
  | call (d : Fin 64) (t : Tgt)  -- R108
  | ret (a : Fin 64)  -- R108
  | yieldR (im : Fin 4096)  -- R95
  | waitc (v : Fin 8) (sg : Fin 8) (m : Fin 8) (c : Fin 8)  -- R110
  | setfmt (lit : Word)  -- R112
  | setfmtScalar (a : Fin 64)  -- R112
  | getfmt (d : Fin 64)  -- R112
  | mrst (m : Fin 8)  -- R113
  | mand (d : Fin 8) (a : Fin 8) (b : Fin 8)  -- R113
  | mor (d : Fin 8) (a : Fin 8) (b : Fin 8)  -- R113
  | mxor (d : Fin 8) (a : Fin 8) (b : Fin 8)  -- R113
  | mnot (d : Fin 8) (a : Fin 8)  -- R113
  | msav (d : Fin 8)  -- R113
  | mpopc (d : Fin 64) (a : Fin 8)  -- R113
  | voteAny (d : Fin 64) (a : Fin 8)  -- R113
  | voteAll (d : Fin 64) (a : Fin 8)  -- R113
  | voteBallot (d : Fin 64) (a : Fin 8)  -- R113
  | sadd (d : Fin 64) (a : Fin 64) (b : Fin 64)  -- R131
  | ssub (d : Fin 64) (a : Fin 64) (b : Fin 64)  -- R131
  | smul (d : Fin 64) (a : Fin 64) (b : Fin 64)  -- R131
  | smulhI64 (d : Fin 64) (a : Fin 64) (b : Fin 64)  -- R131
  | smulhN64 (d : Fin 64) (a : Fin 64) (b : Fin 64)  -- R131
  | sand (d : Fin 64) (a : Fin 64) (b : Fin 64)  -- R131
  | sor (d : Fin 64) (a : Fin 64) (b : Fin 64)  -- R131
  | sxor (d : Fin 64) (a : Fin 64) (b : Fin 64)  -- R131
  | scmp (d : Fin 64) (a : Fin 64) (b : Fin 64) (x : Fin 8)  -- R131
  | sshl (d : Fin 64) (a : Fin 64) (b : Fin 64)  -- R131
  | sshr (d : Fin 64) (a : Fin 64) (b : Fin 64)  -- R131
  | ssra (d : Fin 64) (a : Fin 64) (b : Fin 64)  -- R131
  | ssel (d : Fin 64) (a : Fin 64) (b : Fin 64)  -- R131
  | smov (d : Fin 64) (a : Fin 64)  -- R131
  | srd (d : Fin 64) (n : Fin 64)  -- R133
  | swr (n : Fin 64) (a : Fin 64)  -- R133
  | saddImm (d : Fin 64) (a : Fin 64) (im : SImm)  -- R132
  | sandImm (d : Fin 64) (a : Fin 64) (im : SImm)  -- R132
  | scmpImm (d : Fin 64) (a : Fin 64) (x : Fin 8) (im : SImm)  -- R132
  | smovImm (d : Fin 64) (im : SImm)  -- R132
  | sshlImm (d : Fin 64) (a : Fin 64) (im : SImm)  -- R132
  | sshrImm (d : Fin 64) (a : Fin 64) (im : SImm)  -- R132
  | caprd (d : Fin 64) (a : Fin 64) (x : Fin 8)  -- R301
  | noteGet (d : Fin 64)  -- R302
  | noteCnt (d : Fin 64) (x : Fin 8)  -- R302
  | ctxNew (d : Fin 64) (a : Fin 64)  -- R67
  | ctxSw (d : Fin 64) (a : Fin 64) (x : Fin 8)  -- R67
  | ctxEnd (d : Fin 64) (a : Fin 64)  -- R67
  | exitK (a : Fin 64) (c : Fin 256)  -- R67
  | vaddI32 (d : Fin 128) (a : Fin 128) (b : Fin 128)  -- R134
  | vsubI32 (d : Fin 128) (a : Fin 128) (b : Fin 128)  -- R134
  | vmulI32 (d : Fin 128) (a : Fin 128) (b : Fin 128)  -- R134
  | vmulhI32 (d : Fin 128) (a : Fin 128) (b : Fin 128)  -- R134
  | vmulhN32 (d : Fin 128) (a : Fin 128) (b : Fin 128)  -- R134
  | vmadI32 (d : Fin 128) (a : Fin 128) (b : Fin 128)  -- R134
  | vminI32 (d : Fin 128) (a : Fin 128) (b : Fin 128)  -- R134
  | vmaxI32 (d : Fin 128) (a : Fin 128) (b : Fin 128)  -- R134
  | vminN32 (d : Fin 128) (a : Fin 128) (b : Fin 128)  -- R134
  | vmaxN32 (d : Fin 128) (a : Fin 128) (b : Fin 128)  -- R134
  | vand (d : Fin 128) (a : Fin 128) (b : Fin 128)  -- R134
  | vor (d : Fin 128) (a : Fin 128) (b : Fin 128)  -- R134
  | vxor (d : Fin 128) (a : Fin 128) (b : Fin 128)  -- R134
  | vshl (d : Fin 128) (a : Fin 128) (b : Fin 128)  -- R134
  | vshr (d : Fin 128) (a : Fin 128) (b : Fin 128)  -- R134
  | vsra (d : Fin 128) (a : Fin 128) (b : Fin 128)  -- R134
  | vaddI32Vi (d : Fin 128) (a : OpA) (b : Short)  -- R134
  | vsubI32Vi (d : Fin 128) (a : OpA) (b : Short)  -- R134
  | vmulI32Vi (d : Fin 128) (a : OpA) (b : Short)  -- R134
  | vandVi (d : Fin 128) (a : OpA) (b : Short)  -- R134
  | vorVi (d : Fin 128) (a : OpA) (b : Short)  -- R134
  | vxorVi (d : Fin 128) (a : OpA) (b : Short)  -- R134
  | vshlVi (d : Fin 128) (a : OpA) (b : Short)  -- R134
  | vshrVi (d : Fin 128) (a : OpA) (b : Short)  -- R134
  | vsraVi (d : Fin 128) (a : OpA) (b : Short)  -- R134
  | vmovI32 (d : Fin 128) (a : Fin 128)  -- R134
  | vmovI32Vi (d : Fin 128) (a : OpA)  -- R134
  | vsel (d : Fin 128) (m : Fin 8) (b : Fin 128)  -- R135
  | vbfe (d : Fin 128) (a : Fin 128) (b : Fin 128)  -- R136
  | vbfi (d : Fin 128) (a : Fin 128) (b : Fin 128)  -- R136
  | vcmp (m : Fin 8) (c : Fin 16) (a : Fin 128) (b : Fin 128)  -- R137
  | vcmpVi (m : Fin 8) (c : Fin 16) (a : OpA) (b : Short)  -- R137
  | vaddI16x2 (d : Fin 128) (a : Fin 128) (b : Fin 128)  -- R134
  | vsubI16x2 (d : Fin 128) (a : Fin 128) (b : Fin 128)  -- R134
  | vaddI8x4 (d : Fin 128) (a : Fin 128) (b : Fin 128)  -- R134
  | vsubI8x4 (d : Fin 128) (a : Fin 128) (b : Fin 128)  -- R134
  | vfadd (d : Fin 128) (a : Fin 128) (b : Fin 128)  -- R138
  | vfsub (d : Fin 128) (a : Fin 128) (b : Fin 128)  -- R138
  | vfmul (d : Fin 128) (a : Fin 128) (b : Fin 128)  -- R138
  | vfma (d : Fin 128) (a : Fin 128) (b : Fin 128)  -- R138
  | vfmin (d : Fin 128) (a : Fin 128) (b : Fin 128)  -- R138
  | vfmax (d : Fin 128) (a : Fin 128) (b : Fin 128)  -- R138
  | vfcmp (m : Fin 8) (c : Fin 16) (a : Fin 128) (b : Fin 128)  -- R139
  | vfaddVi (d : Fin 128) (a : OpA) (b : Short)  -- R138
  | vfmulVi (d : Fin 128) (a : OpA) (b : Short)  -- R138
  | vfcmpVi (m : Fin 8) (c : Fin 16) (a : OpA) (b : Short)  -- R139
  | vcvt (d : Fin 128) (a : Fin 128) (c : Fin 16) (r : Fin 8)  -- R140
  | vqnt (d : Fin 128) (a : Fin 128) (b : Fin 128)  -- R141
  | vdqnt (d : Fin 128) (a : Fin 128) (b : Fin 128)  -- R141
  | vexp2 (d : Fin 128) (a : Fin 128)  -- R142
  | vlog2 (d : Fin 128) (a : Fin 128)  -- R142
  | vrcp (d : Fin 128) (a : Fin 128)  -- R142
  | vrsq (d : Fin 128) (a : Fin 128)  -- R142
  | vsin (d : Fin 128) (a : Fin 128)  -- R142
  | vcos (d : Fin 128) (a : Fin 128)  -- R142
  | vtanh (d : Fin 128) (a : Fin 128)  -- R142
  | vact (d : Fin 128) (a : Fin 128)  -- R145
  | actld (b : Fin 64) (disp : Word) (q : Fin 2)  -- R146
  | rng (d : Fin 128)  -- R153
  | rngskip (a : Fin 128)  -- R153
  | rngset (a : Fin 128) (b : Fin 128)  -- R153
  | vshfl (d : Fin 128) (a : Fin 128) (b : Fin 128)  -- R148
  | vbcast (d : Fin 128) (a : Fin 128) (n : Fin 128)  -- R148
  | vred (d : Fin 128) (a : Fin 128) (p : Fin 16)  -- R149
  | vscan (d : Fin 128) (a : Fin 128) (p : Fin 16)  -- R149
  | vrot (d : Fin 128) (a : Fin 128) (n : Fin 128)  -- R148
  | vbal (d : Fin 128) (m : Fin 8)  -- R148
  | xsend (a : Fin 128) (k : Fin 2) (sg : Fin 16)  -- R150
  | xrecv (d : Fin 128) (k : Fin 2) (sg : Fin 16)  -- R150
  | ldg (v : Fin 128) (ad : Addr) (q : Fin 4)  -- R159
  | stg (v : Fin 128) (ad : Addr) (q : Fin 4)  -- R159
  | ldsp (v : Fin 128) (ad : Addr) (q : Fin 4)  -- R159
  | stsp (v : Fin 128) (ad : Addr) (q : Fin 4)  -- R159
  | ldk (v : Fin 128) (ad : Addr) (q : Fin 4)  -- R161
  | fence (x : Fin 8) (ord : Fin 4)  -- R183
  | cas (v : Fin 128) (ad : AAddr) (t : Fin 4) (r : Fin 4) (p : Fin 2)  -- R162
  | atomAdd (v : Fin 128) (ad : AAddr) (t : Fin 4) (r : Fin 4) (p : Fin 2)  -- R162
  | atomMin (v : Fin 128) (ad : AAddr) (t : Fin 4) (r : Fin 4) (p : Fin 2)  -- R162
  | atomMax (v : Fin 128) (ad : AAddr) (t : Fin 4) (r : Fin 4) (p : Fin 2)  -- R162
  | atomAnd (v : Fin 128) (ad : AAddr) (t : Fin 4) (r : Fin 4) (p : Fin 2)  -- R162
  | atomOr (v : Fin 128) (ad : AAddr) (t : Fin 4) (r : Fin 4) (p : Fin 2)  -- R162
  | atomXor (v : Fin 128) (ad : AAddr) (t : Fin 4) (r : Fin 4) (p : Fin 2)  -- R162
  | atomExch (v : Fin 128) (ad : AAddr) (t : Fin 4) (r : Fin 4) (p : Fin 2)  -- R162
  | atomFadd (v : Fin 128) (ad : AAddr) (r : Fin 4) (p : Fin 2)  -- R162
  | cpy (a : Fin 16) (b : Fin 8) (c : Fin 64) (d : Fin 64) (e : Fin 4) (len : Fin 268435456)  -- R164
  | cpyg (a : Fin 16) (b : Fin 8) (c : Fin 64) (d : Fin 64) (e : Fin 4) (off : Fin 262144) (n : Fin 2048)  -- R164
  | cpys (a : Fin 16) (b : Fin 8) (c : Fin 64) (d : Fin 64) (e : Fin 4) (off : Fin 262144) (n : Fin 2048)  -- R164
  | fwait (d : Fin 64) (h : Fin 16)  -- R170
  | ftest (d : Fin 64) (h : Fin 16)  -- R170
  | fcan (h : Fin 16)  -- R170
  | mxlb (l : Fin 4) (ad : Addr) (q : Fin 2)  -- R202
  | mxra (sg : Fin 8) (ad : Addr) (q : Fin 2)  -- R204
  | mxrv (sg : Fin 8) (v : Fin 128) (n : Fin 32)  -- R205
  | mxst (t : Fin 4) (b : Fin 64) (disp : Word) (q : Fin 2)  -- R215
  | mxld (t : Fin 4) (b : Fin 64) (disp : Word) (q : Fin 2)  -- R215
  | mxdrn (t : Fin 4) (ad : Addr) (q : Fin 2)  -- R211
  | mxdrnt (t : Fin 4) (ad : Addr) (q : Fin 2)  -- R211
  | mxmac (t : Fin 4) (b : Fin 4) (sg : Fin 8)  -- R206
  | mxmacs (t : Fin 4) (b : Fin 4) (sg : Fin 8)  -- R206
  | mxclr (t : Fin 4) (sg : Fin 8) (m : Fin 4)  -- R210
  | mxchk (t : Fin 4) (d : Fin 64)  -- R213
  | mxinj (t : Fin 4) (a : Fin 64) (x : Fin 8)  -- R214
  | tapcfg (w : Fin 16) (a : Fin 64)  -- R230
  | tapin (w : Fin 16) (v : Fin 128) (m : Fin 4)  -- R231
  | tapq (w : Fin 16) (d : Fin 64)  -- R232
  | tapclr (w : Fin 16)  -- R233
  | tapsav (w : Fin 16) (b : Fin 64) (disp : Word) (q : Fin 2)  -- R235
  | taprst (w : Fin 16) (b : Fin 64) (disp : Word) (q : Fin 2)  -- R235
  | tapstat (w : Fin 16) (d : Fin 64) (x : Fin 2)  -- R234
  | tnow (d : Fin 64) (a : Fin 64)  -- R242
  | pub (v : Fin 128) (ad : Addr) (h : Fin 16)  -- R246
  | ldat (v : Fin 128) (ad : Addr) (st : Fin 64) (md : Fin 8)  -- R249
  | pubtxB (h : Fin 16)  -- R251
  | sig (v : Fin 128) (ad : Addr)  -- R182
  | barJoin (b : Fin 16)  -- R175
  | barLeave (b : Fin 16)  -- R175
  | barArv (d : Fin 64) (b : Fin 16)  -- R175
  | barArvCount (d : Fin 64) (a : Fin 64) (b : Fin 16)  -- R175
  | barWait (a : Fin 64) (b : Fin 16)  -- R175
  | barSync (b : Fin 16)  -- R175
  | mbxSend (d : Fin 64) (a : Fin 64) (b : Fin 64) (x : Fin 8)  -- R180
  | mbxWait (d : Fin 64) (x : Fin 8)  -- R181
  | trap (im : SImm)  -- R120
  | rett (m : Fin 4)  -- R121
  | launch (d : Fin 64) (a : Fin 64) (b : Fin 64)  -- R82
  | fqPop (d : Fin 64) (a : Fin 64)  -- R266
  | fqDone (d : Fin 64) (a : Fin 64) (x : Fin 8)  -- R267
  | tlbinv (d : Fin 64) (a : Fin 64) (b : Fin 64) (x : Fin 8)  -- R268
  | snap (d : Fin 64) (a : Fin 64)  -- R270
  | hostLaunch (port : Fin 2) (dg : List Byte)  -- R330
  | hostPodLaunch (port : Fin 2) (dg : List Byte)  -- R93
  | installReplacementImage (port : Fin 2) (dg : List Byte)  -- R94
  | contextCreate (port : Fin 2) (dg : List Byte)  -- R61
  | contextSuspend (port : Fin 2) (dg : List Byte)  -- R61
  | contextResume (port : Fin 2) (dg : List Byte)  -- R61
  | contextEnd (port : Fin 2) (dg : List Byte)  -- R61
  | setQueuePriority (port : Fin 2) (dg : List Byte)  -- R68
  | resumeHaltedGroup (port : Fin 2) (dg : List Byte)  -- R67
  | endHaltedGroup (port : Fin 2) (dg : List Byte)  -- R67
  | journalRead (port : Fin 2) (dg : List Byte)  -- R331
  | defineReduceWindow (port : Fin 2) (dg : List Byte)  -- R285
  | retireUnit (port : Fin 2) (dg : List Byte)  -- R291
  | reinstateUnit (port : Fin 2) (dg : List Byte)  -- R291
  | setTenantPartition (port : Fin 2) (dg : List Byte)  -- R65
  | acknowledgementTimeout (q : Nat)  -- R93
  | startTimeout (k : Nat)  -- R93
  | darkStartTimeout (k : Nat)  -- R93
  | armedKernelStart (k : Nat)  -- R83
  | launchAcceptance (id : Nat)  -- R334
  | groupBitmapSet (g : Nat)  -- R78
  | kernelComplete (k : Nat)  -- R83
  | kernelFailed (k : Nat)  -- R83
  | contextFree (c : Nat)  -- R61
  | preemptionPoint (g : Nat)  -- R85
  | resultWrite (g w id : Nat)  -- R26
  | barrierArrival (g w sl : Nat)  -- R174
  | dieBarrierArrival (g : Nat)  -- R178
  | mailboxWaitServed (k die slot : Nat)  -- R181
  | copyStep (g id : Nat)  -- R165
  | copyEngineStop (g id : Nat)  -- R170
  | mxEngineExecute (unit : Nat)  -- R200
  | drainWrite (unit id : Nat)  -- R211
  | taperPortAccept (unit : Nat)  -- R226
  | issue (unit : Nat)  -- R186
  | read (g w id home : Nat)  -- R186
  | advance (id : Nat)  -- R186
  | perform (id : Nat)  -- R186
  | syncRequest (plane : Fin 6)  -- R238
  | syncReply (plane : Fin 6) (tm em : Nat)  -- R238
  | clockAttestation (lo : Nat)  -- R239
  | versionArrival (unit id home : Nat) (far : List RemoteVersion)  -- R245
  | homeAcknowledgement (unit id home : Nat)  -- R245
  | duskRelease (unit id : Nat)  -- R245
  | versionVisible (id home : Nat)  -- R244
  | homeUnreachable (unit id home : Nat)  -- R245
  | darkDiscard (unit id : Nat)  -- R245
  | snapshotRequest (c snap frame : Nat)  -- R270
  | snapshotFreeze (c snap : Nat)  -- R270
  | invalidationAcknowledgement (id die : Nat)  -- R268
  | dieFence (die : Nat)  -- R269
  | ackTimeout (link : Nat)  -- R280
  | retryTimeout (link : Nat)  -- R280
  | roundAbandon (line round : Nat)  -- R287
  | leaseStart (unit : Nat)  -- R291
  | withdrawalDeadline (unit : Nat)  -- R291
  | testingStart (unit : Nat)  -- R291
  | testTimeout (unit : Nat)  -- R291
  | journalPersist (n : Nat)  -- R81
  | taperSaveOrRestoreComplete (g id : Nat)  -- R235
  | mailboxMessageAcceptance (id : Nat)  -- R180
  | combinedWrite (line : Nat) (bytes : List Byte)  -- R287
  | removeReduceWindow (port : Fin 2) (dg : List Byte)  -- R331
  | readMonitor (port : Fin 2) (dg : List Byte)  -- R303
  | setChannelWeight (port : Fin 2) (dg : List Byte)  -- R284
  | releaseSnapshot (port : Fin 2) (dg : List Byte)  -- R331
  | readStatus (port : Fin 2) (dg : List Byte)  -- R331
  | orderlyShutdown (cause : ShutdownCause)  -- R324
  | podLaunchBeacon (msg : List Byte)  -- R92
  | podLaunchAcknowledgement (src : Fin 64) (msg : List Byte)  -- R93
  | podLaunchRefusal (src : Fin 64) (msg : List Byte)  -- R93
  | podLaunchStart (msg : List Byte)  -- R93
  | podLaunchAbort (msg : List Byte)  -- R83
  | deliver (peer ctx : Nat) (ordered : Bool) (seq : Nat) (msg : RemoteMsg)  -- R193
  | fill (unit line : Nat)  -- R186
  | drop (unit line : Nat)  -- R186
  | correctedWriteBack (line : Nat)  -- R13
  | oscillatorMonitorFail (backup : Bool)  -- R241
  | frontierArrival (src : Fin 64) (lo : Nat)  -- R248
  | resetEntryMessage (die : Nat)  -- R269
  | flitCrcFail (bridge : Nat) (again : Bool)  -- R278
  | frequencyStep (die : Nat) (mhz : Nat)  -- R10
  | clockRelock (die : Nat)  -- R278
  | dieResetComplete (die : Nat)  -- R278
  | linkTraining (link port : Nat)  -- R279
  | linkAcknowledgement (link upto : Nat)  -- R280
  | linkRetraining (link : Nat)  -- R279
  | contributionArrival (src : Fin 64) (ctx line round : Nat) (data : ContributedLine)  -- R287
  | attestation (port : Fin 2) (dg : List Byte)  -- R327
  | patternPass (unit : Nat)  -- R291
  | patternMismatch (unit pattern : Nat)  -- R291
  | laneGroupTestEnd (unit pattern : Nat)  -- R293
  | channelCopyEnd (unit : Nat)  -- R294
  | monitorSample (sensors : List Nat)  -- R303
  | thermalStepDown (die eighths deciwatts : Nat)  -- R324
  | thermalStepUp (x : HeatReading)  -- R324
  | imageVerify (imgs : List ImageFile)  -- R326
  | memoryLinkTraining (failed : List Nat) (ports : SwitchReport)  -- R325
  | flitReceipt (link seq : Nat)  -- R280
  | hostPortFailure (port : Fin 2)  -- R328
  | nop  -- R108
  | join  -- R106
  | yield  -- R109
  | exit  -- R111
  | region  -- R122
  | actsw  -- R147
  | dusk  -- R250
  | pubtxC  -- R251
  | pubtxA  -- R251
  | dbar  -- R178
  | halt  -- R67
  | dispatchDecision  -- R75
  | holdoverTimeout  -- R239
  | darkTransition  -- R239
  | oscillatorMonitorPass  -- R241
  | frontierSend  -- R248
  | lifetimeCounterWrite  -- R304
  | supplyInRange  -- R325
  | bootStarting  -- R325
  | uncleanReset  -- R304
  deriving DecidableEq, Repr

end Sys2Proof
end

