-- ==== Sys2Proof/WellFormed.lean ====
section
/-! DEFINITION. The well-formed instructions: every limit of R28-R36 and of the instructions' entries that the encoding alone
decides. A word that breaks one is ILLEGAL (R36), which ISSUE raises; limits that need the allocation, %fmt or a register's
value are judged in the instruction's meaning. -/

namespace Sys2Proof

/-- The code 0x4000 asks for a literal, so it is no near offset (R31). -/
def tgtOk : Tgt → Bool
  | .near c => c.val != 0x4000
  | .far _ => true

/-- The code 0b10_0000 asks for a literal, so it is no small immediate (R28). -/
def simmOk : SImm → Bool
  | .small c => c.val != 0x20
  | .lit _ => true

/-- A shift's immediate lies in 0-31 or is a literal (R132). -/
def shiftOk : SImm → Bool
  | .small c => c.val < 32
  | .lit _ => true

def shortOk : Short → Bool
  | .rsvd _ => false
  | .imm _ | .neg _ | .lit _ | .lane | .spec _ => true

def shortIsLit : Short → Bool
  | .lit _ => true
  | .imm _ | .neg _ | .lane | .spec _ | .rsvd _ => false

def opaOk : OpA → Bool
  | .short c => shortOk c
  | .vreg _ => true
  | .sreg _ => true

def opaIsLit : OpA → Bool
  | .short c => shortIsLit c
  | .vreg _ => false
  | .sreg _ => false

/-- No reserved short code, and not both operands a literal (R29). -/
def viOk (a : OpA) (b : Short) : Bool := opaOk a && shortOk b && !(opaIsLit a && shortIsLit b)

/-- The scale is 0-12 (R32). -/
def addrOk : Addr → Bool
  | .base _ _ => true
  | .lane _ c => c.val ≤ 12
  | .laneDisp _ c _ => c.val ≤ 12
  | .vreg _ c _ => c.val ≤ 12

/-- om 0b11 is not permitted (R202). -/
def notVreg : Addr → Bool
  | .vreg _ _ _ => false
  | .base _ _ => true
  | .lane _ _ => true
  | .laneDisp _ _ _ => true

/-- The width code and the data register it allows (R32, R33). -/
def widthOk (v : Fin 128) (q : Fin 4) : Bool :=
  match q.val with
  | 0 => true
  | 1 => v.val % 2 == 0
  | 2 => v.val % 4 == 0
  | _ => false

/-- The special registers SRD may name (R34). -/
def srdOk (n : Fin 64) : Bool := (1 ≤ n.val && n.val ≤ 0x14) || (0x18 ≤ n.val && n.val ≤ 0x1F)

/-- The special registers SWR may name: %fmt, %fxf, %penmax, %chk (R34). -/
def swrOk (n : Fin 64) : Bool := n.val == 0x0B || n.val == 0x0C || n.val == 0x0E || n.val == 0x14

/-- Every limit that the encoding alone decides. -/
def Instr.wf (i : Instr) : Bool :=
  match i with
  | .bra t => tgtOk t
  | .brc _ t => tgtOk t
  | .bdiv _ t _ => t.val != 0x4000
  | .brk n t => tgtOk t && n.val ≤ 16
  | .call _ t => tgtOk t
  | .srd _ n => srdOk n
  | .swr n _ => swrOk n
  | .saddImm _ _ im => simmOk im
  | .sandImm _ _ im => simmOk im
  | .scmpImm _ _ _ im => simmOk im
  | .smovImm _ im => simmOk im
  | .sshlImm _ _ im => shiftOk im
  | .sshrImm _ _ im => shiftOk im
  | .caprd _ _ x => x.val ≤ 4
  | .noteGet d => d.val != 0 && d.val % 2 == 0
  | .noteCnt _ x => x.val ≤ 1
  | .ctxSw _ _ x => x.val ≤ 1
  | .exitK _ c => 1 ≤ c.val && c.val ≤ 0x11
  | .vaddI32Vi _ a b => viOk a b
  | .vsubI32Vi _ a b => viOk a b
  | .vmulI32Vi _ a b => viOk a b
  | .vandVi _ a b => viOk a b
  | .vorVi _ a b => viOk a b
  | .vxorVi _ a b => viOk a b
  | .vshlVi _ a b => viOk a b
  | .vshrVi _ a b => viOk a b
  | .vsraVi _ a b => viOk a b
  | .vmovI32Vi _ a => opaOk a
  | .vcmp _ c _ _ => c.val ≤ 9
  | .vcmpVi _ c a b => viOk a b && c.val ≤ 9
  | .vfcmp _ c _ _ => (c.val ≤ 5 || c.val == 10 || c.val == 11)
  | .vfaddVi _ a b => viOk a b
  | .vfmulVi _ a b => viOk a b
  | .vfcmpVi _ c a b => viOk a b && (c.val ≤ 5 || c.val == 10 || c.val == 11)
  | .vcvt _ _ c r => c.val ≤ 8 && r.val ≤ 4
  | .rng d => d.val % 4 == 0
  | .rngskip a => a.val % 4 == 0
  | .rngset a b => a.val % 2 == 0 && b.val % 4 == 0
  | .vbcast _ _ n => (n.val < 32 || n.val == 0x40)
  | .vred _ _ p => p.val ≤ 10
  | .vscan _ _ p => p.val ≤ 10
  | .vrot _ _ n => n.val < 32
  | .xsend a k _ => (k.val == 0 || a.val < 16)
  | .xrecv d k _ => (k.val == 0 || d.val < 16)
  | .ldg v ad q => addrOk ad && widthOk v q
  | .stg v ad q => addrOk ad && widthOk v q
  | .ldsp v ad q => addrOk ad && widthOk v q
  | .stsp v ad q => addrOk ad && widthOk v q
  | .ldk v ad q => addrOk ad && widthOk v q
  | .fence x ord => x.val ≤ 5 && ord.val != 0
  | .cas v _ t _ _ => (if t.val < 2 then v.val % 2 == 0 else v.val % 4 == 0)
  | .atomAdd v _ t _ _ => (t.val < 2 || v.val % 2 == 0)
  | .atomMin v _ t _ _ => (t.val < 2 || v.val % 2 == 0)
  | .atomMax v _ t _ _ => (t.val < 2 || v.val % 2 == 0)
  | .atomAnd v _ t _ _ => (t.val < 2 || v.val % 2 == 0)
  | .atomOr v _ t _ _ => (t.val < 2 || v.val % 2 == 0)
  | .atomXor v _ t _ _ => (t.val < 2 || v.val % 2 == 0)
  | .atomExch v _ t _ _ => (t.val < 2 || v.val % 2 == 0)
  | .cpy _ _ _ _ _ len => len.val != 0 && len.val % 4 == 0
  | .cpyg _ _ _ _ _ _ n => 1 ≤ n.val && n.val ≤ 1024
  | .cpys _ _ _ _ _ _ n => 1 ≤ n.val && n.val ≤ 1024
  | .mxlb _ ad _ => addrOk ad && notVreg ad
  | .mxra _ ad _ => addrOk ad
  | .mxdrn _ ad _ => addrOk ad
  | .mxdrnt _ ad _ => addrOk ad
  | .mxclr _ sg m => (m.val != 0 || sg.val == 0)
  | .mxinj _ _ x => x.val ≤ 4
  | .tapin _ v m => m.val != 3 && (m.val != 0 || v.val % 2 == 0)
  | .tnow d a => (d != a || a.val == 0)
  | .pub _ ad _ => addrOk ad
  | .ldat _ ad _ _ => addrOk ad
  | .sig v ad => addrOk ad && v.val % 2 == 0
  | .trap im => simmOk im
  | .rett m => m.val ≤ 2
  | .fqPop d _ => d.val != 0 && d.val % 4 == 0
  | .fqDone _ _ x => x.val ≤ 1
  | .tlbinv _ _ _ x => x.val ≤ 2
  | .nop | .join | .ret _ | .yield | .yieldR _ | .exit
  | .region | .waitc _ _ _ _ | .setfmt _ | .setfmtScalar _ | .getfmt _ | .mrst _
  | .mand _ _ _ | .mor _ _ _ | .mxor _ _ _ | .mnot _ _ | .msav _ | .mpopc _ _
  | .voteAny _ _ | .voteAll _ _ | .voteBallot _ _ | .sadd _ _ _ | .ssub _ _ _ | .smul _ _ _
  | .smulhI64 _ _ _ | .smulhN64 _ _ _ | .sand _ _ _ | .sor _ _ _ | .sxor _ _ _ | .scmp _ _ _ _
  | .sshl _ _ _ | .sshr _ _ _ | .ssra _ _ _ | .ssel _ _ _ | .smov _ _ | .ctxNew _ _
  | .ctxEnd _ _ | .vaddI32 _ _ _ | .vsubI32 _ _ _ | .vmulI32 _ _ _ | .vmulhI32 _ _ _ | .vmulhN32 _ _ _
  | .vmadI32 _ _ _ | .vminI32 _ _ _ | .vmaxI32 _ _ _ | .vminN32 _ _ _ | .vmaxN32 _ _ _ | .vand _ _ _
  | .vor _ _ _ | .vxor _ _ _ | .vshl _ _ _ | .vshr _ _ _ | .vsra _ _ _ | .vmovI32 _ _
  | .vsel _ _ _ | .vbfe _ _ _ | .vbfi _ _ _ | .vaddI16x2 _ _ _ | .vsubI16x2 _ _ _ | .vaddI8x4 _ _ _
  | .vsubI8x4 _ _ _ | .vfadd _ _ _ | .vfsub _ _ _ | .vfmul _ _ _ | .vfma _ _ _ | .vfmin _ _ _
  | .vfmax _ _ _ | .vqnt _ _ _ | .vdqnt _ _ _ | .vexp2 _ _ | .vlog2 _ _ | .vrcp _ _
  | .vrsq _ _ | .vsin _ _ | .vcos _ _ | .vtanh _ _ | .vact _ _ | .actld _ _ _
  | .actsw | .vshfl _ _ _ | .vbal _ _ | .atomFadd _ _ _ _ | .fwait _ _ | .ftest _ _
  | .fcan _ | .mxrv _ _ _ | .mxst _ _ _ _ | .mxld _ _ _ _ | .mxmac _ _ _ | .mxmacs _ _ _
  | .mxchk _ _ | .tapcfg _ _ | .tapq _ _ | .tapclr _ | .tapsav _ _ _ _ | .taprst _ _ _ _
  | .tapstat _ _ _ | .dusk | .pubtxB _ | .pubtxC | .pubtxA | .barJoin _
  | .barLeave _ | .barArv _ _ | .barArvCount _ _ _ | .barWait _ _ | .barSync _ | .dbar
  | .mbxSend _ _ _ _ | .mbxWait _ _ | .launch _ _ _ | .snap _ _ | .halt | .hostLaunch _ _
  | .hostPodLaunch _ _ | .installReplacementImage _ _ | .contextCreate _ _ | .contextSuspend _ _ | .contextResume _ _ | .contextEnd _ _
  | .setQueuePriority _ _ | .resumeHaltedGroup _ _ | .endHaltedGroup _ _ | .journalRead _ _ | .releaseSnapshot _ _ | .defineReduceWindow _ _
  | .removeReduceWindow _ _ | .readMonitor _ _ | .retireUnit _ _ | .reinstateUnit _ _ | .setChannelWeight _ _ | .setTenantPartition _ _
  | .attestation _ _ | .readStatus _ _ | .orderlyShutdown _ | .podLaunchBeacon _ | .podLaunchAcknowledgement _ _ | .podLaunchRefusal _ _
  | .podLaunchStart _ | .podLaunchAbort _ | .acknowledgementTimeout _ | .startTimeout _ | .darkStartTimeout _ | .armedKernelStart _
  | .launchAcceptance _ | .dispatchDecision | .groupBitmapSet _ | .kernelComplete _ | .kernelFailed _ | .contextFree _
  | .preemptionPoint _ | .resultWrite _ _ _ | .barrierArrival _ _ _ | .dieBarrierArrival _ | .mailboxWaitServed _ _ _ | .copyStep _ _
  | .copyEngineStop _ _ | .mxEngineExecute _ | .drainWrite _ _ | .taperPortAccept _ | .issue _ | .read _ _ _ _
  | .advance _ | .perform _ | .deliver _ _ _ _ _ | .fill _ _ | .drop _ _ | .correctedWriteBack _
  | .syncRequest _ | .syncReply _ _ _ | .holdoverTimeout | .darkTransition | .clockAttestation _ | .oscillatorMonitorFail _
  | .oscillatorMonitorPass | .versionArrival _ _ _ _ | .homeAcknowledgement _ _ _ | .duskRelease _ _ | .versionVisible _ _ | .homeUnreachable _ _ _
  | .darkDiscard _ _ | .frontierSend | .frontierArrival _ _ | .snapshotRequest _ _ _ | .snapshotFreeze _ _ | .invalidationAcknowledgement _ _
  | .resetEntryMessage _ | .dieFence _ | .flitCrcFail _ _ | .frequencyStep _ _ | .clockRelock _ | .dieResetComplete _
  | .linkTraining _ _ | .ackTimeout _ | .retryTimeout _ | .linkAcknowledgement _ _ | .linkRetraining _ | .contributionArrival _ _ _ _ _
  | .roundAbandon _ _ | .combinedWrite _ _ | .leaseStart _ | .withdrawalDeadline _ | .testingStart _ | .patternPass _
  | .patternMismatch _ _ | .testTimeout _ | .laneGroupTestEnd _ _ | .channelCopyEnd _ | .monitorSample _ | .lifetimeCounterWrite
  | .journalPersist _ | .thermalStepDown _ _ _ | .thermalStepUp _ | .supplyInRange | .imageVerify _ | .memoryLinkTraining _ _
  | .bootStarting | .taperSaveOrRestoreComplete _ _ | .mailboxMessageAcceptance _ | .flitReceipt _ _ | .hostPortFailure _ | .uncleanReset => true

end Sys2Proof
end

