-- ==== Sys2Proof/Decode.lean ====
section
/-! DEFINITION. The decoder, total on every list of words, and after it the encoder (03_encoding.md R23, R27-R33, R35, R36).
`decode` takes the words of a clause from the current one on; it answers the instruction with its stall code, or why the word
is no valid instruction (ILLEGAL under R36). Sub-codes that stay numbers are judged by `Instr.wf`. -/

namespace Sys2Proof

/-- Why a word is refused (R36); every reason is the fault ILLEGAL. -/
inductive DecodeError where
  | unassigned    -- major 0x3F or an unassigned (major, function) pair
  | reserved      -- a nonzero reserved field
  | twoLiterals   -- both operands of format VI coded as a literal
  | truncated     -- a literal word that runs past the clause
  deriving DecidableEq, Repr

/-- What a word decodes to. -/
abbrev Decode (α : Type) := Except DecodeError α

/-- The `n`-valued field of `w` that starts at bit `lo`. -/
def bits (n : Nat) [NeZero n] (w lo : Nat) : Fin n := Fin.ofNat n (w / 2 ^ lo)

/-- Takes the next literal word (R27). -/
def withLit (r : List Word) (k : Word → List Word → Decode Instr) : Decode Instr :=
  match r with
  | [] => .error .truncated
  | l :: r' => k l r'

/-- The target of format B (R31). -/
def decTgt (w : Nat) (r : List Word) (k : Tgt → List Word → Decode Instr) : Decode Instr :=
  if fld w 0 15 = 0x4000 then withLit r fun l r => k (.far l) r else k (.near (bits 32768 w 0)) r

/-- The immediate of format SI (R28). -/
def decSImm (w : Nat) (r : List Word) (k : SImm → List Word → Decode Instr) : Decode Instr :=
  if fld w 0 6 = 0x20 then withLit r fun l r => k (.lit l) r else k (.small (bits 64 w 0)) r

/-- A short code (R29). -/
def decShort (c : Nat) (r : List Word) (k : Short → List Word → Decode Instr) : Decode Instr :=
  if c < 0x20 then k (.imm (bits 32 c 0)) r
  else if c < 0x30 then k (.neg (bits 16 c 0)) r
  else if c = 0x30 then withLit r fun l r => k (.lit l) r
  else if c = 0x31 then k .lane r
  else if c < 0x3C then k (.spec (Fin.ofNat 10 (c - 0x32))) r
  else k (.rsvd (bits 4 c 0)) r

/-- Operand A of format VI (R29). -/
def decOpA (w : Nat) (r : List Word) (k : OpA → List Word → Decode Instr) : Decode Instr :=
  if fld w 13 1 = 0 then k (.vreg (bits 128 w 6)) r
  else if fld w 12 1 = 0 then k (.sreg (bits 64 w 6)) r
  else decShort (fld w 6 6) r fun c r => k (.short c) r

/-- Both operands of format VI; a word with both coded as a literal is refused (R29). -/
def decVI (w : Nat) (r : List Word) (k : OpA → Short → List Word → Decode Instr) : Decode Instr :=
  if fld w 6 8 = 0xF0 ∧ fld w 0 6 = 0x30 then .error .twoLiterals
  else decOpA w r fun a r => decShort (fld w 0 6) r fun b r => k a b r

/-- The address of format M (R32); under om 0b00 the scale is reserved. -/
def decAddr (w : Nat) (r : List Word) (k : Addr → List Word → Decode Instr) : Decode Instr :=
  match fld w 6 2 with
  | 0 => if fld w 2 4 = 0 then withLit r fun l r => k (.base (bits 64 w 8) l) r else .error .reserved
  | 1 => k (.lane (bits 64 w 8) (bits 16 w 2)) r
  | 2 => withLit r fun l r => k (.laneDisp (bits 64 w 8) (bits 16 w 2) l) r
  | _ => withLit r fun l r => k (.vreg (bits 64 w 8) (bits 16 w 2) l) r

/-- The address of ATOM and CAS (R32). -/
def decAAddr (w : Nat) (r : List Word) (k : AAddr → List Word → Decode Instr) : Decode Instr :=
  match fld w 6 2 with
  | 0 => withLit r fun l r => k (.base (bits 64 w 8) l) r
  | 1 => k (.lane (bits 64 w 8)) r
  | 2 => withLit r fun l r => k (.laneDisp (bits 64 w 8) l) r
  | _ => withLit r fun l r => k (.vreg (bits 64 w 8) l) r

/-- Major 0x00 of the opcode map (R35). -/
def dec00 (w : Nat) (r : List Word) : Decode Instr :=
  match fld w 21 3 with
  | 0 => if fld w 0 21 = 0 then .ok .nop
      else .error .reserved
  | 1 => if fld w 15 6 = 0 then decTgt w r fun t _ => .ok (.bra t)
      else .error .reserved
  | 2 => decTgt w r fun t _ => .ok (.brc (bits 64 w 15) t)
  | 3 => if fld w 18 3 = 0 then withLit r fun lit _ => .ok (.bdiv (bits 8 w 15) (bits 32768 w 0) lit)
      else .error .reserved
  | 4 => if fld w 0 21 = 0 then .ok .join
      else .error .reserved
  | 5 => if fld w 20 1 = 0 then decTgt w r fun t _ => .ok (.brk (bits 32 w 15) t)
      else .error .reserved
  | 6 => decTgt w r fun t _ => .ok (.call (bits 64 w 15) t)
  | _ => if fld w 0 15 = 0 then .ok (.ret (bits 64 w 15))
      else .error .reserved

/-- Major 0x01 of the opcode map (R35). -/
def dec01 (w : Nat) (r : List Word) : Decode Instr :=
  match fld w 21 3 with
  | 0 => if fld w 0 21 = 0 then .ok .yield
      else .error .reserved
  | 1 => if fld w 12 9 = 0 then .ok (.yieldR (bits 4096 w 0))
      else .error .reserved
  | 2 => if fld w 0 21 = 0 then .ok .exit
      else .error .reserved
  | 3 => if fld w 0 21 = 0 then .ok .region
      else .error .reserved
  | 4 => if fld w 12 9 = 0 then .ok (.waitc (bits 8 w 9) (bits 8 w 6) (bits 8 w 3) (bits 8 w 0))
      else .error .reserved
  | 5 => if fld w 0 21 = 32 then withLit r fun lit _ => .ok (.setfmt lit)
      else if fld w 0 9 = 0 ∧ fld w 15 6 = 0 then .ok (.setfmtScalar (bits 64 w 9))
      else .error .reserved
  | 6 => if fld w 0 15 = 0 then .ok (.getfmt (bits 64 w 15))
      else .error .reserved
  | _ => if fld w 0 15 = 0 ∧ fld w 18 3 = 0 then .ok (.mrst (bits 8 w 15))
      else .error .reserved

/-- Major 0x02 of the opcode map (R35). -/
def dec02 (w : Nat) (_r : List Word) : Decode Instr :=
  match fld w 21 3 with
  | 0 => if fld w 0 3 = 0 ∧ fld w 6 3 = 0 ∧ fld w 12 3 = 0 ∧ fld w 18 3 = 0 then .ok (.mand (bits 8 w 15) (bits 8 w 9) (bits 8 w 3))
      else if fld w 0 3 = 1 ∧ fld w 6 3 = 0 ∧ fld w 12 3 = 0 ∧ fld w 18 3 = 0 then .ok (.mor (bits 8 w 15) (bits 8 w 9) (bits 8 w 3))
      else if fld w 0 3 = 2 ∧ fld w 6 3 = 0 ∧ fld w 12 3 = 0 ∧ fld w 18 3 = 0 then .ok (.mxor (bits 8 w 15) (bits 8 w 9) (bits 8 w 3))
      else if fld w 0 9 = 3 ∧ fld w 12 3 = 0 ∧ fld w 18 3 = 0 then .ok (.mnot (bits 8 w 15) (bits 8 w 9))
      else .error .reserved
  | 1 => if fld w 0 15 = 0 ∧ fld w 18 3 = 0 then .ok (.msav (bits 8 w 15))
      else .error .reserved
  | 2 => if fld w 0 9 = 0 ∧ fld w 12 3 = 0 then .ok (.mpopc (bits 64 w 15) (bits 8 w 9))
      else .error .reserved
  | 3 => if fld w 0 9 = 0 ∧ fld w 12 3 = 0 then .ok (.voteAny (bits 64 w 15) (bits 8 w 9))
      else if fld w 0 9 = 1 ∧ fld w 12 3 = 0 then .ok (.voteAll (bits 64 w 15) (bits 8 w 9))
      else if fld w 0 9 = 2 ∧ fld w 12 3 = 0 then .ok (.voteBallot (bits 64 w 15) (bits 8 w 9))
      else .error .reserved
  | _ => .error .unassigned

/-- Major 0x04 of the opcode map (R35). -/
def dec04 (w : Nat) (_r : List Word) : Decode Instr :=
  match fld w 21 3 with
  | 0 => if fld w 0 3 = 0 then .ok (.sadd (bits 64 w 15) (bits 64 w 9) (bits 64 w 3))
      else .error .reserved
  | 1 => if fld w 0 3 = 0 then .ok (.ssub (bits 64 w 15) (bits 64 w 9) (bits 64 w 3))
      else .error .reserved
  | 2 => if fld w 0 3 = 0 then .ok (.smul (bits 64 w 15) (bits 64 w 9) (bits 64 w 3))
      else .error .reserved
  | 3 => if fld w 0 3 = 0 then .ok (.smulhI64 (bits 64 w 15) (bits 64 w 9) (bits 64 w 3))
      else if fld w 0 3 = 1 then .ok (.smulhN64 (bits 64 w 15) (bits 64 w 9) (bits 64 w 3))
      else .error .reserved
  | 4 => if fld w 0 3 = 0 then .ok (.sand (bits 64 w 15) (bits 64 w 9) (bits 64 w 3))
      else .error .reserved
  | 5 => if fld w 0 3 = 0 then .ok (.sor (bits 64 w 15) (bits 64 w 9) (bits 64 w 3))
      else .error .reserved
  | 6 => if fld w 0 3 = 0 then .ok (.sxor (bits 64 w 15) (bits 64 w 9) (bits 64 w 3))
      else .error .reserved
  | _ => .ok (.scmp (bits 64 w 15) (bits 64 w 9) (bits 64 w 3) (bits 8 w 0))

/-- Major 0x05 of the opcode map (R35). -/
def dec05 (w : Nat) (_r : List Word) : Decode Instr :=
  match fld w 21 3 with
  | 0 => if fld w 0 3 = 0 then .ok (.sshl (bits 64 w 15) (bits 64 w 9) (bits 64 w 3))
      else .error .reserved
  | 1 => if fld w 0 3 = 0 then .ok (.sshr (bits 64 w 15) (bits 64 w 9) (bits 64 w 3))
      else .error .reserved
  | 2 => if fld w 0 3 = 0 then .ok (.ssra (bits 64 w 15) (bits 64 w 9) (bits 64 w 3))
      else .error .reserved
  | 3 => if fld w 0 3 = 0 then .ok (.ssel (bits 64 w 15) (bits 64 w 9) (bits 64 w 3))
      else .error .reserved
  | 4 => if fld w 0 9 = 0 then .ok (.smov (bits 64 w 15) (bits 64 w 9))
      else .error .reserved
  | 5 => if fld w 0 9 = 0 then .ok (.srd (bits 64 w 15) (bits 64 w 9))
      else .error .reserved
  | 6 => if fld w 0 9 = 0 then .ok (.swr (bits 64 w 15) (bits 64 w 9))
      else .error .reserved
  | _ => .error .unassigned

/-- Major 0x06 of the opcode map (R35). -/
def dec06 (w : Nat) (r : List Word) : Decode Instr :=
  match fld w 21 3 with
  | 0 => if fld w 6 3 = 0 then decSImm w r fun i _ => .ok (.saddImm (bits 64 w 15) (bits 64 w 9) i)
      else .error .reserved
  | 1 => if fld w 6 3 = 0 then decSImm w r fun i _ => .ok (.sandImm (bits 64 w 15) (bits 64 w 9) i)
      else .error .reserved
  | 2 => decSImm w r fun i _ => .ok (.scmpImm (bits 64 w 15) (bits 64 w 9) (bits 8 w 6) i)
  | 3 => if fld w 6 9 = 0 then decSImm w r fun i _ => .ok (.smovImm (bits 64 w 15) i)
      else .error .reserved
  | 4 => if fld w 6 3 = 0 then decSImm w r fun i _ => .ok (.sshlImm (bits 64 w 15) (bits 64 w 9) i)
      else .error .reserved
  | 5 => if fld w 6 3 = 0 then decSImm w r fun i _ => .ok (.sshrImm (bits 64 w 15) (bits 64 w 9) i)
      else .error .reserved
  | _ => .error .unassigned

/-- Major 0x08 of the opcode map (R35). -/
def dec08 (w : Nat) (_r : List Word) : Decode Instr :=
  match fld w 21 3 with
  | 0 => if fld w 3 6 = 0 then .ok (.caprd (bits 64 w 15) (bits 64 w 9) (bits 8 w 0))
      else .error .reserved
  | 1 => if fld w 0 15 = 0 then .ok (.noteGet (bits 64 w 15))
      else .error .reserved
  | 2 => if fld w 3 12 = 0 then .ok (.noteCnt (bits 64 w 15) (bits 8 w 0))
      else .error .reserved
  | _ => .error .unassigned

/-- Major 0x09 of the opcode map (R35). -/
def dec09 (w : Nat) (_r : List Word) : Decode Instr :=
  match fld w 21 3 with
  | 0 => if fld w 0 9 = 0 then .ok (.ctxNew (bits 64 w 15) (bits 64 w 9))
      else .error .reserved
  | 1 => if fld w 3 6 = 0 then .ok (.ctxSw (bits 64 w 15) (bits 64 w 9) (bits 8 w 0))
      else .error .reserved
  | 2 => if fld w 0 9 = 0 then .ok (.ctxEnd (bits 64 w 15) (bits 64 w 9))
      else .error .reserved
  | 3 => if fld w 8 7 = 0 then .ok (.exitK (bits 64 w 15) (bits 256 w 0))
      else .error .reserved
  | _ => .error .unassigned

/-- Major 0x10 of the opcode map (R35). -/
def dec10 (w : Nat) (_r : List Word) : Decode Instr :=
  match fld w 21 3 with
  | 0 => .ok (.vaddI32 (bits 128 w 14) (bits 128 w 7) (bits 128 w 0))
  | 1 => .ok (.vsubI32 (bits 128 w 14) (bits 128 w 7) (bits 128 w 0))
  | 2 => .ok (.vmulI32 (bits 128 w 14) (bits 128 w 7) (bits 128 w 0))
  | 3 => .ok (.vmulhI32 (bits 128 w 14) (bits 128 w 7) (bits 128 w 0))
  | 4 => .ok (.vmulhN32 (bits 128 w 14) (bits 128 w 7) (bits 128 w 0))
  | 5 => .ok (.vmadI32 (bits 128 w 14) (bits 128 w 7) (bits 128 w 0))
  | 6 => .ok (.vminI32 (bits 128 w 14) (bits 128 w 7) (bits 128 w 0))
  | _ => .ok (.vmaxI32 (bits 128 w 14) (bits 128 w 7) (bits 128 w 0))

/-- Major 0x11 of the opcode map (R35). -/
def dec11 (w : Nat) (_r : List Word) : Decode Instr :=
  match fld w 21 3 with
  | 0 => .ok (.vminN32 (bits 128 w 14) (bits 128 w 7) (bits 128 w 0))
  | 1 => .ok (.vmaxN32 (bits 128 w 14) (bits 128 w 7) (bits 128 w 0))
  | 2 => .ok (.vand (bits 128 w 14) (bits 128 w 7) (bits 128 w 0))
  | 3 => .ok (.vor (bits 128 w 14) (bits 128 w 7) (bits 128 w 0))
  | 4 => .ok (.vxor (bits 128 w 14) (bits 128 w 7) (bits 128 w 0))
  | 5 => .ok (.vshl (bits 128 w 14) (bits 128 w 7) (bits 128 w 0))
  | 6 => .ok (.vshr (bits 128 w 14) (bits 128 w 7) (bits 128 w 0))
  | _ => .ok (.vsra (bits 128 w 14) (bits 128 w 7) (bits 128 w 0))

/-- Major 0x12 of the opcode map (R35). -/
def dec12 (w : Nat) (r : List Word) : Decode Instr :=
  match fld w 21 3 with
  | 0 => decVI w r fun a b _ => .ok (.vaddI32Vi (bits 128 w 14) a b)
  | 1 => decVI w r fun a b _ => .ok (.vsubI32Vi (bits 128 w 14) a b)
  | 2 => decVI w r fun a b _ => .ok (.vmulI32Vi (bits 128 w 14) a b)
  | 3 => decVI w r fun a b _ => .ok (.vandVi (bits 128 w 14) a b)
  | 4 => decVI w r fun a b _ => .ok (.vorVi (bits 128 w 14) a b)
  | 5 => decVI w r fun a b _ => .ok (.vxorVi (bits 128 w 14) a b)
  | 6 => decVI w r fun a b _ => .ok (.vshlVi (bits 128 w 14) a b)
  | _ => decVI w r fun a b _ => .ok (.vshrVi (bits 128 w 14) a b)

/-- Major 0x13 of the opcode map (R35). -/
def dec13 (w : Nat) (r : List Word) : Decode Instr :=
  match fld w 21 3 with
  | 0 => decVI w r fun a b _ => .ok (.vsraVi (bits 128 w 14) a b)
  | 1 => if fld w 0 7 = 0 then .ok (.vmovI32 (bits 128 w 14) (bits 128 w 7))
      else .error .reserved
  | 2 => if fld w 0 6 = 0 then decOpA w r fun a _ => .ok (.vmovI32Vi (bits 128 w 14) a)
      else .error .reserved
  | 3 => if fld w 7 4 = 0 then .ok (.vsel (bits 128 w 14) (bits 8 w 11) (bits 128 w 0))
      else .error .reserved
  | 4 => .ok (.vbfe (bits 128 w 14) (bits 128 w 7) (bits 128 w 0))
  | 5 => .ok (.vbfi (bits 128 w 14) (bits 128 w 7) (bits 128 w 0))
  | 6 => .ok (.vcmp (bits 8 w 18) (bits 16 w 14) (bits 128 w 7) (bits 128 w 0))
  | _ => decVI w r fun a b _ => .ok (.vcmpVi (bits 8 w 18) (bits 16 w 14) a b)

/-- Major 0x14 of the opcode map (R35). -/
def dec14 (w : Nat) (_r : List Word) : Decode Instr :=
  match fld w 21 3 with
  | 0 => .ok (.vaddI16x2 (bits 128 w 14) (bits 128 w 7) (bits 128 w 0))
  | 1 => .ok (.vsubI16x2 (bits 128 w 14) (bits 128 w 7) (bits 128 w 0))
  | 2 => .ok (.vaddI8x4 (bits 128 w 14) (bits 128 w 7) (bits 128 w 0))
  | 3 => .ok (.vsubI8x4 (bits 128 w 14) (bits 128 w 7) (bits 128 w 0))
  | _ => .error .unassigned

/-- Major 0x15 of the opcode map (R35). -/
def dec15 (w : Nat) (r : List Word) : Decode Instr :=
  match fld w 21 3 with
  | 0 => .ok (.vfadd (bits 128 w 14) (bits 128 w 7) (bits 128 w 0))
  | 1 => .ok (.vfsub (bits 128 w 14) (bits 128 w 7) (bits 128 w 0))
  | 2 => .ok (.vfmul (bits 128 w 14) (bits 128 w 7) (bits 128 w 0))
  | 3 => .ok (.vfma (bits 128 w 14) (bits 128 w 7) (bits 128 w 0))
  | 4 => .ok (.vfmin (bits 128 w 14) (bits 128 w 7) (bits 128 w 0))
  | 5 => .ok (.vfmax (bits 128 w 14) (bits 128 w 7) (bits 128 w 0))
  | 6 => .ok (.vfcmp (bits 8 w 18) (bits 16 w 14) (bits 128 w 7) (bits 128 w 0))
  | _ => decVI w r fun a b _ => .ok (.vfaddVi (bits 128 w 14) a b)

/-- Major 0x16 of the opcode map (R35). -/
def dec16 (w : Nat) (r : List Word) : Decode Instr :=
  match fld w 21 3 with
  | 0 => decVI w r fun a b _ => .ok (.vfmulVi (bits 128 w 14) a b)
  | 1 => decVI w r fun a b _ => .ok (.vfcmpVi (bits 8 w 18) (bits 16 w 14) a b)
  | 2 => .ok (.vcvt (bits 128 w 14) (bits 128 w 7) (bits 16 w 3) (bits 8 w 0))
  | 3 => .ok (.vqnt (bits 128 w 14) (bits 128 w 7) (bits 128 w 0))
  | 4 => .ok (.vdqnt (bits 128 w 14) (bits 128 w 7) (bits 128 w 0))
  | _ => .error .unassigned

/-- Major 0x17 of the opcode map (R35). -/
def dec17 (w : Nat) (r : List Word) : Decode Instr :=
  match fld w 21 3 with
  | 0 => if fld w 0 7 = 0 then .ok (.vexp2 (bits 128 w 14) (bits 128 w 7))
      else if fld w 0 7 = 1 then .ok (.vlog2 (bits 128 w 14) (bits 128 w 7))
      else if fld w 0 7 = 2 then .ok (.vrcp (bits 128 w 14) (bits 128 w 7))
      else if fld w 0 7 = 3 then .ok (.vrsq (bits 128 w 14) (bits 128 w 7))
      else if fld w 0 7 = 4 then .ok (.vsin (bits 128 w 14) (bits 128 w 7))
      else if fld w 0 7 = 5 then .ok (.vcos (bits 128 w 14) (bits 128 w 7))
      else if fld w 0 7 = 6 then .ok (.vtanh (bits 128 w 14) (bits 128 w 7))
      else .error .reserved
  | 1 => if fld w 0 7 = 0 then .ok (.vact (bits 128 w 14) (bits 128 w 7))
      else .error .reserved
  | 2 => if fld w 1 7 = 0 ∧ fld w 14 7 = 0 then withLit r fun disp _ => .ok (.actld (bits 64 w 8) disp (bits 2 w 0))
      else .error .reserved
  | 3 => if fld w 0 21 = 0 then .ok .actsw
      else .error .reserved
  | 4 => if fld w 0 14 = 0 then .ok (.rng (bits 128 w 14))
      else .error .reserved
  | 5 => if fld w 0 7 = 0 ∧ fld w 14 7 = 0 then .ok (.rngskip (bits 128 w 7))
      else .error .reserved
  | 6 => if fld w 14 7 = 0 then .ok (.rngset (bits 128 w 7) (bits 128 w 0))
      else .error .reserved
  | _ => .error .unassigned

/-- Major 0x18 of the opcode map (R35). -/
def dec18 (w : Nat) (_r : List Word) : Decode Instr :=
  match fld w 21 3 with
  | 0 => .ok (.vshfl (bits 128 w 14) (bits 128 w 7) (bits 128 w 0))
  | 1 => .ok (.vbcast (bits 128 w 14) (bits 128 w 7) (bits 128 w 0))
  | 2 => if fld w 4 3 = 0 then .ok (.vred (bits 128 w 14) (bits 128 w 7) (bits 16 w 0))
      else .error .reserved
  | 3 => if fld w 4 3 = 0 then .ok (.vscan (bits 128 w 14) (bits 128 w 7) (bits 16 w 0))
      else .error .reserved
  | 4 => .ok (.vrot (bits 128 w 14) (bits 128 w 7) (bits 128 w 0))
  | 5 => if fld w 3 11 = 0 then .ok (.vbal (bits 128 w 14) (bits 8 w 0))
      else .error .reserved
  | 6 => if fld w 5 2 = 0 ∧ fld w 14 7 = 0 then .ok (.xsend (bits 128 w 7) (bits 2 w 4) (bits 16 w 0))
      else .error .reserved
  | _ => if fld w 5 9 = 0 then .ok (.xrecv (bits 128 w 14) (bits 2 w 4) (bits 16 w 0))
      else .error .reserved

/-- Major 0x28 of the opcode map (R35). -/
def dec28 (w : Nat) (r : List Word) : Decode Instr :=
  match fld w 21 3 with
  | 0 => decAddr w r fun ad _ => .ok (.ldg (bits 128 w 14) ad (bits 4 w 0))
  | 1 => decAddr w r fun ad _ => .ok (.stg (bits 128 w 14) ad (bits 4 w 0))
  | 2 => decAddr w r fun ad _ => .ok (.ldsp (bits 128 w 14) ad (bits 4 w 0))
  | 3 => decAddr w r fun ad _ => .ok (.stsp (bits 128 w 14) ad (bits 4 w 0))
  | 4 => decAddr w r fun ad _ => .ok (.ldk (bits 128 w 14) ad (bits 4 w 0))
  | 5 => if fld w 2 4 = 0 ∧ fld w 9 12 = 0 then .ok (.fence (bits 8 w 6) (bits 4 w 0))
      else .error .reserved
  | 6 => if fld w 1 1 = 0 then decAAddr w r fun ad _ => .ok (.cas (bits 128 w 14) ad (bits 4 w 4) (bits 4 w 2) (bits 2 w 0))
      else .error .reserved
  | _ => .error .unassigned

/-- Major 0x29 of the opcode map (R35). -/
def dec29 (w : Nat) (r : List Word) : Decode Instr :=
  match fld w 21 3 with
  | 0 => if fld w 1 1 = 0 then decAAddr w r fun ad _ => .ok (.atomAdd (bits 128 w 14) ad (bits 4 w 4) (bits 4 w 2) (bits 2 w 0))
      else .error .reserved
  | 1 => if fld w 1 1 = 0 then decAAddr w r fun ad _ => .ok (.atomMin (bits 128 w 14) ad (bits 4 w 4) (bits 4 w 2) (bits 2 w 0))
      else .error .reserved
  | 2 => if fld w 1 1 = 0 then decAAddr w r fun ad _ => .ok (.atomMax (bits 128 w 14) ad (bits 4 w 4) (bits 4 w 2) (bits 2 w 0))
      else .error .reserved
  | 3 => if fld w 1 1 = 0 then decAAddr w r fun ad _ => .ok (.atomAnd (bits 128 w 14) ad (bits 4 w 4) (bits 4 w 2) (bits 2 w 0))
      else .error .reserved
  | 4 => if fld w 1 1 = 0 then decAAddr w r fun ad _ => .ok (.atomOr (bits 128 w 14) ad (bits 4 w 4) (bits 4 w 2) (bits 2 w 0))
      else .error .reserved
  | 5 => if fld w 1 1 = 0 then decAAddr w r fun ad _ => .ok (.atomXor (bits 128 w 14) ad (bits 4 w 4) (bits 4 w 2) (bits 2 w 0))
      else .error .reserved
  | 6 => if fld w 1 1 = 0 then decAAddr w r fun ad _ => .ok (.atomExch (bits 128 w 14) ad (bits 4 w 4) (bits 4 w 2) (bits 2 w 0))
      else .error .reserved
  | _ => if fld w 1 1 = 0 ∧ fld w 4 2 = 0 then decAAddr w r fun ad _ => .ok (.atomFadd (bits 128 w 14) ad (bits 4 w 2) (bits 2 w 0))
      else .error .reserved

/-- Major 0x2A of the opcode map (R35). -/
def dec2A (w : Nat) (r : List Word) : Decode Instr :=
  match fld w 21 3 with
  | 0 => withLit r fun l _ => if fld l.toNat 28 4 = 0 then .ok (.cpy (bits 16 w 17) (bits 8 w 14) (bits 64 w 8) (bits 64 w 2) (bits 4 w 0) (bits 268435456 l.toNat 0)) else .error .reserved
  | 1 => withLit r fun l _ => if fld l.toNat 29 3 = 0 then .ok (.cpyg (bits 16 w 17) (bits 8 w 14) (bits 64 w 8) (bits 64 w 2) (bits 4 w 0) (bits 262144 l.toNat 0) (bits 2048 l.toNat 18)) else .error .reserved
  | 2 => withLit r fun l _ => if fld l.toNat 29 3 = 0 then .ok (.cpys (bits 16 w 17) (bits 8 w 14) (bits 64 w 8) (bits 64 w 2) (bits 4 w 0) (bits 262144 l.toNat 0) (bits 2048 l.toNat 18)) else .error .reserved
  | 3 => if fld w 0 9 = 0 ∧ fld w 13 2 = 0 then .ok (.fwait (bits 64 w 15) (bits 16 w 9))
      else .error .reserved
  | 4 => if fld w 0 9 = 0 ∧ fld w 13 2 = 0 then .ok (.ftest (bits 64 w 15) (bits 16 w 9))
      else .error .reserved
  | 5 => if fld w 0 9 = 0 ∧ fld w 13 8 = 0 then .ok (.fcan (bits 16 w 9))
      else .error .reserved
  | _ => .error .unassigned

/-- Major 0x30 of the opcode map (R35). -/
def dec30 (w : Nat) (r : List Word) : Decode Instr :=
  match fld w 21 3 with
  | 0 => if fld w 1 1 = 0 ∧ fld w 16 5 = 0 then decAddr w r fun ad _ => .ok (.mxlb (bits 4 w 14) ad (bits 2 w 0))
      else .error .reserved
  | 1 => if fld w 1 1 = 0 ∧ fld w 17 4 = 0 then decAddr w r fun ad _ => .ok (.mxra (bits 8 w 14) ad (bits 2 w 0))
      else .error .reserved
  | 2 => if fld w 0 2 = 0 ∧ fld w 17 4 = 0 then .ok (.mxrv (bits 8 w 14) (bits 128 w 7) (bits 32 w 2))
      else .error .reserved
  | 3 => if fld w 1 7 = 0 ∧ fld w 16 5 = 0 then withLit r fun disp _ => .ok (.mxst (bits 4 w 14) (bits 64 w 8) disp (bits 2 w 0))
      else .error .reserved
  | 4 => if fld w 1 7 = 0 ∧ fld w 16 5 = 0 then withLit r fun disp _ => .ok (.mxld (bits 4 w 14) (bits 64 w 8) disp (bits 2 w 0))
      else .error .reserved
  | 5 => if fld w 1 1 = 0 ∧ fld w 16 5 = 0 then decAddr w r fun ad _ => .ok (.mxdrn (bits 4 w 14) ad (bits 2 w 0))
      else .error .reserved
  | 6 => if fld w 1 1 = 0 ∧ fld w 16 5 = 0 then decAddr w r fun ad _ => .ok (.mxdrnt (bits 4 w 14) ad (bits 2 w 0))
      else .error .reserved
  | _ => .error .unassigned

/-- Major 0x31 of the opcode map (R35). -/
def dec31 (w : Nat) (_r : List Word) : Decode Instr :=
  match fld w 21 3 with
  | 0 => if fld w 0 10 = 0 ∧ fld w 17 4 = 0 then .ok (.mxmac (bits 4 w 15) (bits 4 w 13) (bits 8 w 10))
      else .error .reserved
  | 1 => if fld w 0 10 = 0 ∧ fld w 17 4 = 0 then .ok (.mxmacs (bits 4 w 15) (bits 4 w 13) (bits 8 w 10))
      else .error .reserved
  | 2 => if fld w 2 8 = 0 ∧ fld w 13 2 = 0 ∧ fld w 17 4 = 0 then .ok (.mxclr (bits 4 w 15) (bits 8 w 10) (bits 4 w 0))
      else .error .reserved
  | 3 => if fld w 0 3 = 0 ∧ fld w 9 6 = 0 ∧ fld w 17 4 = 0 then .ok (.mxchk (bits 4 w 15) (bits 64 w 3))
      else .error .reserved
  | 4 => if fld w 9 6 = 0 ∧ fld w 17 4 = 0 then .ok (.mxinj (bits 4 w 15) (bits 64 w 3) (bits 8 w 0))
      else .error .reserved
  | _ => .error .unassigned

/-- Major 0x38 of the opcode map (R35). -/
def dec38 (w : Nat) (r : List Word) : Decode Instr :=
  match fld w 21 3 with
  | 0 => if fld w 0 3 = 0 ∧ fld w 9 8 = 0 then .ok (.tapcfg (bits 16 w 17) (bits 64 w 3))
      else .error .reserved
  | 1 => if fld w 2 1 = 0 ∧ fld w 10 7 = 0 then .ok (.tapin (bits 16 w 17) (bits 128 w 3) (bits 4 w 0))
      else .error .reserved
  | 2 => if fld w 0 3 = 0 ∧ fld w 9 8 = 0 then .ok (.tapq (bits 16 w 17) (bits 64 w 3))
      else .error .reserved
  | 3 => if fld w 0 17 = 0 then .ok (.tapclr (bits 16 w 17))
      else .error .reserved
  | 4 => if fld w 1 7 = 0 ∧ fld w 18 3 = 0 then withLit r fun disp _ => .ok (.tapsav (bits 16 w 14) (bits 64 w 8) disp (bits 2 w 0))
      else .error .reserved
  | 5 => if fld w 1 7 = 0 ∧ fld w 18 3 = 0 then withLit r fun disp _ => .ok (.taprst (bits 16 w 14) (bits 64 w 8) disp (bits 2 w 0))
      else .error .reserved
  | 6 => if fld w 1 2 = 0 ∧ fld w 9 8 = 0 then .ok (.tapstat (bits 16 w 17) (bits 64 w 3) (bits 2 w 0))
      else .error .reserved
  | _ => .error .unassigned

/-- Major 0x3C of the opcode map (R35). -/
def dec3C (w : Nat) (r : List Word) : Decode Instr :=
  match fld w 21 3 with
  | 0 => if fld w 0 9 = 0 then .ok (.tnow (bits 64 w 15) (bits 64 w 9))
      else .error .reserved
  | 1 => if fld w 0 2 = 0 then decAddr w r fun ad r => withLit r fun l _ => if fld l.toNat 4 28 = 0 then .ok (.pub (bits 128 w 14) ad (bits 16 l.toNat 0)) else .error .reserved
      else .error .reserved
  | 2 => if fld w 0 2 = 0 then decAddr w r fun ad r => withLit r fun l _ => if fld l.toNat 6 2 = 0 ∧ fld l.toNat 11 21 = 0 then .ok (.ldat (bits 128 w 14) ad (bits 64 l.toNat 0) (bits 8 l.toNat 8)) else .error .reserved
      else .error .reserved
  | 3 => if fld w 0 21 = 0 then .ok .dusk
      else .error .reserved
  | 4 => if fld w 0 9 = 0 ∧ fld w 13 8 = 0 then .ok (.pubtxB (bits 16 w 9))
      else .error .reserved
  | 5 => if fld w 0 21 = 0 then .ok .pubtxC
      else .error .reserved
  | 6 => if fld w 0 21 = 0 then .ok .pubtxA
      else .error .reserved
  | _ => if fld w 0 2 = 0 then decAddr w r fun ad _ => .ok (.sig (bits 128 w 14) ad)
      else .error .reserved

/-- Major 0x3D of the opcode map (R35). -/
def dec3D (w : Nat) (_r : List Word) : Decode Instr :=
  match fld w 21 3 with
  | 0 => if fld w 4 17 = 0 then .ok (.barJoin (bits 16 w 0))
      else .error .reserved
  | 1 => if fld w 4 17 = 0 then .ok (.barLeave (bits 16 w 0))
      else .error .reserved
  | 2 => if fld w 4 11 = 0 then .ok (.barArv (bits 64 w 15) (bits 16 w 0))
      else if fld w 4 5 = 4 then .ok (.barArvCount (bits 64 w 15) (bits 64 w 9) (bits 16 w 0))
      else .error .reserved
  | 3 => if fld w 4 5 = 0 ∧ fld w 15 6 = 0 then .ok (.barWait (bits 64 w 9) (bits 16 w 0))
      else .error .reserved
  | 4 => if fld w 4 17 = 0 then .ok (.barSync (bits 16 w 0))
      else .error .reserved
  | 5 => if fld w 0 21 = 0 then .ok .dbar
      else .error .reserved
  | 6 => .ok (.mbxSend (bits 64 w 15) (bits 64 w 9) (bits 64 w 3) (bits 8 w 0))
  | _ => if fld w 3 12 = 0 then .ok (.mbxWait (bits 64 w 15) (bits 8 w 0))
      else .error .reserved

/-- Major 0x3E of the opcode map (R35). -/
def dec3E (w : Nat) (r : List Word) : Decode Instr :=
  match fld w 21 3 with
  | 0 => if fld w 6 15 = 0 then decSImm w r fun i _ => .ok (.trap i)
      else .error .reserved
  | 1 => if fld w 0 15 = 0 ∧ fld w 17 4 = 0 then .ok (.rett (bits 4 w 15))
      else .error .reserved
  | 2 => if fld w 0 3 = 0 then .ok (.launch (bits 64 w 15) (bits 64 w 9) (bits 64 w 3))
      else .error .reserved
  | 3 => if fld w 0 9 = 0 then .ok (.fqPop (bits 64 w 15) (bits 64 w 9))
      else .error .reserved
  | 4 => if fld w 3 6 = 0 then .ok (.fqDone (bits 64 w 15) (bits 64 w 9) (bits 8 w 0))
      else .error .reserved
  | 5 => .ok (.tlbinv (bits 64 w 15) (bits 64 w 9) (bits 64 w 3) (bits 8 w 0))
  | 6 => if fld w 0 9 = 0 then .ok (.snap (bits 64 w 15) (bits 64 w 9))
      else .error .reserved
  | _ => if fld w 0 21 = 0 then .ok .halt
      else .error .reserved

/-- One instruction word with the literal words after it (R23, R27, R35). -/
def decodeWord (w : Nat) (r : List Word) : Decode Instr :=
  match fld w 24 6 with
  | 0x00 => dec00 w r
  | 0x01 => dec01 w r
  | 0x02 => dec02 w r
  | 0x04 => dec04 w r
  | 0x05 => dec05 w r
  | 0x06 => dec06 w r
  | 0x08 => dec08 w r
  | 0x09 => dec09 w r
  | 0x10 => dec10 w r
  | 0x11 => dec11 w r
  | 0x12 => dec12 w r
  | 0x13 => dec13 w r
  | 0x14 => dec14 w r
  | 0x15 => dec15 w r
  | 0x16 => dec16 w r
  | 0x17 => dec17 w r
  | 0x18 => dec18 w r
  | 0x28 => dec28 w r
  | 0x29 => dec29 w r
  | 0x2A => dec2A w r
  | 0x30 => dec30 w r
  | 0x31 => dec31 w r
  | 0x38 => dec38 w r
  | 0x3C => dec3C w r
  | 0x3D => dec3D w r
  | 0x3E => dec3E w r
  | _ => .error .unassigned

/-- An instruction and the stall code of its word (R23). -/
structure Decoded where
  stall : Fin 4
  instr : Instr
  deriving DecidableEq, Repr

/-- The instruction that begins a list of words. -/
def decode (ws : List Word) : Decode Decoded :=
  match ws with
  | [] => .error .truncated
  | w :: r =>
    match decodeWord w.toNat r with
    | .ok i => .ok ⟨bits 4 w.toNat 30, i⟩
    | .error e => .error e

/-! The encoder, written from the same tables. -/

/-- Fields put at their low bits. -/
def pack : List (Nat × Nat) → Nat
  | [] => 0
  | (v, lo) :: r => v * 2 ^ lo + pack r

/-- The first word: stall code, the row's fixed bits, its fields. -/
def word (st : Fin 4) (m : Nat) (fs : List (Nat × Nat)) : List Word :=
  [BitVec.ofNat 32 (st.val * 2 ^ 30 + (m + pack fs))]

def tgtCode : Tgt → Nat
  | .near c => c.val
  | .far _ => 0x4000

def tgtLit : Tgt → List Word
  | .near _ => []
  | .far l => [l]

def simmCode : SImm → Nat
  | .small c => c.val
  | .lit _ => 0x20

def simmLit : SImm → List Word
  | .small _ => []
  | .lit l => [l]

def shortCode : Short → Nat
  | .imm n => n.val
  | .neg k => 0x20 + k.val
  | .lit _ => 0x30
  | .lane => 0x31
  | .spec k => 0x32 + k.val
  | .rsvd k => 0x3C + k.val

def shortLit : Short → List Word
  | .lit l => [l]
  | .imm _ | .neg _ | .lane | .spec _ | .rsvd _ => []

def opaCode : OpA → Nat
  | .vreg r => r.val
  | .sreg r => 0x80 + r.val
  | .short c => 0xC0 + shortCode c

def opaLit : OpA → List Word
  | .vreg _ => []
  | .sreg _ => []
  | .short c => shortLit c

/-- Bits [13:8] sbase, [7:6] om, [5:2] sc (R28). -/
def addrCode : Addr → Nat
  | .base b _ => b.val * 2 ^ 8
  | .lane b c => b.val * 2 ^ 8 + 1 * 2 ^ 6 + c.val * 2 ^ 2
  | .laneDisp b c _ => b.val * 2 ^ 8 + 2 * 2 ^ 6 + c.val * 2 ^ 2
  | .vreg b c _ => b.val * 2 ^ 8 + 3 * 2 ^ 6 + c.val * 2 ^ 2

def addrLit : Addr → List Word
  | .base _ l => [l]
  | .lane _ _ => []
  | .laneDisp _ _ l => [l]
  | .vreg _ _ l => [l]

def aaddrCode : AAddr → Nat
  | .base b _ => b.val * 2 ^ 8
  | .lane b => b.val * 2 ^ 8 + 1 * 2 ^ 6
  | .laneDisp b _ => b.val * 2 ^ 8 + 2 * 2 ^ 6
  | .vreg b _ => b.val * 2 ^ 8 + 3 * 2 ^ 6

def aaddrLit : AAddr → List Word
  | .base _ l => [l]
  | .lane _ => []
  | .laneDisp _ l => [l]
  | .vreg _ l => [l]

/-- The words of an instruction with stall code `stl`; an operation or event has none. -/
def encode (stl : Fin 4) (i : Instr) : List Word :=
  match i with
  | .nop => word stl 0x00000000 []
  | .bra t => word stl 0x00200000 [(tgtCode t, 0)] ++ (tgtLit t)
  | .brc a t => word stl 0x00400000 [(a.val, 15), (tgtCode t, 0)] ++ (tgtLit t)
  | .bdiv m t rej => word stl 0x00600000 [(m.val, 15), (t.val, 0)] ++ ([rej])
  | .join => word stl 0x00800000 []
  | .brk n t => word stl 0x00A00000 [(n.val, 15), (tgtCode t, 0)] ++ (tgtLit t)
  | .call d t => word stl 0x00C00000 [(d.val, 15), (tgtCode t, 0)] ++ (tgtLit t)
  | .ret a => word stl 0x00E00000 [(a.val, 15)]
  | .yield => word stl 0x01000000 []
  | .yieldR im => word stl 0x01200000 [(im.val, 0)]
  | .exit => word stl 0x01400000 []
  | .region => word stl 0x01600000 []
  | .waitc v sg m c => word stl 0x01800000 [(v.val, 9), (sg.val, 6), (m.val, 3), (c.val, 0)]
  | .setfmt lit => word stl 0x01A00020 [] ++ ([lit])
  | .setfmtScalar a => word stl 0x01A00000 [(a.val, 9)]
  | .getfmt d => word stl 0x01C00000 [(d.val, 15)]
  | .mrst m => word stl 0x01E00000 [(m.val, 15)]
  | .mand d a b => word stl 0x02000000 [(d.val, 15), (a.val, 9), (b.val, 3)]
  | .mor d a b => word stl 0x02000001 [(d.val, 15), (a.val, 9), (b.val, 3)]
  | .mxor d a b => word stl 0x02000002 [(d.val, 15), (a.val, 9), (b.val, 3)]
  | .mnot d a => word stl 0x02000003 [(d.val, 15), (a.val, 9)]
  | .msav d => word stl 0x02200000 [(d.val, 15)]
  | .mpopc d a => word stl 0x02400000 [(d.val, 15), (a.val, 9)]
  | .voteAny d a => word stl 0x02600000 [(d.val, 15), (a.val, 9)]
  | .voteAll d a => word stl 0x02600001 [(d.val, 15), (a.val, 9)]
  | .voteBallot d a => word stl 0x02600002 [(d.val, 15), (a.val, 9)]
  | .sadd d a b => word stl 0x04000000 [(d.val, 15), (a.val, 9), (b.val, 3)]
  | .ssub d a b => word stl 0x04200000 [(d.val, 15), (a.val, 9), (b.val, 3)]
  | .smul d a b => word stl 0x04400000 [(d.val, 15), (a.val, 9), (b.val, 3)]
  | .smulhI64 d a b => word stl 0x04600000 [(d.val, 15), (a.val, 9), (b.val, 3)]
  | .smulhN64 d a b => word stl 0x04600001 [(d.val, 15), (a.val, 9), (b.val, 3)]
  | .sand d a b => word stl 0x04800000 [(d.val, 15), (a.val, 9), (b.val, 3)]
  | .sor d a b => word stl 0x04A00000 [(d.val, 15), (a.val, 9), (b.val, 3)]
  | .sxor d a b => word stl 0x04C00000 [(d.val, 15), (a.val, 9), (b.val, 3)]
  | .scmp d a b x => word stl 0x04E00000 [(d.val, 15), (a.val, 9), (b.val, 3), (x.val, 0)]
  | .sshl d a b => word stl 0x05000000 [(d.val, 15), (a.val, 9), (b.val, 3)]
  | .sshr d a b => word stl 0x05200000 [(d.val, 15), (a.val, 9), (b.val, 3)]
  | .ssra d a b => word stl 0x05400000 [(d.val, 15), (a.val, 9), (b.val, 3)]
  | .ssel d a b => word stl 0x05600000 [(d.val, 15), (a.val, 9), (b.val, 3)]
  | .smov d a => word stl 0x05800000 [(d.val, 15), (a.val, 9)]
  | .srd d n => word stl 0x05A00000 [(d.val, 15), (n.val, 9)]
  | .swr n a => word stl 0x05C00000 [(n.val, 15), (a.val, 9)]
  | .saddImm d a im => word stl 0x06000000 [(d.val, 15), (a.val, 9), (simmCode im, 0)] ++ (simmLit im)
  | .sandImm d a im => word stl 0x06200000 [(d.val, 15), (a.val, 9), (simmCode im, 0)] ++ (simmLit im)
  | .scmpImm d a x im => word stl 0x06400000 [(d.val, 15), (a.val, 9), (x.val, 6), (simmCode im, 0)] ++ (simmLit im)
  | .smovImm d im => word stl 0x06600000 [(d.val, 15), (simmCode im, 0)] ++ (simmLit im)
  | .sshlImm d a im => word stl 0x06800000 [(d.val, 15), (a.val, 9), (simmCode im, 0)] ++ (simmLit im)
  | .sshrImm d a im => word stl 0x06A00000 [(d.val, 15), (a.val, 9), (simmCode im, 0)] ++ (simmLit im)
  | .caprd d a x => word stl 0x08000000 [(d.val, 15), (a.val, 9), (x.val, 0)]
  | .noteGet d => word stl 0x08200000 [(d.val, 15)]
  | .noteCnt d x => word stl 0x08400000 [(d.val, 15), (x.val, 0)]
  | .ctxNew d a => word stl 0x09000000 [(d.val, 15), (a.val, 9)]
  | .ctxSw d a x => word stl 0x09200000 [(d.val, 15), (a.val, 9), (x.val, 0)]
  | .ctxEnd d a => word stl 0x09400000 [(d.val, 15), (a.val, 9)]
  | .exitK a c => word stl 0x09600000 [(a.val, 15), (c.val, 0)]
  | .vaddI32 d a b => word stl 0x10000000 [(d.val, 14), (a.val, 7), (b.val, 0)]
  | .vsubI32 d a b => word stl 0x10200000 [(d.val, 14), (a.val, 7), (b.val, 0)]
  | .vmulI32 d a b => word stl 0x10400000 [(d.val, 14), (a.val, 7), (b.val, 0)]
  | .vmulhI32 d a b => word stl 0x10600000 [(d.val, 14), (a.val, 7), (b.val, 0)]
  | .vmulhN32 d a b => word stl 0x10800000 [(d.val, 14), (a.val, 7), (b.val, 0)]
  | .vmadI32 d a b => word stl 0x10A00000 [(d.val, 14), (a.val, 7), (b.val, 0)]
  | .vminI32 d a b => word stl 0x10C00000 [(d.val, 14), (a.val, 7), (b.val, 0)]
  | .vmaxI32 d a b => word stl 0x10E00000 [(d.val, 14), (a.val, 7), (b.val, 0)]
  | .vminN32 d a b => word stl 0x11000000 [(d.val, 14), (a.val, 7), (b.val, 0)]
  | .vmaxN32 d a b => word stl 0x11200000 [(d.val, 14), (a.val, 7), (b.val, 0)]
  | .vand d a b => word stl 0x11400000 [(d.val, 14), (a.val, 7), (b.val, 0)]
  | .vor d a b => word stl 0x11600000 [(d.val, 14), (a.val, 7), (b.val, 0)]
  | .vxor d a b => word stl 0x11800000 [(d.val, 14), (a.val, 7), (b.val, 0)]
  | .vshl d a b => word stl 0x11A00000 [(d.val, 14), (a.val, 7), (b.val, 0)]
  | .vshr d a b => word stl 0x11C00000 [(d.val, 14), (a.val, 7), (b.val, 0)]
  | .vsra d a b => word stl 0x11E00000 [(d.val, 14), (a.val, 7), (b.val, 0)]
  | .vaddI32Vi d a b => word stl 0x12000000 [(d.val, 14), (opaCode a, 6), (shortCode b, 0)] ++ (opaLit a ++ shortLit b)
  | .vsubI32Vi d a b => word stl 0x12200000 [(d.val, 14), (opaCode a, 6), (shortCode b, 0)] ++ (opaLit a ++ shortLit b)
  | .vmulI32Vi d a b => word stl 0x12400000 [(d.val, 14), (opaCode a, 6), (shortCode b, 0)] ++ (opaLit a ++ shortLit b)
  | .vandVi d a b => word stl 0x12600000 [(d.val, 14), (opaCode a, 6), (shortCode b, 0)] ++ (opaLit a ++ shortLit b)
  | .vorVi d a b => word stl 0x12800000 [(d.val, 14), (opaCode a, 6), (shortCode b, 0)] ++ (opaLit a ++ shortLit b)
  | .vxorVi d a b => word stl 0x12A00000 [(d.val, 14), (opaCode a, 6), (shortCode b, 0)] ++ (opaLit a ++ shortLit b)
  | .vshlVi d a b => word stl 0x12C00000 [(d.val, 14), (opaCode a, 6), (shortCode b, 0)] ++ (opaLit a ++ shortLit b)
  | .vshrVi d a b => word stl 0x12E00000 [(d.val, 14), (opaCode a, 6), (shortCode b, 0)] ++ (opaLit a ++ shortLit b)
  | .vsraVi d a b => word stl 0x13000000 [(d.val, 14), (opaCode a, 6), (shortCode b, 0)] ++ (opaLit a ++ shortLit b)
  | .vmovI32 d a => word stl 0x13200000 [(d.val, 14), (a.val, 7)]
  | .vmovI32Vi d a => word stl 0x13400000 [(d.val, 14), (opaCode a, 6)] ++ (opaLit a)
  | .vsel d m b => word stl 0x13600000 [(d.val, 14), (m.val, 11), (b.val, 0)]
  | .vbfe d a b => word stl 0x13800000 [(d.val, 14), (a.val, 7), (b.val, 0)]
  | .vbfi d a b => word stl 0x13A00000 [(d.val, 14), (a.val, 7), (b.val, 0)]
  | .vcmp m c a b => word stl 0x13C00000 [(m.val, 18), (c.val, 14), (a.val, 7), (b.val, 0)]
  | .vcmpVi m c a b => word stl 0x13E00000 [(m.val, 18), (c.val, 14), (opaCode a, 6), (shortCode b, 0)] ++ (opaLit a ++ shortLit b)
  | .vaddI16x2 d a b => word stl 0x14000000 [(d.val, 14), (a.val, 7), (b.val, 0)]
  | .vsubI16x2 d a b => word stl 0x14200000 [(d.val, 14), (a.val, 7), (b.val, 0)]
  | .vaddI8x4 d a b => word stl 0x14400000 [(d.val, 14), (a.val, 7), (b.val, 0)]
  | .vsubI8x4 d a b => word stl 0x14600000 [(d.val, 14), (a.val, 7), (b.val, 0)]
  | .vfadd d a b => word stl 0x15000000 [(d.val, 14), (a.val, 7), (b.val, 0)]
  | .vfsub d a b => word stl 0x15200000 [(d.val, 14), (a.val, 7), (b.val, 0)]
  | .vfmul d a b => word stl 0x15400000 [(d.val, 14), (a.val, 7), (b.val, 0)]
  | .vfma d a b => word stl 0x15600000 [(d.val, 14), (a.val, 7), (b.val, 0)]
  | .vfmin d a b => word stl 0x15800000 [(d.val, 14), (a.val, 7), (b.val, 0)]
  | .vfmax d a b => word stl 0x15A00000 [(d.val, 14), (a.val, 7), (b.val, 0)]
  | .vfcmp m c a b => word stl 0x15C00000 [(m.val, 18), (c.val, 14), (a.val, 7), (b.val, 0)]
  | .vfaddVi d a b => word stl 0x15E00000 [(d.val, 14), (opaCode a, 6), (shortCode b, 0)] ++ (opaLit a ++ shortLit b)
  | .vfmulVi d a b => word stl 0x16000000 [(d.val, 14), (opaCode a, 6), (shortCode b, 0)] ++ (opaLit a ++ shortLit b)
  | .vfcmpVi m c a b => word stl 0x16200000 [(m.val, 18), (c.val, 14), (opaCode a, 6), (shortCode b, 0)] ++ (opaLit a ++ shortLit b)
  | .vcvt d a c r => word stl 0x16400000 [(d.val, 14), (a.val, 7), (c.val, 3), (r.val, 0)]
  | .vqnt d a b => word stl 0x16600000 [(d.val, 14), (a.val, 7), (b.val, 0)]
  | .vdqnt d a b => word stl 0x16800000 [(d.val, 14), (a.val, 7), (b.val, 0)]
  | .vexp2 d a => word stl 0x17000000 [(d.val, 14), (a.val, 7)]
  | .vlog2 d a => word stl 0x17000001 [(d.val, 14), (a.val, 7)]
  | .vrcp d a => word stl 0x17000002 [(d.val, 14), (a.val, 7)]
  | .vrsq d a => word stl 0x17000003 [(d.val, 14), (a.val, 7)]
  | .vsin d a => word stl 0x17000004 [(d.val, 14), (a.val, 7)]
  | .vcos d a => word stl 0x17000005 [(d.val, 14), (a.val, 7)]
  | .vtanh d a => word stl 0x17000006 [(d.val, 14), (a.val, 7)]
  | .vact d a => word stl 0x17200000 [(d.val, 14), (a.val, 7)]
  | .actld b disp q => word stl 0x17400000 [(b.val, 8), (q.val, 0)] ++ ([disp])
  | .actsw => word stl 0x17600000 []
  | .rng d => word stl 0x17800000 [(d.val, 14)]
  | .rngskip a => word stl 0x17A00000 [(a.val, 7)]
  | .rngset a b => word stl 0x17C00000 [(a.val, 7), (b.val, 0)]
  | .vshfl d a b => word stl 0x18000000 [(d.val, 14), (a.val, 7), (b.val, 0)]
  | .vbcast d a n => word stl 0x18200000 [(d.val, 14), (a.val, 7), (n.val, 0)]
  | .vred d a p => word stl 0x18400000 [(d.val, 14), (a.val, 7), (p.val, 0)]
  | .vscan d a p => word stl 0x18600000 [(d.val, 14), (a.val, 7), (p.val, 0)]
  | .vrot d a n => word stl 0x18800000 [(d.val, 14), (a.val, 7), (n.val, 0)]
  | .vbal d m => word stl 0x18A00000 [(d.val, 14), (m.val, 0)]
  | .xsend a k sg => word stl 0x18C00000 [(a.val, 7), (k.val, 4), (sg.val, 0)]
  | .xrecv d k sg => word stl 0x18E00000 [(d.val, 14), (k.val, 4), (sg.val, 0)]
  | .ldg v ad q => word stl 0x28000000 [(v.val, 14), (addrCode ad, 0), (q.val, 0)] ++ (addrLit ad)
  | .stg v ad q => word stl 0x28200000 [(v.val, 14), (addrCode ad, 0), (q.val, 0)] ++ (addrLit ad)
  | .ldsp v ad q => word stl 0x28400000 [(v.val, 14), (addrCode ad, 0), (q.val, 0)] ++ (addrLit ad)
  | .stsp v ad q => word stl 0x28600000 [(v.val, 14), (addrCode ad, 0), (q.val, 0)] ++ (addrLit ad)
  | .ldk v ad q => word stl 0x28800000 [(v.val, 14), (addrCode ad, 0), (q.val, 0)] ++ (addrLit ad)
  | .fence x ord => word stl 0x28A00000 [(x.val, 6), (ord.val, 0)]
  | .cas v ad t r p => word stl 0x28C00000 [(v.val, 14), (aaddrCode ad, 0), (t.val, 4), (r.val, 2), (p.val, 0)] ++ (aaddrLit ad)
  | .atomAdd v ad t r p => word stl 0x29000000 [(v.val, 14), (aaddrCode ad, 0), (t.val, 4), (r.val, 2), (p.val, 0)] ++ (aaddrLit ad)
  | .atomMin v ad t r p => word stl 0x29200000 [(v.val, 14), (aaddrCode ad, 0), (t.val, 4), (r.val, 2), (p.val, 0)] ++ (aaddrLit ad)
  | .atomMax v ad t r p => word stl 0x29400000 [(v.val, 14), (aaddrCode ad, 0), (t.val, 4), (r.val, 2), (p.val, 0)] ++ (aaddrLit ad)
  | .atomAnd v ad t r p => word stl 0x29600000 [(v.val, 14), (aaddrCode ad, 0), (t.val, 4), (r.val, 2), (p.val, 0)] ++ (aaddrLit ad)
  | .atomOr v ad t r p => word stl 0x29800000 [(v.val, 14), (aaddrCode ad, 0), (t.val, 4), (r.val, 2), (p.val, 0)] ++ (aaddrLit ad)
  | .atomXor v ad t r p => word stl 0x29A00000 [(v.val, 14), (aaddrCode ad, 0), (t.val, 4), (r.val, 2), (p.val, 0)] ++ (aaddrLit ad)
  | .atomExch v ad t r p => word stl 0x29C00000 [(v.val, 14), (aaddrCode ad, 0), (t.val, 4), (r.val, 2), (p.val, 0)] ++ (aaddrLit ad)
  | .atomFadd v ad r p => word stl 0x29E00000 [(v.val, 14), (aaddrCode ad, 0), (r.val, 2), (p.val, 0)] ++ (aaddrLit ad)
  | .cpy a b c d e len => word stl 0x2A000000 [(a.val, 17), (b.val, 14), (c.val, 8), (d.val, 2), (e.val, 0)] ++ ([BitVec.ofNat 32 (pack [(len.val, 0)])])
  | .cpyg a b c d e off n => word stl 0x2A200000 [(a.val, 17), (b.val, 14), (c.val, 8), (d.val, 2), (e.val, 0)] ++ ([BitVec.ofNat 32 (pack [(off.val, 0), (n.val, 18)])])
  | .cpys a b c d e off n => word stl 0x2A400000 [(a.val, 17), (b.val, 14), (c.val, 8), (d.val, 2), (e.val, 0)] ++ ([BitVec.ofNat 32 (pack [(off.val, 0), (n.val, 18)])])
  | .fwait d h => word stl 0x2A600000 [(d.val, 15), (h.val, 9)]
  | .ftest d h => word stl 0x2A800000 [(d.val, 15), (h.val, 9)]
  | .fcan h => word stl 0x2AA00000 [(h.val, 9)]
  | .mxlb l ad q => word stl 0x30000000 [(l.val, 14), (addrCode ad, 0), (q.val, 0)] ++ (addrLit ad)
  | .mxra sg ad q => word stl 0x30200000 [(sg.val, 14), (addrCode ad, 0), (q.val, 0)] ++ (addrLit ad)
  | .mxrv sg v n => word stl 0x30400000 [(sg.val, 14), (v.val, 7), (n.val, 2)]
  | .mxst t b disp q => word stl 0x30600000 [(t.val, 14), (b.val, 8), (q.val, 0)] ++ ([disp])
  | .mxld t b disp q => word stl 0x30800000 [(t.val, 14), (b.val, 8), (q.val, 0)] ++ ([disp])
  | .mxdrn t ad q => word stl 0x30A00000 [(t.val, 14), (addrCode ad, 0), (q.val, 0)] ++ (addrLit ad)
  | .mxdrnt t ad q => word stl 0x30C00000 [(t.val, 14), (addrCode ad, 0), (q.val, 0)] ++ (addrLit ad)
  | .mxmac t b sg => word stl 0x31000000 [(t.val, 15), (b.val, 13), (sg.val, 10)]
  | .mxmacs t b sg => word stl 0x31200000 [(t.val, 15), (b.val, 13), (sg.val, 10)]
  | .mxclr t sg m => word stl 0x31400000 [(t.val, 15), (sg.val, 10), (m.val, 0)]
  | .mxchk t d => word stl 0x31600000 [(t.val, 15), (d.val, 3)]
  | .mxinj t a x => word stl 0x31800000 [(t.val, 15), (a.val, 3), (x.val, 0)]
  | .tapcfg w a => word stl 0x38000000 [(w.val, 17), (a.val, 3)]
  | .tapin w v m => word stl 0x38200000 [(w.val, 17), (v.val, 3), (m.val, 0)]
  | .tapq w d => word stl 0x38400000 [(w.val, 17), (d.val, 3)]
  | .tapclr w => word stl 0x38600000 [(w.val, 17)]
  | .tapsav w b disp q => word stl 0x38800000 [(w.val, 14), (b.val, 8), (q.val, 0)] ++ ([disp])
  | .taprst w b disp q => word stl 0x38A00000 [(w.val, 14), (b.val, 8), (q.val, 0)] ++ ([disp])
  | .tapstat w d x => word stl 0x38C00000 [(w.val, 17), (d.val, 3), (x.val, 0)]
  | .tnow d a => word stl 0x3C000000 [(d.val, 15), (a.val, 9)]
  | .pub v ad h => word stl 0x3C200000 [(v.val, 14), (addrCode ad, 0)] ++ (addrLit ad ++ [BitVec.ofNat 32 (pack [(h.val, 0)])])
  | .ldat v ad st md => word stl 0x3C400000 [(v.val, 14), (addrCode ad, 0)] ++ (addrLit ad ++ [BitVec.ofNat 32 (pack [(st.val, 0), (md.val, 8)])])
  | .dusk => word stl 0x3C600000 []
  | .pubtxB h => word stl 0x3C800000 [(h.val, 9)]
  | .pubtxC => word stl 0x3CA00000 []
  | .pubtxA => word stl 0x3CC00000 []
  | .sig v ad => word stl 0x3CE00000 [(v.val, 14), (addrCode ad, 0)] ++ (addrLit ad)
  | .barJoin b => word stl 0x3D000000 [(b.val, 0)]
  | .barLeave b => word stl 0x3D200000 [(b.val, 0)]
  | .barArv d b => word stl 0x3D400000 [(d.val, 15), (b.val, 0)]
  | .barArvCount d a b => word stl 0x3D400040 [(d.val, 15), (a.val, 9), (b.val, 0)]
  | .barWait a b => word stl 0x3D600000 [(a.val, 9), (b.val, 0)]
  | .barSync b => word stl 0x3D800000 [(b.val, 0)]
  | .dbar => word stl 0x3DA00000 []
  | .mbxSend d a b x => word stl 0x3DC00000 [(d.val, 15), (a.val, 9), (b.val, 3), (x.val, 0)]
  | .mbxWait d x => word stl 0x3DE00000 [(d.val, 15), (x.val, 0)]
  | .trap im => word stl 0x3E000000 [(simmCode im, 0)] ++ (simmLit im)
  | .rett m => word stl 0x3E200000 [(m.val, 15)]
  | .launch d a b => word stl 0x3E400000 [(d.val, 15), (a.val, 9), (b.val, 3)]
  | .fqPop d a => word stl 0x3E600000 [(d.val, 15), (a.val, 9)]
  | .fqDone d a x => word stl 0x3E800000 [(d.val, 15), (a.val, 9), (x.val, 0)]
  | .tlbinv d a b x => word stl 0x3EA00000 [(d.val, 15), (a.val, 9), (b.val, 3), (x.val, 0)]
  | .snap d a => word stl 0x3EC00000 [(d.val, 15), (a.val, 9)]
  | .halt => word stl 0x3EE00000 []
  | .hostLaunch _ _ | .hostPodLaunch _ _ | .installReplacementImage _ _ | .contextCreate _ _ | .contextSuspend _ _ | .contextResume _ _
  | .contextEnd _ _ | .setQueuePriority _ _ | .resumeHaltedGroup _ _ | .endHaltedGroup _ _ | .journalRead _ _ | .releaseSnapshot _ _
  | .defineReduceWindow _ _ | .removeReduceWindow _ _ | .readMonitor _ _ | .retireUnit _ _ | .reinstateUnit _ _ | .setChannelWeight _ _
  | .setTenantPartition _ _ | .attestation _ _ | .readStatus _ _ | .orderlyShutdown _ | .podLaunchBeacon _ | .podLaunchAcknowledgement _ _
  | .podLaunchRefusal _ _ | .podLaunchStart _ | .podLaunchAbort _ | .acknowledgementTimeout _ | .startTimeout _ | .darkStartTimeout _
  | .armedKernelStart _ | .launchAcceptance _ | .dispatchDecision | .groupBitmapSet _ | .kernelComplete _ | .kernelFailed _
  | .contextFree _ | .preemptionPoint _ | .resultWrite _ _ _ | .barrierArrival _ _ _ | .dieBarrierArrival _ | .mailboxWaitServed _ _ _
  | .copyStep _ _ | .copyEngineStop _ _ | .mxEngineExecute _ | .drainWrite _ _ | .taperPortAccept _ | .issue _
  | .read _ _ _ _ | .advance _ | .perform _ | .deliver _ _ _ _ _ | .fill _ _ | .drop _ _
  | .correctedWriteBack _ | .syncRequest _ | .syncReply _ _ _ | .holdoverTimeout | .darkTransition | .clockAttestation _
  | .oscillatorMonitorFail _ | .oscillatorMonitorPass | .versionArrival _ _ _ _ | .homeAcknowledgement _ _ _ | .duskRelease _ _ | .versionVisible _ _
  | .homeUnreachable _ _ _ | .darkDiscard _ _ | .frontierSend | .frontierArrival _ _ | .snapshotRequest _ _ _ | .snapshotFreeze _ _
  | .invalidationAcknowledgement _ _ | .resetEntryMessage _ | .dieFence _ | .flitCrcFail _ _ | .frequencyStep _ _ | .clockRelock _
  | .dieResetComplete _ | .linkTraining _ _ | .ackTimeout _ | .retryTimeout _ | .linkAcknowledgement _ _ | .linkRetraining _
  | .contributionArrival _ _ _ _ _ | .roundAbandon _ _ | .combinedWrite _ _ | .leaseStart _ | .withdrawalDeadline _ | .testingStart _
  | .patternPass _ | .patternMismatch _ _ | .testTimeout _ | .laneGroupTestEnd _ _ | .channelCopyEnd _ | .monitorSample _
  | .lifetimeCounterWrite | .journalPersist _ | .thermalStepDown _ _ _ | .thermalStepUp _ | .supplyInRange | .imageVerify _
  | .memoryLinkTraining _ _ | .bootStarting | .taperSaveOrRestoreComplete _ _ | .mailboxMessageAcceptance _ | .flitReceipt _ _ | .hostPortFailure _
  | .uncleanReset => []

/-- The instruction the decoder reads from a word numbered as spec/opcode_table.json numbers it: bit 0 is bit 0 of the first
word, and every bit from `nbits` up is 0. -/
def decodeTableWord (nbits w : Nat) : Option Instr :=
  let x := w % 2 ^ nbits
  match decode [BitVec.ofNat 32 x, BitVec.ofNat 32 (x / 2 ^ 32), BitVec.ofNat 32 (x / 2 ^ 64)] with
  | .ok d => some d.instr
  | .error _ => none

end Sys2Proof
end

