-- ==== Sys2Proof/Config.lean ====
section
/-! DEFINITION. What one module fixes, and the functions of other standards that the manual names and does not define. -/

namespace Sys2Proof.Config

/-- SHAKE256 of an image (R326, R327): an uninterpreted function (log 6). -/
opaque digest : List Byte → List Byte

/-- Whether an XMSS signature over a digest verifies under the fused key (R326, log 6). -/
opaque verifies : List Byte → List Byte → Bool

/-- The leaf index that an XMSS signature names; the kind and the version that an image carries (R326, log 6). -/
opaque leaf : List Byte → Nat
opaque imageKind : List Byte → Nat
opaque imageVersion : List Byte → BitVec 32

/-- The module's XMSS signature over an attestation report (R327, log 6). -/
opaque sign : List Byte → List Byte

/-- KMAC256 with a host key over bytes 0-31 of a message and its body: 256 bits (R329, log 6). -/
opaque kmac : List Byte → List Byte → BitVec 256

/-- The host keys that a signed image carries (R329, log 6). -/
opaque hostKeys : List Byte → List (List Byte)

/-- The module's serial number (R327, log 6). -/
opaque serial : List Byte

/-- The least of the cores that firmware reserves (R65, R265): the service core, and the core held for its migration
(DESIGN CHOICE, log 8). -/
def serviceCore : Nat := 239
def spareCore : Nat := 238

/-- Fields of the service kernel that firmware places at boot (R265): where its context's tables lie, its image and its queue. The manual
gives none of them, so no value is chosen (log 48). -/
opaque serviceField : Nat → Nat

/-- The bytes of the service kernel's image, which firmware writes to memory (R265). The manual does not give them (log 48). -/
opaque serviceBytes : List (Nat × BitVec 8)

/-- The number of 54 V rails whose monitors the Lamplighter samples (R303): the manual gives none, so no number is chosen
(log 9). -/
opaque rails : Nat

/-- The n-th free value: a value that the manual leaves open (log 11). -/
opaque freeValue : Nat → BitVec 128

end Sys2Proof.Config
end

