-- ==== Sys2Proof/Machine/Tbl.lean ====
section
/-! DEFINITION. Finite tables by number, and memory by address: association lists in ascending order of key, so that equal
tables are equal data. -/

namespace Sys2Proof.Machine

/-- A table from numbers to `α`, in ascending order of key. -/
abbrev Tbl (α : Type) := List (Nat × α)

def Tbl.get? {α : Type} : Tbl α → Nat → Option α
  | [], _ => none
  | (j, x) :: r, k => if j = k then some x else get? r k

/-- The entry at `k`, or `d` where there is none. -/
def Tbl.getD {α : Type} (t : Tbl α) (k : Nat) (d : α) : α :=
  match get? t k with
  | some x => x
  | none => d

def Tbl.has {α : Type} (t : Tbl α) (k : Nat) : Bool := (get? t k).isSome

/-- Writes the entry at `k`, in its place. -/
def Tbl.set {α : Type} : Tbl α → Nat → α → Tbl α
  | [], k, v => [(k, v)]
  | (j, x) :: r, k, v =>
    if k < j then (k, v) :: (j, x) :: r
    else if k = j then (k, v) :: r
    else (j, x) :: set r k v

def Tbl.del {α : Type} : Tbl α → Nat → Tbl α
  | [], _ => []
  | (j, x) :: r, k => if j = k then del r k else (j, x) :: del r k

def Tbl.keys {α : Type} (t : Tbl α) : List Nat := t.map Prod.fst

def Tbl.vals {α : Type} (t : Tbl α) : List α := t.map Prod.snd

/-- Changes every entry. -/
def Tbl.mapVals {α : Type} (t : Tbl α) (f : α → α) : Tbl α := t.map fun e => (e.1, f e.2)

/-- Keys strictly rise. -/
def Tbl.wf {α : Type} : Tbl α → Bool
  | [] => true
  | [_] => true
  | (j, _) :: (k, y) :: r => j < k && wf ((k, y) :: r)

/-- Memory: bytes by address, ascending, none listed that equals what an unlisted address reads as. -/
abbrev Mem := List Host.Cell

/-- What a byte that nothing has written reads as (DESIGN CHOICE, log 5; for scratchpads R156 states it). -/
def Mem.unlisted : Byte := 0

def Mem.read : Mem → Nat → Byte
  | [], _ => unlisted
  | (j, x) :: r, a => if j = a then x else read r a

/-- Writes one byte and keeps the canonical form. -/
def Mem.write : Mem → Nat → Byte → Mem
  | [], a, b => if b = unlisted then [] else [(a, b)]
  | (j, x) :: r, a, b =>
    if a < j then (if b = unlisted then (j, x) :: r else (a, b) :: (j, x) :: r)
    else if a = j then (if b = unlisted then r else (a, b) :: r)
    else (j, x) :: write r a b

/-- The canonical form: addresses strictly rise and no entry reads as an unlisted byte. -/
def Mem.wf : Mem → Bool
  | [] => true
  | [(_, x)] => x != unlisted
  | (j, x) :: (k, y) :: r => x != unlisted && j < k && wf ((k, y) :: r)

/-- `n` bytes from `a`. -/
def Mem.bytes (m : Mem) (a : Nat) : Nat → List Byte
  | 0 => []
  | n + 1 => read m a :: bytes m (a + 1) n

/-- Writes consecutive bytes from `a`. -/
def Mem.writeBytes (m : Mem) (a : Nat) : List Byte → Mem
  | [] => m
  | b :: r => writeBytes (write m a b) (a + 1) r

/-- The little-endian value of a list of bytes (R1). -/
def leNat : List Byte → Nat
  | [] => 0
  | b :: r => b.toNat + 256 * leNat r

/-- `n` little-endian bytes of a number (R1). -/
def natLE : Nat → Nat → List Byte
  | 0, _ => []
  | n + 1, x => BitVec.ofNat 8 x :: natLE n (x / 256)

/-- The lane numbers. -/
def lanes : List Nat := List.range 32

/-- The lanes of a mask, ascending. -/
def maskLanes (m : Word) : List Nat := lanes.filter fun l => m.getLsbD l

def popcount (m : Word) : Nat := (maskLanes m).length

/-- The mask of the lanes that `p` holds of. -/
def maskOf (p : Nat → Bool) : Word :=
  BitVec.ofNat 32 (lanes.foldl (fun acc l => if p l then acc + 2 ^ l else acc) 0)

end Sys2Proof.Machine
end

