-- ==== Sys2Proof/Machine/Num.lean ====
section
/-! DEFINITION. Exact numbers, rounding and the FP32 operations (04_numbers.md R38-R58, R138, R139). A magnitude is a natural
number times a power of two; every operation forms its exact result and rounds it once. -/

namespace Sys2Proof.Machine

/-- The `%fxf` flags (R34): bits 0-4 invalid, divide-by-zero, overflow, underflow, inexact. -/
abbrev Flags := BitVec 5

def fInvalid : Flags := 1
def fDivZero : Flags := 2
def fOverflow : Flags := 4
def fUnderflow : Flags := 8
def fInexact : Flags := 16

/-- The canonical NaN (R46). -/
def canonNan : Word := 0x7FC00000

/-- A rounding mode (R50). -/
inductive Rnd where
  | rne | rtz | rup | rdn
  | srn (u : Nat)      -- with its 32-bit draw (R51)
  deriving DecidableEq, Repr

/-- The mode of a code; the draw is used by code 4 alone. -/
def rndOf (c u : Nat) : Rnd :=
  match c with
  | 0 => .rne
  | 1 => .rtz
  | 2 => .rup
  | 3 => .rdn
  | _ => .srn u

/-- A value of a float format or of an accumulator. -/
inductive FVal where
  | nan (sig : Bool)
  | inf (neg : Bool)
  | fin (neg : Bool) (m : Nat) (e : Int)   -- ± m × 2^e
  deriving DecidableEq, Repr

/-- 2^k for an integer k at least 0; 1 below. -/
def pow2 (k : Int) : Nat := 2 ^ k.toNat

/-- Whether the magnitude is to be raised from the truncated one: `rem` of `2^sh` is the part cut off, `sticky` whether more
lies below it, `odd` whether the truncated number is odd. -/
def roundsUp (md : Rnd) (neg odd : Bool) (rem sh : Nat) (sticky : Bool) : Bool :=
  let some0 := rem != 0 || sticky
  match md with
  | .rne => 2 ^ sh < 2 * rem || (2 ^ sh == 2 * rem && (sticky || odd))
  | .rtz => false
  | .rup => !neg && some0
  | .rdn => neg && some0
  | .srn u => u < rem * 2 ^ 32 / 2 ^ sh

/-- A rounded magnitude `q × 2^eq`, and whether it differs from the exact one. -/
structure Rounded where
  q : Nat
  eq : Int
  inexact : Bool
  deriving DecidableEq, Repr

/-- Rounds m × 2^e to a multiple of 2^eq. -/
def roundAt (md : Rnd) (neg : Bool) (m : Nat) (e : Int) (sticky : Bool) (eq : Int) : Rounded :=
  if eq ≤ e then ⟨m * pow2 (e - eq), eq, sticky⟩
  else
    let sh := (eq - e).toNat
    let q := m / 2 ^ sh
    let rem := m % 2 ^ sh
    let up := roundsUp md neg (q % 2 == 1) rem sh sticky
    ⟨if up then q + 1 else q, eq, rem != 0 || sticky⟩

/-- The exponent of the unit in the last place of m × 2^e at precision `p`, exponents unbounded. -/
def ulpExp (p m : Nat) (e : Int) : Int := (Nat.log2 m : Int) + e - (p - 1)

/-- A float format: precision, exponent of the least subnormal, greatest finite magnitude, width, and what it has. -/
structure FFmt where
  p : Nat
  qmin : Int
  maxM : Nat
  maxE : Int
  w : Nat
  hasInf : Bool
  nan : Option Nat        -- the NaN it delivers
  deriving DecidableEq, Repr

def fp32F : FFmt := ⟨24, -149, 2 ^ 24 - 1, 104, 32, true, some 0x7FC00000⟩
def bf16F : FFmt := ⟨8, -133, 2 ^ 8 - 1, 120, 16, true, some 0x7FC0⟩
def fp16F : FFmt := ⟨11, -24, 2 ^ 11 - 1, 5, 16, true, some 0x7E00⟩
def e5m2F : FFmt := ⟨3, -16, 7, 13, 8, true, some 0x7E⟩
def e4m3F : FFmt := ⟨4, -9, 14, 5, 8, false, some 0x7F⟩
def e2m1F : FFmt := ⟨2, -1, 3, 1, 4, false, none⟩
def e2m3F : FFmt := ⟨4, -3, 15, -1, 6, false, none⟩
def e3m2F : FFmt := ⟨3, -4, 7, 2, 6, false, none⟩
def fp64F : FFmt := ⟨53, -1074, 2 ^ 53 - 1, 971, 64, true, some 0x7FF8000000000000⟩

/-- a × 2^x < b × 2^y. -/
def magLt (a : Nat) (x : Int) (b : Nat) (y : Int) : Bool :=
  let lo := min x y
  a * pow2 (x - lo) < b * pow2 (y - lo)

/-- The code of sign, significand and exponent of the unit (R41). -/
def FFmt.encode (f : FFmt) (neg : Bool) (q : Nat) (eq : Int) : Nat :=
  let s := if neg then 2 ^ (f.w - 1) else 0
  if q = 0 then s
  else if q < 2 ^ (f.p - 1) then s + q
  else if q = 2 ^ f.p then s + (eq - f.qmin + 2).toNat * 2 ^ (f.p - 1)
  else s + (eq - f.qmin + 1).toNat * 2 ^ (f.p - 1) + (q - 2 ^ (f.p - 1))

def FFmt.infCode (f : FFmt) (neg : Bool) : Nat :=
  (if neg then 2 ^ (f.w - 1) else 0) + (2 ^ (f.w - f.p) - 1) * 2 ^ (f.p - 1)

def FFmt.maxCode (f : FFmt) (neg : Bool) : Nat := f.encode neg f.maxM f.maxE

/-- The value of a code (R41). A NaN code of a format with infinities is signalling where the top bit of its mantissa is 0, 0x7D and 0xFD
of e5m2 among them (DEDUCED, log 87). -/
def FFmt.decode (f : FFmt) (c : Nat) : FVal :=
  let neg := c / 2 ^ (f.w - 1) % 2 == 1
  let ex := c / 2 ^ (f.p - 1) % 2 ^ (f.w - f.p)
  let ma := c % 2 ^ (f.p - 1)
  let top := 2 ^ (f.w - f.p) - 1
  if ex = top && f.hasInf then
    if ma = 0 then .inf neg else .nan (ma / 2 ^ (f.p - 2) % 2 == 0)
  else if ex = top && ma = 2 ^ (f.p - 1) - 1 && f.nan.isSome then .nan false
  else if ex = 0 then .fin neg ma f.qmin
  else .fin neg (ma + 2 ^ (f.p - 1)) (f.qmin + (ex - 1))

/-- Rounds an exact finite value into a float format: the code and its flags (R48, R52). -/
def FFmt.round (f : FFmt) (md : Rnd) (neg : Bool) (m : Nat) (e : Int) (sticky : Bool) : Nat × Flags :=
  if m = 0 && !sticky then (f.encode neg 0 0, 0)
  else
    let u := if m = 0 then f.qmin else ulpExp f.p m e
    let r := roundAt md neg m e sticky (max u f.qmin)
    if magLt f.maxM f.maxE r.q r.eq then
      let toInf := match md with
        | .rne | .srn _ => true
        | .rtz => false
        | .rup => !neg
        | .rdn => neg
      (if f.hasInf && toInf then f.infCode neg else f.maxCode neg, fOverflow ||| fInexact)
    else
      -- tiny: below the least normal after rounding at unbounded exponent (R48)
      let t := roundAt md neg m e sticky u
      let tiny := magLt t.q t.eq 1 (f.qmin + (f.p - 1 : Nat))
      (f.encode neg r.q r.eq,
       if r.inexact then (if tiny then fUnderflow ||| fInexact else fInexact) else 0)

/-- Converts an exact value into a float format (R52). -/
def FFmt.convert (f : FFmt) (md : Rnd) (v : FVal) : Nat × Flags :=
  match v with
  | .nan _ =>
    match f.nan with
    | some c => (c, 0)
    | none => (0, fInvalid)
  | .inf neg => if f.hasInf then (f.infCode neg, 0) else (f.maxCode neg, fInvalid)
  | .fin neg m e => f.round md neg m e false

/-- Converts an exact value into an integer of [lo, hi] (R52): the number and its flags. -/
def convInt (lo hi : Int) (md : Rnd) (v : FVal) : Int × Flags :=
  match v with
  | .nan _ => (0, fInvalid)
  | .inf neg => (if neg then lo else hi, fInvalid)
  | .fin neg m e =>
    let r := roundAt md neg m e false 0
    let n : Int := if neg then -(r.q : Int) else r.q
    if n < lo then (lo, fInvalid) else if hi < n then (hi, fInvalid)
    else (n, if r.inexact then fInexact else 0)

/-! Logarithmic formats (R42, R43). -/

/-- T[f] of the format with q = 4 or 8. -/
def logT (q f : Nat) : Nat :=
  if q = 4 then [32768, 38968, 46341, 55109].getD f 0
  else [32768, 35734, 38968, 42495, 46341, 50535, 55109, 60097].getD f 0

/-- The table value t_L: a significand and an exponent, for every integer L. -/
def logVal (q : Nat) (l : Int) : Nat × Int :=
  let i := l / (q : Int)
  (logT q (l - q * i).toNat, i - 15)

/-- Sign, and L or NaN or zero, of a log code of width w. -/
inductive LogCode where
  | zero
  | nan
  | val (neg : Bool) (l : Int)
  deriving DecidableEq, Repr

def logDecode (w c : Nat) : LogCode :=
  let neg := c / 2 ^ (w - 1) % 2 == 1
  let l := sfld c (w - 1)
  if l = -(2 ^ (w - 2) : Nat) then (if neg then .nan else .zero) else .val neg l

def logFVal (w c : Nat) : FVal :=
  match logDecode w c with
  | .zero => .fin false 0 0
  | .nan => .nan false
  | .val neg l => let t := logVal (if w = 6 then 4 else 8) l; .fin neg t.1 t.2

/-- The product of two log codes of one format (R43). -/
def logMul (w a b : Nat) : FVal :=
  match logDecode w a, logDecode w b with
  | .nan, _ => .nan false
  | _, .nan => .nan false
  | .zero, _ => .fin false 0 0
  | _, .zero => .fin false 0 0
  | .val s x, .val t y => let p := logVal (if w = 6 then 4 else 8) (x + y); .fin (s != t) p.1 p.2

/-- The greatest f with t_(8i + f) at most the value, of those below `n`. -/
def logPick (q : Nat) (i : Int) (m : Nat) (e : Int) : Nat → Nat
  | 0 => 0
  | n + 1 =>
    let t := logVal q (q * i + (n + 1 : Nat))
    if magLt m e t.1 t.2 then logPick q i m e n else n + 1

/-- Converts into a log format of width w (R52). -/
def logConvert (w : Nat) (md : Rnd) (v : FVal) : Nat × Flags :=
  let q := if w = 6 then 4 else 8
  let top : Int := 2 ^ (w - 2) - 1
  let mk (neg : Bool) (l : Int) : Nat := (if neg then 2 ^ (w - 1) else 0) + (l % 2 ^ (w - 1)).toNat
  match v with
  | .nan _ => (2 ^ (w - 1) + 2 ^ (w - 2), 0)
  | .inf neg => (mk neg top, fInvalid)
  | .fin neg m e =>
    if m = 0 then (2 ^ (w - 2), 0)
    else
      let i : Int := Nat.log2 m + e
      let l : Int := q * i + logPick q i m e (q - 1)
      let a := logVal q l
      let b := logVal q (l + 1)
      let lo := min e (min a.2 b.2)
      let mv := m * pow2 (e - lo)
      let av := a.1 * pow2 (a.2 - lo)
      let bv := b.1 * pow2 (b.2 - lo)
      let inexact := mv != av
      let up := inexact && (match md with
        | .rne => av * bv < mv * mv || (av * bv == mv * mv && l % 2 != 0)
        | .rtz => false
        | .rup => !neg
        | .rdn => neg
        | .srn u => u < (mv - av) * 2 ^ 32 / (bv - av))
      let r := if up then l + 1 else l
      if top < r then (mk neg top, fOverflow ||| fInexact)
      else if r < -top then (2 ^ (w - 2), fUnderflow ||| fInexact)
      else (mk neg r, if inexact then fInexact else 0)

/-! Operand formats of the matrix engine (R38-R42). -/

/-- The width of an operand format. -/
def opWidth (c : Nat) : Nat := [8, 8, 4, 4, 2, 1, 16, 8, 8, 4, 6, 6, 16, 16, 6, 8].getD c 8

/-- The value of an operand code. -/
def opVal (c x : Nat) : FVal :=
  let int (n : Int) : FVal := .fin (n < 0) n.natAbs 0
  match c with
  | 0x0 => int (sfld x 8)
  | 0x1 => int (x % 256 : Nat)
  | 0x2 => int (sfld x 4)
  | 0x3 => int (x % 16 : Nat)
  | 0x4 => int (sfld x 2)
  | 0x5 => int (if x % 2 = 0 then 1 else -1)
  | 0x6 => int (sfld x 16)
  | 0x7 => e4m3F.decode (x % 256)
  | 0x8 => e5m2F.decode (x % 256)
  | 0x9 => e2m1F.decode (x % 16)
  | 0xA => e2m3F.decode (x % 64)
  | 0xB => e3m2F.decode (x % 64)
  | 0xC => bf16F.decode (x % 65536)
  | 0xD => fp16F.decode (x % 65536)
  | 0xE => logFVal 6 (x % 64)
  | _ => logFVal 8 (x % 256)

def isLog (c : Nat) : Bool := c == 0xE || c == 0xF

def isWideFmt (c : Nat) : Bool := c == 0x8 || c == 0xC || c == 0xD

/-! Output formats (R44, R52). -/

def outWidth (o : Nat) : Nat := [32, 16, 16, 32, 16, 8, 8, 8, 8, 4, 8, 4].getD o 32

/-- Quantises an exact value into an output format. -/
def convertOut (o : Nat) (md : Rnd) (v : FVal) : Nat × Flags :=
  let int (lo hi : Int) (w : Nat) : Nat × Flags := let r := convInt lo hi md v; ((r.1 % 2 ^ w).toNat, r.2)
  match o with
  | 0x0 => fp32F.convert md v
  | 0x1 => bf16F.convert md v
  | 0x2 => fp16F.convert md v
  | 0x3 => int (-2 ^ 31) (2 ^ 31 - 1) 32
  | 0x4 => int (-2 ^ 15) (2 ^ 15 - 1) 16
  | 0x5 => int (-128) 127 8
  | 0x6 => int 0 255 8
  | 0x7 => e4m3F.convert md v
  | 0x8 => e5m2F.convert md v
  | 0x9 => e2m1F.convert md v
  | 0xA => logConvert 8 md v
  | _ => int (-8) 7 4

/-- The value of a code of an output format, for VDQNT. -/
def outVal (o x : Nat) : FVal :=
  let int (n : Int) : FVal := .fin (n < 0) n.natAbs 0
  match o with
  | 0x0 => fp32F.decode x
  | 0x1 => bf16F.decode x
  | 0x2 => fp16F.decode x
  | 0x3 => int (sfld x 32)
  | 0x4 => int (sfld x 16)
  | 0x5 => int (sfld x 8)
  | 0x6 => int (x : Nat)
  | 0x7 => e4m3F.decode x
  | 0x8 => e5m2F.decode x
  | 0x9 => e2m1F.decode x
  | 0xA => logFVal 8 x
  | _ => int (sfld x 4)

/-- Multiplies by 2^k. -/
def scaleVal (v : FVal) (k : Int) : FVal :=
  match v with
  | .fin n m e => .fin n m (e + k)
  | .nan s => .nan s
  | .inf n => .inf n

/-! FP32 operations (R46-R48). -/

def f32 (x : Word) : FVal := fp32F.decode x.toNat

def isNan (v : FVal) : Bool := match v with | .nan _ => true | .inf _ => false | .fin _ _ _ => false
def isSnan (v : FVal) : Bool := match v with | .nan s => s | .inf _ => false | .fin _ _ _ => false

/-- Invalid for a signalling NaN among the operands. -/
def snanFlag (vs : List FVal) : Flags := if vs.any isSnan then fInvalid else 0

/-- A signed dyadic m × 2^e. -/
def signed (neg : Bool) (m : Nat) : Int := if neg then -(m : Int) else m

/-- The exact sum of two finite values; the sign of an exact zero under R47 at rne. -/
def addFin (n₁ : Bool) (m₁ : Nat) (e₁ : Int) (n₂ : Bool) (m₂ : Nat) (e₂ : Int) : FVal :=
  let lo := min e₁ e₂
  let x := signed n₁ (m₁ * pow2 (e₁ - lo)) + signed n₂ (m₂ * pow2 (e₂ - lo))
  if x = 0 then .fin (n₁ && n₂ && m₁ == 0 && m₂ == 0) 0 lo else .fin (x < 0) x.natAbs lo

/-- An exact sum, with the flags of invalid operations alone. -/
def addVal (a b : FVal) : FVal × Flags :=
  match a, b with
  | .nan s, y => (.nan false, snanFlag [.nan s, y])
  | x, .nan s => (.nan false, snanFlag [x, .nan s])
  | .inf s, .inf t => if s = t then (.inf s, 0) else (.nan false, fInvalid)
  | .inf s, .fin _ _ _ => (.inf s, 0)
  | .fin _ _ _, .inf t => (.inf t, 0)
  | .fin n m e, .fin n' m' e' => (addFin n m e n' m' e', 0)

def negVal (a : FVal) : FVal :=
  match a with
  | .nan s => .nan s
  | .inf n => .inf (!n)
  | .fin n m e => .fin (!n) m e

/-- An exact product, with the flags of invalid operations alone. -/
def mulVal (a b : FVal) : FVal × Flags :=
  match a, b with
  | .nan s, y => (.nan false, snanFlag [.nan s, y])
  | x, .nan s => (.nan false, snanFlag [x, .nan s])
  | .inf s, .inf t => (.inf (s != t), 0)
  | .inf s, .fin n m _ => if m = 0 then (.nan false, fInvalid) else (.inf (s != n), 0)
  | .fin n m _, .inf s => if m = 0 then (.nan false, fInvalid) else (.inf (s != n), 0)
  | .fin n m e, .fin n' m' e' => (.fin (n != n') (m * m') (e + e'), 0)

/-- Rounds to FP32 by rne. -/
def toF32 (v : FVal) (fl : Flags) : Word × Flags :=
  let r := fp32F.convert .rne v
  (BitVec.ofNat 32 r.1, fl ||| r.2)

def fAdd (a b : Word) : Word × Flags := let r := addVal (f32 a) (f32 b); toF32 r.1 r.2
def fSub (a b : Word) : Word × Flags := let r := addVal (f32 a) (negVal (f32 b)); toF32 r.1 r.2
def fMul (a b : Word) : Word × Flags := let r := mulVal (f32 a) (f32 b); toF32 r.1 r.2

/-- A × B + C with one rounding; 0 × ∞ is invalid even when C is NaN (R138). -/
def fFma (a b c : Word) : Word × Flags :=
  let p := mulVal (f32 a) (f32 b)
  let r := addVal p.1 (f32 c)
  toF32 r.1 (p.2 ||| r.2)

/-- a < b, numerically, of values that are no NaN; -0 equals +0. -/
def valLt (a b : FVal) : Bool :=
  match a, b with
  | .nan _, _ => false
  | _, .nan _ => false
  | .inf s, .inf t => s && !t
  | .inf s, .fin _ _ _ => s
  | .fin _ _ _, .inf t => !t
  | .fin n m e, .fin n' m' e' =>
    let lo := min e e'
    signed n (m * pow2 (e - lo)) < signed n' (m' * pow2 (e' - lo))

/-- Whether a value is negative, a zero's sign counting. -/
def isNeg (v : FVal) : Bool := match v with | .nan _ => false | .inf n => n | .fin n _ _ => n

/-- min (lesser = true) and max, -0 below +0, any NaN gives the canonical NaN (R46, R47). -/
def fMinMax (lesser : Bool) (a b : Word) : Word × Flags :=
  let x := f32 a
  let y := f32 b
  if isNan x || isNan y then (canonNan, snanFlag [x, y])
  else
    let less := valLt x y || (!valLt y x && isNeg x && !isNeg y)
    (if less = lesser then a else b, 0)

/-- A compare condition of R30 on FP32 (R139): the bit and its flags. -/
def fCmp (c : Nat) (a b : Word) : Bool × Flags :=
  let x := f32 a
  let y := f32 b
  let un := isNan x || isNan y
  let sn := snanFlag [x, y]
  let lt := valLt x y
  let gt := valLt y x
  match c with
  | 0 => (!un && !lt && !gt, sn)
  | 1 => (un || lt || gt, sn)
  | 2 => (!un && lt, if un then fInvalid else sn)
  | 3 => (!un && !gt, if un then fInvalid else sn)
  | 4 => (!un && gt, if un then fInvalid else sn)
  | 5 => (!un && !lt, if un then fInvalid else sn)
  | 10 => (!un, sn)
  | _ => (un, sn)

/-- The FP32 value of an integer operand (R29). One that FP32 does not hold exactly is rounded to nearest, ties to even, and raises
no flag (DESIGN CHOICE, log 55). -/
def intToF32 (n : Int) : Word := (toF32 (.fin (n < 0) n.natAbs 0) 0).1

/-- Rounds a nonnegative or negative dyadic to FP64 by rne (R207). -/
def toF64 (v : FVal) : Nat := (fp64F.convert .rne v).1

/-- Adds a magnitude to an FP64 magnitude, rounding up (R207). -/
def addUp64 (a : Nat) (v : FVal) : Nat := (fp64F.convert .rup (addVal (fp64F.decode a) v).1).1

/-! ## VCVT (R140) -/

/-- One lane's conversion by code, with rounding mode `md`. -/
def vcvt (c : Nat) (md : Rnd) (x : Word) : Word × Flags :=
  let sn := snanFlag [f32 x]
  match c with
  | 0 => let r := convInt (-2 ^ 31) (2 ^ 31 - 1) md (f32 x); (BitVec.ofInt 32 r.1, r.2)
  | 1 => let r := convInt 0 (2 ^ 32 - 1) md (f32 x); (BitVec.ofInt 32 r.1, r.2)
  | 2 => let r := fp32F.convert md (.fin (x.toInt < 0) x.toInt.natAbs 0); (BitVec.ofNat 32 r.1, r.2)
  | 3 => let r := fp32F.convert md (.fin false x.toNat 0); (BitVec.ofNat 32 r.1, r.2)
  | 4 => let r := bf16F.convert md (f32 x); (BitVec.ofNat 32 r.1, r.2 ||| sn)
  | 5 => let r := fp16F.convert md (f32 x); (BitVec.ofNat 32 r.1, r.2 ||| sn)
  | 6 => let v := bf16F.decode (x.toNat % 65536); let r := fp32F.convert md v; (BitVec.ofNat 32 r.1, r.2 ||| snanFlag [v])
  | 7 => let v := fp16F.decode (x.toNat % 65536); let r := fp32F.convert md v; (BitVec.ofNat 32 r.1, r.2 ||| snanFlag [v])
  | _ =>
    match f32 x with
    | .nan s => (canonNan, if s then fInvalid else 0)
    | .inf _ => (x, 0)
    | .fin neg m e =>
      if m = 0 then (x, 0)
      else
        let r := roundAt md neg m e false 0
        let y := fp32F.round .rne neg r.q (if 0 ≤ e then e else 0) false
        if 0 ≤ e then (x, 0) else (BitVec.ofNat 32 y.1, if r.inexact then fInexact else 0)

end Sys2Proof.Machine
end

