-- ==== Sys2Proof/Machine/State.lean ====
section
/-! DEFINITION. The state of one Naryx AX7 module, and the memory of the pod it reaches, as plain data. Every field's value
here is its value after reset, or at creation of the object that holds it; INVENTORY.md names the rule of each. -/

namespace Sys2Proof.Machine

/-- Why the machine stops. -/
inductive Fault where
  /-- Raised by `step`: boot failed and halted the module with this stage code (R325). Safe: the manual stops the module. -/
  | halted (stage : Nat)
  deriving DecidableEq, Repr

/-- Why an instruction has no meaning. -/
inductive Refusal where
  /-- The instruction of this mnemonic has no meaning yet. Safe: nothing happens. No arm of `exec` answers it. -/
  | notModelled (mnemonic : String)
  deriving DecidableEq, Repr

/-! ## The group, its waves and their splits (R97-R104) -/

/-- A future handle (R169). `lines` are the global lines the operation wrote, for the acquire of R170. -/
inductive Handle where
  | empty
  | pending (op : Nat)
  | done (lines : List Nat)
  | failed (code : Nat) (lines : List Nat)
  | cancelled (lines : List Nat)
  deriving DecidableEq, Repr

/-- A token, in the fields of its spill form (R102). -/
structure Token where
  rejoin : DWord
  resume : DWord
  pending : Word
  arrived : Word
  waiting : Word
  fmt : Word
  region : Nat := 0              -- the MODEL's number of the region it was pushed in; 0: none was open
  poison : Bool := false         -- its spill entry held a double-bit error (R15)
  deriving DecidableEq, Repr

/-- Four thresholds of a header or WAITC; 7 imposes no wait (R20). -/
structure Thresholds where
  vmc : Nat := 7
  smc : Nat := 7
  mxc : Nat := 7
  cpc : Nat := 7
  deriving DecidableEq, Repr

/-- The clause context of a split (R37): header address, N, class, chk, index of the current word. -/
structure Clause where
  hdr : DWord := 0
  n : Nat := 0
  cls : Nat := 0
  chk : Bool := false
  idx : Nat := 0
  deriving DecidableEq, Repr

/-- Whether the split's pc names a header to be entered: reached by a checked transfer, by falling through (R22), or as the
rejoin clause whose JOIN a merged split is already past (R104). -/
inductive Entering where
  | no | checked | fall | rejoin
  deriving DecidableEq, Repr

inductive Mode where
  | active | frozen | trap
  deriving DecidableEq, Repr

/-- What a split waits for (R114). -/
inductive Block where
  | none
  | fwait (d h : Nat)
  | dusk (upto : Nat)                   -- until no entry of the wave numbered below is held
  | bar (b : Nat) (phase : Nat)
  | barArrive (b : Nat) (op : Nat)      -- BAR.SYNC or BAR.ARV whose arrival step is outstanding
  | dbar
  | mbx
  | ctxEnd (d c : Nat)                  -- CTX.END, until the context is free
  | fqDone (d sa : Nat) (fail : Bool) (upto : Nat)  -- FQ.DONE, until the wave's operations below `upto` are performed
  | tlbinv (d op : Nat)                 -- TLBINV, until every die has acknowledged
  | tlbSend (d a b x upto : Nat)        -- TLBINV, until the wave's operations below `upto` are performed
  | snap (d id : Nat)                   -- SNAP, until every home has answered
  | page (ctx slot : Nat)               -- the fault-queue entry the instruction waits on
  | pageFull                            -- every entry of the fault queue is in use (R263)
  deriving DecidableEq, Repr

structure Split where
  pc : DWord := 0
  ctx : Clause := {}
  entering : Entering := .checked
  members : Word := 0
  exec : Word := 0
  fmt : Word := 0
  mode : Mode := .active
  block : Block := .none
  wait : Thresholds := {}
  readySince : Option Nat := none
  claimed : Bool := false        -- decoder 0 has issued it (R115)
  deriving DecidableEq, Repr

/-- The trap frame (R103, R119). -/
structure TrapFrame where
  pc : DWord
  ctx : Clause
  entering : Entering
  fmt : Word
  s61 : DWord
  s62 : DWord
  s63 : DWord
  len : Nat                      -- words of the faulting instruction, for RETT mode 1
  tokens : List Token := []      -- innermost first, at most four
  deriving DecidableEq, Repr

/-- A wave's region (R122). -/
structure Region where
  isOpen : Bool := false
  id : Nat := 0                  -- the MODEL's number of it
  restarts : Nat := 0
  members : Word := 0
  fmt : Word := 0
  depth : Nat := 0
  rng : List DWord := []         -- counter[63:0] of every lane at REGION
  written : List Nat := []
  cleared : List Nat := []       -- tiles cleared by an MXCLR of the region
  poison : List Nat := []        -- lanes whose word of `rng` is poisoned (R15)
  deriving DecidableEq, Repr

/-- A register a result writes. -/
inductive Dest where
  | v (r lane : Nat)
  | s (r : Nat)
  | m (r : Nat)
  | h (r : Nat)
  deriving DecidableEq, Repr

/-- A fixed-latency result: what the register held before, until the cycle from which the new value reads (R25). -/
structure Inflight where
  ready : Nat
  dest : Dest
  old : DWord
  quiet : Bool := false          -- FWAIT's status: a write without latency, which no read is too early for (R170)
  deriving DecidableEq, Repr

/-- Where a byte lies: a physical address (a pod address normalised under R12), or a byte of a group's allocation. -/
inductive Place where
  | global (pa : Nat)
  | scratch (g : Nat) (o : Nat)
  deriving DecidableEq, Repr

/-- One byte of a pending load: its lane, the byte's number within the lane's data, its place, and once read its value and
whether it was poisoned. -/
structure Req where
  lane : Nat
  k : Nat
  place : Place
  got : Option Byte := none
  poison : Bool := false
  deriving DecidableEq, Repr

/-- The counter an instruction is counted on (R20). -/
inductive Counter where
  | vmc | smc | mxc | cpc | none
  deriving DecidableEq, Repr

/-- What a variable-latency result is (R26). -/
inductive ResKind where
  | load (v : Nat)               -- LDG, LDSP: bytes go to v, v+1, …
  | ldk (v : Nat)
  | atomic (v w acq : Nat)       -- the old value, of w bytes; acq: 0 none, 1 acquires at module scope, 2 at gang scope
  | vals                         -- values known already, in `out`
  | tnow (d a : Nat)
  | noteGet (d : Nat)
  | ldat (v md : Nat) (t : Nat)
  | actld (bank : Bool)
  | launch (d : Nat) (id : Nat)
  | mbx (d : Nat) (id : Nat)
  deriving DecidableEq, Repr

/-- A variable-latency result outstanding. `lanes` are the lanes that receive it, `out` the values that are known. -/
structure Result where
  id : Nat
  kind : ResKind
  counter : Counter
  vregs : List Nat := []
  sregs : List Nat := []
  mregs : List Nat := []
  lanes : Word := 0
  reqs : List Req := []
  out : List (Dest × DWord) := []
  poisoned : Bool := false
  tap : Bool := false            -- a result of TAPQ or TAPSTAT
  tapq : Option Nat := none      -- TAPQ: its split, whose results are written in order (R232)
  region : Nat := 0              -- the region it was issued in
  waitWrites : List Nat := []    -- writes still to be performed before the result is known
  pas : List (Nat × Nat) := []   -- LDAT: lane and record byte address
  deriving DecidableEq, Repr

/-- A fence of the wave whose condition does not hold yet (R183): scope, order bits, and what it waits for. -/
structure Fence where
  scope : Nat
  acq : Bool
  rel : Bool
  writes : List Nat
  loads : List Nat
  deriving DecidableEq, Repr

/-- An arrival of BAR.ARV or BAR.SYNC not yet counted (R174). -/
structure Arrival where
  op : Nat
  b : Nat
  n : Nat
  sd : Option Nat                -- BAR.ARV's status register
  sync : Bool
  release : Bool := false        -- BAR.WAIT: a release step and no arrival (R188)
  w : Nat
  sl : Nat
  writes : List Nat
  loads : List Nat
  deriving DecidableEq, Repr

/-! ### MX state (R198) -/

/-- The class of a tile. -/
inductive TileClass where
  | none | exact | wide
  deriving DecidableEq, Repr

/-- One B slot: element codes in stored order, index bytes, the reflection column (exact sums in units of 2^-16, or an FP64
pattern for wide formats) and poisoned elements. An absent list entry is zero. -/
structure BSlot where
  fmt : Nat := 0
  spn : Nat := 0
  elems : List Nat := []
  index : List Nat := []
  refl : List Int := []
  poison : List Nat := []
  badRefl : Bool := false        -- a word of its reflection column holds a double-bit error (R15)
  deriving DecidableEq, Repr

/-- One tile: raw words (80-bit integer, or an FP32 pattern in the wide class) in row order, marks as word numbers,
reflection entries (128-bit integers, or FP64 patterns) and magnitude sums. Absent entries are zero. -/
structure Tile where
  cls : TileClass := .none
  words : Tbl Int := []
  sat : List Nat := []
  nans : List Nat := []
  poison : List Nat := []
  overflow : Bool := false
  seg : Nat := 0
  mode : Nat := 0
  damaged : Bool := false
  rho : Tbl Int := []
  kappa : Tbl Int := []
  mur : Tbl Nat := []
  muc : Tbl Nat := []
  badRefl : Bool := false        -- a reflection entry holds a double-bit error (R209)
  deriving DecidableEq, Repr

structure MxState where
  slots : Tbl BSlot := []
  rows : Tbl (List Byte) := []     -- row buffer, 1,024 bytes per lane
  rowPoison : Tbl (List Nat) := [] -- poisoned bytes per lane
  tiles : Tbl Tile := []
  deriving DecidableEq, Repr

/-- The state of a wave shared by its splits (R99). -/
structure Wave where
  started : Nat := 0                     -- cycle in which it started (R115)
  wslot : Nat := 0                       -- its slot among the 64 wave slots of the core; scheduler = wslot mod 4
  v : List Row := []
  s : Vector DWord 64 := Vector.replicate 64 0
  m : Vector Word 8 := Vector.replicate 8 0
  h : Vector Handle 16 := Vector.replicate 16 .empty
  vPoison : List (Nat × Nat) := []       -- poisoned words of vector registers: register and lane (R15)
  sPoison : List Nat := []               -- poisoned scalars, and mask registers
  mPoison : List Nat := []
  hPoison : List Nat := []               -- poisoned handle registers
  rngPoison : List (Nat × Nat) := []     -- poisoned words of the RNG rows: lane, and 0 counter low, 1 counter high, 2 key
  fxf : BitVec 5 := 0
  chk : Bool := false
  chkNext : Option Bool := none          -- SWR of %chk, in effect from the wave's next issue (R25)
  iregpc : DWord := 0
  vmc : Nat := 0
  smc : Nat := 0
  mxc : Nat := 0
  cpc : Nat := 0
  key : Vector DWord 32 := Vector.replicate 32 0
  ctr : Vector (BitVec 128) 32 := Vector.replicate 32 0
  region : Region := {}
  tokens : List Token := []              -- innermost first, at most 16 resident
  spilled : List Nat := []               -- spill entries of the group that hold its older tokens, youngest first
  trap : Option TrapFrame := none
  actB : Bool := false                   -- the selected bank is B
  actPending : Bool := false
  inflight : List Inflight := []         -- oldest first
  results : List Result := []            -- oldest first
  fences : List Fence := []
  arrivals : List Arrival := []
  tx : Option Nat := none                -- the open transaction
  nextIssue : Nat := 0
  yielded : Bool := false                -- YIELD has removed the greedy claim
  mx : MxState := {}
  splits : Tbl Split := []
  ended : Bool := false
  adopted : Option Nat := none           -- the install it has adopted
  deriving DecidableEq, Repr

/-- A barrier (R172). -/
structure Barrier where
  member : Tbl Word := []
  e : Nat := 0
  a : Nat := 0
  phase : Word := 0
  deriving DecidableEq, Repr

/-- A rendezvous slot's contents (R150). -/
inductive Payload where
  | vec (r : Row)
  | handle (h : Handle)
  deriving DecidableEq, Repr

structure RdvSlot where
  full : Option Payload := none
  waiters : List (Nat × Nat × Bool) := []  -- (wave, split slot, an XSEND) in the order they reached issue
  deriving DecidableEq, Repr

/-- A taper (R222). -/
structure Taper where
  configured : Bool := false
  damaged : Bool := false
  op : Nat := 0
  w : Nat := 0
  n : DWord := 0
  front : List (DWord × Bool) := []  -- entry 0 at the bottom; the mark is the entry's poison mark
  back : List (DWord × Bool) := []   -- entry 0 the oldest
  bagg : DWord := 0
  baggPoison : Bool := false
  restoring : Bool := false          -- a TAPRST of it is outstanding
  flipping : Bool := false           -- a flip is in progress: `front` holds the entries written so far, `back` is whole
  flipAcc : DWord × Bool := (0, false)
  storeErr : List Nat := []          -- entries whose word holds a double-bit error: front 0-511, back 512-1,023, bagg 1,024 (R227)
  deriving DecidableEq, Repr

/-- An activation bank (R143): its 1,040 bytes; an absent byte is 0. -/
abbrev Bank := List Byte

/-- A copy on a channel (R164, R165). -/
structure Copy where
  id : Nat
  form : Nat                         -- 0 CPY, 1 CPYG, 2 CPYS
  ch : Nat
  wave : Nat
  unit : Nat := 0                    -- the core that issued it (R332)
  h : Nat
  dir : Nat                          -- CPY's direction
  dst : Nat
  src : Nat
  len : Nat                          -- bytes in all
  esize : Nat := 4
  list : List Nat := []              -- element offsets, as read at issue
  done : Nat := 0                    -- bytes landed
  lines : List Nat := []             -- global lines written
  waits : List Nat := []             -- writes of the wave that come first (R192)
  stopping : Nat := 0                -- 0 no; after FCAN 1 while a step may still land, then 2
  paged : Bool := false              -- held at a fault-queue entry
  dropped : Option Nat := none       -- the lowest line it has dropped (R332)
  flying : Option (Nat × List Nat) := none  -- a step whose write is under way to another module: its bytes and lines
  region : Nat := 0
  deriving DecidableEq, Repr

/-- The lanes of a TAPIN that the port has accepted and not yet inserted: lane numbers, contributions and poison marks (R226,
R228). -/
structure TapWork where
  tap : Nat
  lanes : List (Nat × DWord × Bool)
  deriving DecidableEq, Repr

/-- A taper save or restore under way (R235). -/
structure TapOp where
  id : Nat
  wave : Nat
  unit : Nat := 0                    -- the core that issued it (R332)
  tap : Nat
  isSave : Bool
  done : Nat := 0                    -- TAPSAV: bytes of the image written
  image : List Byte := []
  poison : List Nat := []
  places : List Place := []
  vas : List (Nat × Nat) := []
  paged : Bool := false
  dropped : Option Nat := none       -- the lowest line it has dropped (R332)
  waits : List Nat := []
  deriving DecidableEq, Repr

/-- The owner of a range lock (R167): a copy, an MX instruction, a taper operation. -/
structure Lock where
  group : Nat
  op : Nat
  scratchOf : Option Nat             -- none: global virtual addresses; otherwise the group whose allocation it covers
  isWrite : Bool
  lo : Nat
  hi : Nat
  poison : Bool := false             -- its word of the table holds a double-bit error (R15)
  deriving DecidableEq, Repr

/-- How a group stands. -/
inductive Placement where
  | placed
  | saved
  | ended
  deriving DecidableEq, Repr

/-- Why a group is to be pre-empted at its next point (R85). -/
inductive Preempt where
  | no
  | atYield                          -- a lease's withdrawal, before its deadline
  | now
  deriving DecidableEq, Repr

structure Group where
  kernel : Nat := 0
  gx : Nat := 0
  gy : Nat := 0
  lin : Nat := 0
  gang : Nat := 0
  inGang : Nat := 0
  place : Placement := .ended
  unit : Nat := 0                     -- the unit number of the core it stands on, or last stood on
  savedOrder : Nat := 0
  preempt : Preempt := .no
  halted : Bool := false
  det : Bool := false
  running : Nat := 0                  -- deterministic mode: the running wave
  ranThisRound : List Nat := []
  bit : Bool := false                 -- its bitmap bit is set
  failed : Bool := false
  scratchSize : Nat := 0
  scratch : Mem := []
  scratchPoison : List Nat := []      -- poisoned words, by word number
  spill : Tbl Token := []             -- the spill area (R103)
  bars : Tbl Barrier := []
  rdv : Tbl RdvSlot := []
  bankA : Bank := []
  bankB : Bank := []
  poisonA : List Nat := []            -- poisoned 64-bit words of the banks, by word number
  poisonB : List Nat := []
  curB : Bool := false                -- the current bank is B
  tapers : Tbl Taper := []
  tapWork : Option TapWork := none
  wp : Vector DWord 8 := Vector.replicate 8 0
  landed : Tbl (List Nat) := []       -- per channel the global lines landed (R166, R189)
  copies : List Copy := []            -- in issue order
  tapOps : List TapOp := []
  locks : List Lock := []             -- its entries of the range-lock table
  waves : Tbl Wave := []
  dbarArrived : Bool := false
  mbxWaits : List (Nat × Nat × Nat × Nat × Nat) := []  -- (order, wave, split slot, sd, mailbox slot)
  deriving DecidableEq, Repr

/-! ## Cores and dies -/

/-- An MX instruction in the engine's queue (R200), with what it took at issue. -/
structure MxOp where
  id : Nat
  group : Nat
  wave : Nat
  kind : Nat                         -- 0 MXLB, 1 MXRA, 2 MXRV, 3 MXST, 4 MXLD, 5 drain, 6 transposed drain, 7 MXMAC, 8 MXMACS, 9 MXCLR, 10 MXCHK, 11 MXINJ
  fmt : Word := 0
  exec : Word := 0
  t : Nat := 0
  b : Nat := 0
  seg : Nat := 0
  mode : Nat := 0
  places : List Place := []          -- the bytes it reads or writes, in the instruction's own order
  data : List (Nat × List Byte) := []
  poison : List (Nat × Nat) := []
  val : Int := 0
  bank : Bank := []
  rng : List (DWord × BitVec 128) := []  -- a drain under srn: each lane's key and counter at issue
  vas : List (Nat × Nat) := []       -- virtual and physical pages, for replays (R270)
  paged : Bool := false
  dropped : Option Nat := none       -- the lowest line it has dropped (R332)
  done : Nat := 0                    -- MXST: bytes of the image written
  waits : List Nat := []
  region : Nat := 0
  deriving DecidableEq, Repr

/-- A drain whose writes are under way (R211): the bytes still to write, one step at a time. -/
structure Drain where
  id : Nat
  group : Nat
  wave : Nat
  steps : List (List (Place × Byte))
  vas : List (Nat × Nat) := []
  paged : Bool := false              -- held at a fault-queue entry
  flags : BitVec 5 := 0
  waits : List Nat := []
  dropped : Option Nat := none       -- the lowest line it has dropped (R332)
  region : Nat := 0
  deriving DecidableEq, Repr

/-- A version on its way (R243-R245): its record, payload words, stamp, writer, whether it is of a transaction. -/
structure Version where
  slot : Nat                         -- the slot's physical address, a multiple of 256
  va : Nat := 0                      -- its virtual address, for a replay (R270)
  words : List Word
  stamp : Nat := 0
  writer : Nat := 0
  tx : Bool := false
  poison : Bool := false
  ctx : Nat := 64                    -- 64: of another module
  peerCtx : Nat := 0                 -- the other module's context, on whose ordered flow its messages come (R245)
  kernel : Nat := 0
  held : Bool := false               -- at its home: it waits on a fault-queue entry (R270)
  sent : Bool := false               -- it has reached its home, which keeps it pending
  acked : Bool := false              -- in the hold: its home has acknowledged; at its home: it is released
  deriving DecidableEq, Repr

/-- A dusk-hold entry (R245). -/
structure Hold where
  id : Nat
  ctx : Nat
  group : Nat
  wave : Nat
  stamp : Nat
  tx : Bool
  handles : List Nat                 -- the op numbers that resolve with it
  vers : List Version
  darkFor : Nat := 0                 -- ns of dark clock counted
  deriving DecidableEq, Repr

/-- An open transaction (R251). -/
structure Tx where
  id : Nat
  ctx : Nat
  group : Nat
  wave : Nat
  pubs : Nat := 0
  handles : List Nat := []
  vers : List Version := []
  deriving DecidableEq, Repr

structure Core where
  cyc : Nat := 0
  pos : Nat := 0                     -- decision within the cycle: scheduler (pos / 2), decoder (pos mod 2)
  first : Option (Nat × Nat × Nat × Nat × Word) := none  -- decoder 0's choice this cycle: group, wave, split, port, members
  claims : Tbl (Nat × Nat × Nat) := []                   -- per scheduler the split decoder 0 issued in the previous cycle
  mxHolder : Option (Nat × Nat) := none
  actHolder : Option Nat := none
  tapHolder : Option Nat := none
  mxq : List MxOp := []
  drains : List Drain := []
  view : Tbl (List Byte) := []       -- copies of global lines, by line address
  kcache : Tbl (List Byte) := []
  hold : List Hold := []
  lastStamp : Nat := 0
  portWait : List (Nat × Nat × Nat) := []  -- (group, wave, split slot) waiting at the taper port, oldest first
  portWork : List Nat := []          -- groups whose TAPIN the port has accepted and not finished, the one served first
  deriving DecidableEq, Repr

/-- A cached leaf (R261): the context, the virtual page and its size, and the leaf's bits. -/
structure Leaf where
  ctx : Nat
  va : Nat
  size : Nat
  pa : Nat
  r : Bool
  w : Bool
  x : Bool
  stamped : Bool
  deriving DecidableEq, Repr

structure Die where
  mhz : Nat := 1900
  relocking : Bool := false
  tlb : List Leaf := []
  fenced : Bool := false             -- its bridges refuse its accesses (R269, R278)
  deriving DecidableEq, Repr

/-- An invalidation under way (R268, R269). -/
structure Inval where
  id : Nat
  ctx : Option Nat                   -- none: every context
  va : Option Nat
  dies : List Nat                    -- still to acknowledge
  forced : Bool := false             -- some die was counted under R269
  since : Nat                        -- ns
  results : List (Nat × Nat × Nat)   -- per die the accesses it waits for: (die, group, result id)
  writes : List (Nat × Nat)          -- (die, write)
  deriving DecidableEq, Repr

/-! ## Memory and the Lantern machine -/

/-- Where a global write stands (R185). -/
inductive Stage where
  | store | group | gang | die | module | flow
  deriving DecidableEq, Repr

/-- A message without data on an ordered flow: of the dusk hold, the versions of an entry for a home, their release or removal there
(R245); a frontier, with the sender's lo (R248); of SNAP, the request to freeze a frame at a time, and its withdrawal (R270). -/
inductive FlowMsg where
  | versions (unit id home : Nat)
  | release (unit id home : Nat)
  | removal (unit id home : Nat)
  | frontier (lo : Nat)
  | snapshot (id t frame size : Nat)
  | withdraw (id : Nat)
  deriving DecidableEq, Repr

/-- What a write does at its home. -/
inductive Payld where
  | bytes (cells : List (Nat × Byte))
  | atomic (op ty : Nat) (lanes : List (Nat × Nat × Nat × Nat))  -- (lane, address, operand, CAS's new value)
  | contrib (lines : List (Nat × List Byte))                     -- contributions to reduce-window lines (R286)
  | msg (m : FlowMsg)
  deriving DecidableEq, Repr

/-- A global write on its way. -/
structure GWrite where
  id : Nat
  op : Nat                           -- the instruction or engine step it belongs to
  ctx : Nat
  group : Nat
  wave : Nat
  unit : Nat
  home : Nat
  stage : Stage := .store
  payld : Payld
  rel : Bool := false                -- carries a release marker
  podRel : Bool := false             -- a SIG's release is at pod scope
  sig : Bool := false
  before : List Nat := []            -- the wave's earlier writes, for the marker
  result : Option Nat := none        -- an atomic's result
  counted : Bool := false            -- counts on VMC
  vas : List (Nat × Nat) := []       -- virtual page and physical page, for replays (R270)
  seq : Option Nat := none           -- its number in its flow
  held : Bool := false               -- held at a frozen frame (R270)
  loads : List Nat := []             -- SIG: the wave's earlier loads that have no data yet (R182)
  seen : List (Nat × Nat) := []      -- (group, wave) of the waves that may read nothing older from now on (R187, R190)
  engine : Bool := false             -- a write of a copy, drain or other engine
  scratchOf : Option Nat := none     -- a write to this group's allocation, at its bank unit
  dropped : Option Nat := none       -- the lowest line of it that was dropped (R332)
  poison : Bool := false             -- an engine's write of poisoned data
  round : Nat := 0                   -- a contribution's round count (R286)
  issuer : Option Nat := none        -- an engine's write: the core that issued its operation (R332)
  again : Bool := false              -- held: its entry is closed, and its new walk waits for a bridge (R267, R269)
  deriving DecidableEq, Repr

/-- A fabric flow's state at this module (R193, R282, R283). -/
structure Flow where
  next : Nat := 0                    -- next number to send
  unacked : Nat := 0
  expect : Nat := 0                  -- next number the reorder buffer expects
  kept : List (Nat × RemoteMsg) := []  -- the reorder buffer: messages that have come and are not delivered
  link : Option Nat := none          -- the link it uses
  versions : Bool := false           -- messages of a dusk hold have left on it
  early : List Nat := []             -- numbers delivered ahead of sequence (unordered flow)
  deriving DecidableEq, Repr

/-- The error pattern of a stored line (R13). A pattern outside two pin groups is always detected, never miscorrected
(DESIGN CHOICE, log 54). -/
inductive LineError where
  | oneSymbol | bothSymbols | uncorrectable
  deriving DecidableEq, Repr

/-! ## Contexts, queues, kernels -/

inductive CtxSt where
  | free | live | suspended | ending
  deriving DecidableEq, Repr

/-- Who waits on a fault-queue entry (R263). -/
inductive Waiter where
  | split (g w sl : Nat)
  | copy (g id : Nat)
  | write (id : Nat)
  | version (unit id slot : Nat)
  deriving DecidableEq, Repr

/-- A queued or popped fault-queue entry (R263, R264). -/
structure FqEntry where
  popped : Bool := false
  page : Nat
  kind : Nat
  level : Nat
  malformed : Bool
  kernel : Nat
  unit : Nat
  count : Nat := 1
  order : Nat
  waiters : List Waiter := []
  deriving DecidableEq, Repr

/-- A snapshot of a context (R270). -/
structure Snapshot where
  t : Nat
  frames : List (Nat × Nat)          -- accepted frames: base and size
  asked : List (Nat × Nat) := []     -- frames whose home has not answered
  refused : Bool := false
  frozen : List Nat := []            -- frames whose home has reached T
  complete : Bool := false
  issuer : Option (Nat × Nat × Nat × Nat) := none
  deriving DecidableEq, Repr

/-- A frame of this module in a snapshot of another module's context, which its home has accepted (R270). -/
structure FarSnap where
  peer : Nat
  ctx : Nat
  id : Nat
  t : Nat
  base : Nat
  size : Nat
  deriving DecidableEq, Repr

structure Context where
  st : CtxSt := .free
  root : Nat := 0
  tenant : Nat := 0
  det : Bool := false
  priv : Bool := false
  diag : Bool := false
  penmax : Nat := 64
  queues : Nat := 0                  -- bitmap of 256 queues
  trap : Nat := 0
  notices : Nat := 0
  rd : Nat := 0
  wr : Nat := 0
  unread : Nat := 0
  lost : Nat := 0
  fq : Tbl FqEntry := []
  fqOrder : Nat := 0
  snaps : Tbl Snapshot := []
  inval : Option Nat := none         -- the invalidation of an ending context
  endPrev : Nat := 1                 -- the state CTX.END found, as the status codes it
  jsusp : List Nat := []             -- journalled suspends whose groups are not all saved
  jend : List Nat := []              -- journalled ends
  service : Bool := false            -- the service kernel's context (R265)
  deriving DecidableEq, Repr

/-- A kernel descriptor and its image header, as the dispatcher read them (R321). -/
structure Image where
  base : Nat := 0
  desc : Nat := 0
  codeOff : Nat := 65536
  codeWords : Nat := 0
  mapOff : Nat := 0
  dataOff : Nat := 0
  entry : Nat := 0
  scratch : Nat := 0
  regs : Nat := 16
  waves : Nat := 1
  det : Bool := false
  entries : Nat := 0
  entryOff : Nat := 0
  deriving DecidableEq, Repr

/-- A launch packet (R70). -/
structure Packet where
  code : Nat := 0
  ngx : Nat := 1
  ngy : Nat := 1
  gang : Nat := 1
  dies : Nat := 3
  concurrent : Bool := false
  tracked : Bool := false
  hasProducer : Bool := false
  args : Nat := 0
  producer : Nat := 0
  a00 : Int := 0
  a01 : Int := 0
  a10 : Int := 0
  a11 : Int := 0
  cx : Int := 0
  cy : Int := 0
  ex : Nat := 1
  ey : Nat := 1
  deriving DecidableEq, Repr

inductive KSt where
  | armed | queued | running | retiring | complete | failing | failed
  deriving DecidableEq, Repr

/-- A pod launch's data at a member (R91-R93). -/
structure PodStart where
  gen : Nat
  origin : Nat
  members : Nat
  ackAt : Nat                        -- ns
  startT : Option Nat := none        -- T_s, once the start message has come
  startAt : Nat := 0                 -- ns of its arrival
  attested : Bool := false           -- an attestation past T_s has come since
  deriving DecidableEq, Repr

structure Kernel where
  ctx : Nat := 0
  queue : Nat := 0
  st : KSt := .queued
  code : Nat := 0
  pkt : Packet := {}
  img : Image := {}
  gen : Nat := 0
  nextGang : Nat := 0                -- every gang below it is placed
  beyond : List Nat := []            -- gangs above it that are placed
  exited : Nat := 0
  bits : List Nat := []              -- groups whose bitmap bit is set
  tracked : Bool := false
  poolBytes : Nat := 0
  pred : Option Nat := none          -- the kernel it depends on under R73
  prodDone : Bool := false           -- its producer had completed at acceptance
  jseq : Nat := 0                    -- its journal entry; 0: none
  pod : Option PodStart := none
  waitWrites : List Nat := []        -- writes that its start waits for (R82)
  mbx : Tbl (List DWord) := []       -- messages, by 8 × die + slot
  install : Option Nat := none       -- the install that applies to it
  newImg : Option Image := none
  noGroups : Bool := false           -- no further gang is placed
  deriving DecidableEq, Repr

structure Install where
  id : Nat
  queue : Nat
  ctx : Nat
  old : Nat
  img : Image
  jseq : Nat
  complete : Bool := false
  deriving DecidableEq, Repr

structure Queue where
  ctx : Option Nat := none
  prio : Nat := 0
  cmds : List Nat := []              -- kernels not yet wholly placed, in order
  last : Option Nat := none          -- the kernel accepted last
  count : Nat := 0
  pass : Nat := 0
  deriving DecidableEq, Repr

/-- A die slice of a kernel (R178). -/
structure DieSlice where
  phase : Word := 0
  groups : List Nat := []
  arrived : List Nat := []
  deriving DecidableEq, Repr

/-- A LAUNCH packet at the dispatcher, not yet accepted or refused (R82). -/
structure LaunchMsg where
  id : Nat
  ctx : Nat
  queue : Nat
  bytes : List Byte
  group : Nat
  wave : Nat
  waitWrites : List Nat
  deriving DecidableEq, Repr

/-- An MBX.SEND message not yet accepted (R180). -/
structure MbxMsg where
  id : Nat
  kernel : Nat
  die : Nat
  slot : Nat
  value : DWord
  group : Nat
  wave : Nat
  sl : Nat
  writes : List Nat
  loads : List Nat
  ctx : Nat := 0                     -- the sender's context
  deriving DecidableEq, Repr

/-- A pod launch at its origin (R93). -/
structure PodOrigin where
  queue : Nat
  gen : Nat
  members : Nat
  acks : List (Nat × Nat) := []
  since : Nat
  jseq : Nat
  packet : List Byte := []
  tenant : Nat := 0
  deriving DecidableEq, Repr

/-- A tenant's partition and way mask (R65). -/
structure Tenant where
  cores : List Nat
  ways : Nat
  deriving DecidableEq, Repr

/-! ## Time, links, leases, host -/

inductive Tclk where
  | healthy | degraded | dark
  deriving DecidableEq, Repr

/-- The time unit (R238-R241). -/
structure TimeUnit where
  loA : Nat := 0
  hiA : Nat := 2 ^ 64 - 1
  delta : Nat := 0
  silent : Nat := 0
  tclk : Tclk := .dark
  ref : Nat := 0
  refOk : Bool := true
  backOk : Bool := true
  onBackup : Bool := false
  osc : Nat := 0                     -- the reference oscillator's count, for δ
  reqs : Tbl Nat := []               -- per plane the count at which its request left
  missed : Nat := 0
  deriving DecidableEq, Repr

inductive LinkSt where
  | training | up | degraded | retrying (back : Bool) | down
  deriving DecidableEq, Repr

structure Link where
  st : LinkSt := .training
  port : Nat := 0
  retry : Nat := 0
  since : Nat := 0                   -- ns at which the present retry was sent
  unacked : List (Nat × Nat) := []   -- link sequence numbers of the flits kept, and the ns at which each was first sent
  sendSeq : Nat := 0
  recvSeq : Nat := 0
  retriesSampled : Nat := 0
  turn : Nat := 0                    -- the channel being served, or the next to be: 2 × pair, and 1 for responses (R284)
  inVisit : Bool := false            -- that channel has had its round's credit
  deriving DecidableEq, Repr

structure VChannel where
  tenant : Nat := 0
  weight : Nat := 1
  deficit : Nat := 0                 -- of the request channel
  back : Nat := 0                    -- the deficit of the response channel
  deriving DecidableEq, Repr

/-- A response of this module to another's atomic or load, which waits for its channel's turn (R284). -/
structure Response where
  id : Nat
  link : Option Nat := none          -- the link on which it leaves, once chosen
  peer : Nat
  ctx : Nat
  seq : Nat
  bytes : List Byte
  poison : List Nat := []            -- the poisoned bytes, by position (R14)
  deriving DecidableEq, Repr

/-- A contribution that has come to a switch (R286, R287). -/
structure Contribution where
  src : Nat
  ctx : Nat
  line : Nat
  round : Nat
  bytes : List Byte
  poison : Bool := false
  deriving DecidableEq, Repr

/-- A reduce window (R285). -/
structure Window where
  base : Nat
  pages : Nat
  members : Nat
  plane : Nat
  type : Nat
  tenant : Nat
  deriving DecidableEq, Repr

/-- A round at the switch that has not formed (R287). -/
structure Round where
  win : Nat := 0                     -- its window
  line : Nat
  round : Nat
  got : Tbl (List Byte) := []        -- contributions by module
  poison : Bool := false             -- a contribution was poisoned (R14)
  since : Nat
  abandoned : Bool := false
  deriving DecidableEq, Repr

inductive UnitSt where
  | inService | withdrawing | testing | retesting | retired
  deriving DecidableEq, Repr

/-- A leased unit (R290-R298). -/
structure LUnit where
  st : UnitSt := .inService
  score : Nat := 0
  since : Nat := 0                   -- ns at which its present state began
  due : Nat := 0                     -- ns at which its next lease is due
  forward : Bool := false
  early : Bool := false              -- its score at its lease's end brought the next one forward to `due` (R298)
  reinstating : Bool := false        -- a management command reinstates it (R291)
  firstBad : Nat := 0                -- first pattern that mismatched in the test
  onSpare : Bool := false
  copying : Nat := 0                 -- channel: 0 no copy, 1 to the spare, 2 back
  peak : Nat := 0
  corr1 : Nat := 0
  corr16 : Nat := 0
  corr64 : Nat := 0
  deriving DecidableEq, Repr

/-- A snuff record (R299). -/
structure Snuff where
  lo : Nat
  unit : Nat
  cls : Nat
  cause : Nat
  score : Nat
  reinstates : Bool
  first : Nat
  second : Nat
  hours : Nat
  deriving DecidableEq, Repr

/-- A monitor point (R303). -/
structure Monitor where
  lo : Option Nat := none
  hi : Nat := 0
  bins : List Nat := List.replicate 16 0
  deriving DecidableEq, Repr

/-- A journal entry (R80). -/
structure JEntry where
  seq : Nat
  lo : Nat
  queue : Nat
  ctx : Nat
  kind : Nat
  st : Nat
  code : Nat := 0
  kernel : Nat := 0
  deriving DecidableEq, Repr

/-- A notice entry's fields (R60). -/
structure Notice where
  lo : Nat
  kind : Nat
  unit : Nat
  detail : Nat
  deriving DecidableEq, Repr

/-- Lifetime counters in flash (R304). -/
structure Lifetime where
  hours : Nat := 0
  scores : Tbl Nat := []
  peaks : Tbl Nat := []
  corrections : Tbl (Nat × Nat × Nat) := []
  retired : Nat := 0
  excursions : Tbl Nat := []
  deriving DecidableEq, Repr

/-- What I/O-die flash holds. -/
structure Flash where
  journal : List JEntry := []        -- the newest 4,096 entries
  snuffs : List Snuff := []
  life : Lifetime := {}
  gLast : Tbl (Nat × Nat × Nat) := [] -- per queue: last generation, its origin, its hi
  genSent : Tbl Nat := []            -- per queue the last generation that this module sent as an origin (R93)
  versions : Tbl Nat := []           -- per image kind
  leaves : List Nat := []            -- signature leaf indexes seen
  deriving DecidableEq, Repr

/-- A command the module remembers for repeats and for its reply (R330). -/
structure Recent where
  port : Nat
  key : Nat
  tag : Nat
  kind : Nat
  seq : Nat
  reason : Nat
  value : Nat
  sent : Bool := false               -- its reply has been sent
  deriving DecidableEq, Repr

/-- A message that leaves the module: a reply on a host port, or a fabric message. -/
inductive OutMsg where
  | host (port : Nat) (bytes : List Byte)
  | pod (bytes : List Byte)          -- pod-launch messages (R91)
  | sync (plane : Nat)
  | frontier (peer lo : Nat)
  | acknowledgement (peer unit id home : Nat)  -- a home here keeps the versions of another module's entry (R245)
  | snapshot (peer ctx id t frame size : Nat)  -- SNAP's request to a home of another module, and its withdrawal (R270)
  | withdraw (peer ctx id : Nat)
  | snapAnswer (peer ctx id frame : Nat) (accepted : Bool)  -- the answer of a home here to such a request
  | frozen (peer ctx : Nat) (ordered : Bool) (seq addr : Nat)  -- a message of that flow stands at a frozen frame here (R270, log 92)
  | frozenVersion (peer unit id slot : Nat)  -- so does a version of another module's
  | contribution (plane : Nat) (line round ctx : Nat) (bytes : List Byte) (poison : Bool)
  | response (peer ctx seq : Nat) (bytes : List Byte) (poison : List Nat)  -- to a remote atomic or load; poisoned bytes (R14, R193)
  | attestAsk
  | oscillators                      -- the report that both oscillators have failed (R241)
  deriving DecidableEq, Repr

inductive BootSt where
  | off | verifying | training | timing | starting | ready
  | halted (stage : Nat)
  deriving DecidableEq, Repr

/-- Who acts next: the split whose instruction is issued, with the words and the stall code of that instruction. -/
structure Cursor where
  g : Nat := 0
  w : Nat := 0
  sl : Nat := 0
  len : Nat := 1
  stall : Nat := 0
  deriving DecidableEq, Repr

/-- The Lantern machine: memory and everything on its way to it. -/
structure Memory where
  mem : Mem := []                    -- the pod's memory, by physical address (R11, R12)
  poison : List Nat := []            -- poisoned lines
  errs : Tbl LineError := []
  writeBacks : List Nat := []
  writes : List GWrite := []         -- oldest first
  flows : Tbl Flow := []             -- by peer, context and kind (flowKey)
  settled : Tbl Nat := []            -- per flow, 64 × sender module + context, the lo of its last frontier (R248)
  pending : List (Nat × Nat × Version) := []  -- versions pending at homes: unit, entry, version
  farSnaps : List FarSnap := []      -- frames frozen, or to be frozen, for other modules' snapshots (R270)
  deriving DecidableEq, Repr

/-- The dispatcher. -/
structure Dispatcher where
  queues : Tbl Queue := []
  kernels : Tbl Kernel := []
  lastServed : Tbl Nat := []         -- per priority
  launches : List LaunchMsg := []
  mbxMsgs : List MbxMsg := []
  slices : Tbl DieSlice := []        -- by kernel × 16 + die
  installs : List Install := []
  pool : Nat := 0                    -- bytes of the bitmap pool in use
  origins : List PodOrigin := []
  deriving DecidableEq, Repr

/-- The Lamplighter and its records. -/
structure Lamplighter where
  gen : Word := 0
  units : Tbl LUnit := []
  monitors : Tbl Monitor := []
  corrSeen : Tbl Nat := []           -- corrections already sampled, per stack and device
  hot : List Nat := []               -- dies stepped down, waiting to step up
  excursion : List Nat := []         -- dies whose sensor is above its limit
  excursions : Tbl Nat := []         -- per die, excursions counted
  warm : Tbl Nat := []               -- per die, when a reading of it last stood above 95 °C (R324)
  heavy : Nat := 0                   -- when the module's power last stood above 4.32 kW (R324)
  retirements : Nat := 0
  hours0 : Nat := 0                  -- hours in service before this power-on
  mgmtRing : List Notice := []
  deriving DecidableEq, Repr

/-- The host interface. -/
structure HostIf where
  portsUp : Vector Bool 2 := Vector.replicate 2 true
  keys : Tbl (List Byte) := []
  lastCtr : List (List Byte × Nat) := []   -- per key, the last counter accepted
  replyCtr : List (List Byte × Nat) := []  -- per key, the module's own counter
  recent : List Recent := []         -- newest first
  images : List (Nat × List Byte × Nat) := []  -- running images: kind, digest, version
  out : List OutMsg := []            -- newest first
  seq : Nat := 1                     -- the next sequence number
  ring : Tbl JEntry := []            -- by slot
  deriving DecidableEq, Repr

structure Pod where
  links : Tbl Link := []
  vcs : Tbl VChannel := []           -- by link × 64 + pair
  windows : Tbl Window := []
  rounds : List Round := []
  waiting : List Contribution := []  -- contributions that find no room at their switch, oldest first (R287)
  formed : List (Nat × Nat × Nat × List Byte × Bool) := []  -- combined writes on their way here: plane, number, line, bytes, poison (R287)
  responses : List Response := []    -- responses that wait for their channel's turn, oldest first (R284)
  users : List (Nat × Nat) := []     -- (window, context) of this module's contributions
  counts : Tbl Nat := []             -- round counts per window and line (countKey)
  members : List Nat := []           -- the modules of the pod, this one among them (log 49)
  absent : List Nat := []            -- other modules that no up link of theirs reaches (R281, log 49)
  deriving DecidableEq, Repr

/-- The machine. -/
structure State where
  mod : Nat := 0
  boot : BootSt := .off
  agenda : List (Nat × Instr) := []
  latch : Option Instr := none
  cur : Cursor := {}
  nextId : Nat := 1
  freeNo : Nat := 0                  -- the MODEL's: number of the next free value (log 11)
  now : Nat := 0
  time : TimeUnit := {}
  memory : Memory := {}
  ctxs : Tbl Context := []
  tenants : Tbl Tenant := []
  disp : Dispatcher := {}
  groups : Tbl Group := []
  txs : List Tx := []
  cores : Tbl Core := []
  dies : Tbl Die := []
  bridges : Tbl Nat := []            -- consecutive resends per bridge and direction (R278, bridgeDie)
  invals : List Inval := []
  pod : Pod := {}
  lamp : Lamplighter := {}
  flash : Flash := {}
  host : HostIf := {}
  deriving DecidableEq, Repr

/-- The machine right after first power-on reset: every field at the value the manual gives, or at the one its log entry names. -/
def State.reset : State := {}

end Sys2Proof.Machine
end

