-- ==== Sys2Proof/Machine/Ops.lean ====
section
/-! DEFINITION. The named operations on the state: reaching the split whose instruction runs, and reading and writing its
registers. -/

namespace Sys2Proof.Machine

/-- The outcome of an instruction. -/
abbrev Out := Host.Outcome State Fault Refusal

/-! ## Reaching the objects of the state -/

def State.group (s : State) (g : Nat) : Group := Tbl.getD s.groups g {}
def State.setGroup (s : State) (g : Nat) (x : Group) : State := { s with groups := Tbl.set s.groups g x }
def State.modGroup (s : State) (g : Nat) (f : Group → Group) : State := s.setGroup g (f (s.group g))

def Group.wave (x : Group) (w : Nat) : Wave := Tbl.getD x.waves w {}
def Wave.split (x : Wave) (k : Nat) : Split := Tbl.getD x.splits k {}

def State.wave (s : State) (g w : Nat) : Wave := (s.group g).wave w
def State.setWave (s : State) (g w : Nat) (x : Wave) : State :=
  s.modGroup g fun G => { G with waves := Tbl.set G.waves w x }
def State.modWave (s : State) (g w : Nat) (f : Wave → Wave) : State := s.setWave g w (f (s.wave g w))

def State.split (s : State) (g w k : Nat) : Split := (s.wave g w).split k
def State.setSplit (s : State) (g w k : Nat) (x : Split) : State :=
  s.modWave g w fun W => { W with splits := Tbl.set W.splits k x }
def State.modSplit (s : State) (g w k : Nat) (f : Split → Split) : State := s.setSplit g w k (f (s.split g w k))

/-- The group, the wave and the split whose instruction runs. -/
def State.cg (s : State) : Group := s.group s.cur.g
def State.cw (s : State) : Wave := s.wave s.cur.g s.cur.w
def State.csp (s : State) : Split := s.split s.cur.g s.cur.w s.cur.sl
def State.modG (s : State) (f : Group → Group) : State := s.modGroup s.cur.g f
def State.modW (s : State) (f : Wave → Wave) : State := s.modWave s.cur.g s.cur.w f
def State.modSp (s : State) (f : Split → Split) : State := s.modSplit s.cur.g s.cur.w s.cur.sl f

def State.core (s : State) (u : Nat) : Core := Tbl.getD s.cores u {}
def State.setCore (s : State) (u : Nat) (x : Core) : State := { s with cores := Tbl.set s.cores u x }
def State.modCore (s : State) (u : Nat) (f : Core → Core) : State := s.setCore u (f (s.core u))

def State.die (s : State) (d : Nat) : Die := Tbl.getD s.dies d {}
def State.setDie (s : State) (d : Nat) (x : Die) : State := { s with dies := Tbl.set s.dies d x }
def State.modDie (s : State) (d : Nat) (f : Die → Die) : State := s.setDie d (f (s.die d))

def State.ctx (s : State) (c : Nat) : Context := Tbl.getD s.ctxs c {}
def State.setCtx (s : State) (c : Nat) (x : Context) : State := { s with ctxs := Tbl.set s.ctxs c x }
def State.modCtx (s : State) (c : Nat) (f : Context → Context) : State := s.setCtx c (f (s.ctx c))

def State.kernel (s : State) (k : Nat) : Kernel := Tbl.getD s.disp.kernels k {}
def State.setKernel (s : State) (k : Nat) (x : Kernel) : State :=
  { s with disp := { s.disp with kernels := Tbl.set s.disp.kernels k x } }
def State.modKernel (s : State) (k : Nat) (f : Kernel → Kernel) : State := s.setKernel k (f (s.kernel k))

def State.queue (s : State) (q : Nat) : Queue := Tbl.getD s.disp.queues q {}
def State.setQueue (s : State) (q : Nat) (x : Queue) : State :=
  { s with disp := { s.disp with queues := Tbl.set s.disp.queues q x } }
def State.modQueue (s : State) (q : Nat) (f : Queue → Queue) : State := s.setQueue q (f (s.queue q))

def State.modMem (s : State) (f : Memory → Memory) : State := { s with memory := f s.memory }

/-- A fresh number. -/
def State.fresh (s : State) : State := { s with nextId := s.nextId + 1 }

def Group.isPlaced (x : Group) : Bool :=
  match x.place with
  | .placed => true
  | .saved => false
  | .ended => false

def Group.isSaved (x : Group) : Bool :=
  match x.place with
  | .placed => false
  | .saved => true
  | .ended => false

def Group.isEnded (x : Group) : Bool :=
  match x.place with
  | .placed => false
  | .saved => false
  | .ended => true

def unitDie (u : Nat) : Nat := u / 64
def unitCore (u : Nat) : Nat := u % 64

/-- Cores of a die (R7). -/
def dieCores (d : Nat) : Nat := if d < 4 then 48 else if d < 8 then 64 else 0

def isUnit (u : Nat) : Bool := u < 512 && unitCore u < dieCores (unitDie u)

/-- Every core's unit number (R8). -/
def allUnits : List Nat := (List.range 512).filter isUnit

/-- The current core's unit number, context and cycle. -/
def State.cu (s : State) : Nat := s.cg.unit
/-- The taper port serves a TAPIN (R226). -/
def Core.portBusy (c : Core) : Bool := !c.portWork.isEmpty

def State.cc (s : State) : Core := s.core s.cu
def State.cyc (s : State) : Nat := s.cc.cyc
def State.ctxOf (s : State) (g : Nat) : Nat := (s.kernel (s.group g).kernel).ctx
def State.cctx (s : State) : Nat := s.ctxOf s.cur.g

/-- The lowest free split slot of a wave (R100). -/
def Wave.freeSlot (x : Wave) : Option Nat := (List.range 4).find? fun k => !Tbl.has x.splits k

/-- Waves of a group that have not ended. -/
def Group.liveWaves (x : Group) : List Nat := (x.waves.filter fun e => !e.2.ended).map Prod.fst

/-! ## Registers (R25, R33, R99, R129) -/

/-- What a reader at cycle `c` finds: entries newest first; it passes over each producer whose result is not yet readable. -/
def pipeVal (c : Nat) (d : Dest) (raw : DWord) : List Inflight → DWord
  | [] => raw
  | e :: r => if e.dest = d then (if c < e.ready then pipeVal c d e.old r else raw) else pipeVal c d raw r

/-- Whether the newest producer of `d` is not yet readable (R25). -/
def tooEarly (c : Nat) (d : Dest) : List Inflight → Bool
  | [] => false
  | e :: r => if e.dest = d then !e.quiet && c < e.ready else tooEarly c d r

/-- A scalar as the split's instruction reads it; s0 reads zero (R33). -/
def State.rdS (s : State) (r : Nat) : DWord :=
  if r = 0 then 0 else pipeVal s.cyc (.s r) (s.cw.s.toList.getD r 0) s.cw.inflight.reverse

/-- A mask register as the split's instruction reads it. -/
def State.rdM (s : State) (r : Nat) : Word :=
  (pipeVal s.cyc (.m r) ((s.cw.m.toList.getD r 0).setWidth 64) s.cw.inflight.reverse).setWidth 32

/-- One lane of a vector register as stored. -/
def Wave.rawV (x : Wave) (r l : Nat) : Word := (x.v.getD r zeroRow).lane l

/-- A vector register as the split's instruction reads it: every lane, at issue (R129). -/
def State.rdV (s : State) (r : Nat) : Row :=
  if s.cw.inflight.isEmpty then s.cw.v.getD r zeroRow
  else Row.make fun l => (pipeVal s.cyc (.v r l) ((s.cw.rawV r l).setWidth 64) s.cw.inflight.reverse).setWidth 32

def State.rdVL (s : State) (r l : Nat) : Word := (s.rdV r).lane l

/-- The producers still of interest from cycle `c` on, oldest first: one that is ready goes, unless an older one of its
register stays. -/
def pruned (c : Nat) (xs : List Inflight) : List Inflight :=
  xs.foldl (fun ys e => if e.ready ≤ c && !ys.any (fun f => f.dest == e.dest) then ys else ys ++ [e]) []

/-- Stores a scalar, which clears its poison; a write to s0 is discarded (R15, R33). -/
def Wave.putS (x : Wave) (r : Nat) (v : DWord) : Wave :=
  if r = 0 then x else { x with s := x.s.setIfInBounds r v, sPoison := x.sPoison.filter fun k => k != r }

/-- Stores a mask register. -/
def Wave.putM (x : Wave) (r : Nat) (v : Word) : Wave := { x with m := x.m.setIfInBounds r v, mPoison := x.mPoison.filter fun k => k != r }

/-- Stores one lane of a vector register. -/
def Wave.putV (x : Wave) (r l : Nat) (v : Word) : Wave :=
  { x with v := x.v.set r ((x.v.getD r zeroRow).setIfInBounds l v) }

/-- Stores the lanes of `e` of a vector register. -/
def Wave.putRow (x : Wave) (r : Nat) (e : Word) (f : Nat → Word) : Wave :=
  let old := x.v.getD r zeroRow
  { x with v := x.v.set r (Row.make fun l => if e.getLsbD l then f l else old.lane l) }

/-- Stores a handle, which clears its poison (R15). -/
def Wave.putH (x : Wave) (r : Nat) (h : Handle) : Wave :=
  { x with h := x.h.setIfInBounds r h, hPoison := x.hPoison.filter fun k => k != r }

/-- Latencies of R25: scalar results and masks 2 cy, vector results 4 cy. -/
def latScalar : Nat := 2
def latVector : Nat := 4

/-- A fixed-latency scalar result (R25). -/
def State.wrS (s : State) (r : Nat) (v : DWord) : State :=
  if r = 0 then s
  else
    let c := s.cyc
    s.modW fun W => { W.putS r v with
      inflight := pruned c W.inflight ++ [⟨c + latScalar, .s r, W.s.toList.getD r 0, false⟩] }

/-- A fixed-latency mask result, of latency `lat` (R25, R113, R137). -/
def State.wrM (s : State) (r : Nat) (v : Word) (lat : Nat) : State :=
  let c := s.cyc
  s.modW fun W => { W.putM r v with
    inflight := pruned c W.inflight ++ [⟨c + lat, .m r, (W.m.toList.getD r 0).setWidth 64, false⟩] }

/-- A fixed-latency vector result in the lanes of `e` (R25). -/
def State.wrVIn (s : State) (e : Word) (r : Nat) (f : Nat → Word) : State :=
  let c := s.cyc
  s.modW fun W => { W.putRow r e f with
    vPoison := W.vPoison.filter fun p => !(p.1 == r && e.getLsbD p.2)
    inflight := pruned c W.inflight ++
      (maskLanes e).map fun l => ⟨c + latVector, .v r l, (W.rawV r l).setWidth 64, false⟩ }

/-- A fixed-latency vector result in the lanes of exec (R25, R129). -/
def State.wrV (s : State) (r : Nat) (f : Nat → Word) : State := s.wrVIn s.csp.exec r f

/-- A scalar written before the split's next instruction issues: neither fixed-latency nor scoreboarded (R66, R170, R175). -/
def Wave.finalS (x : Wave) (r : Nat) (v : DWord) : Wave :=
  { x.putS r v with inflight := x.inflight.filter fun e => e.dest != .s r }

/-- FWAIT's status (R170): every split reads it from cycle `c` on, and no read of it is too early. -/
def Wave.statusS (x : Wave) (r : Nat) (v : DWord) (c : Nat) : Wave :=
  { x.putS r v with inflight := x.inflight ++ [{ ready := c, dest := .s r, old := x.s.toList.getD r 0, quiet := true }] }

/-- ORs flags into `%fxf` (R130). -/
def State.orFlags (s : State) (f : Flags) : State := s.modW fun W => { W with fxf := W.fxf ||| f }

/-! ## Going on to the next instruction (R24, R37) -/

/-- The address of the header that follows a clause. -/
def Clause.next (c : Clause) : DWord := c.hdr + BitVec.ofNat 64 (4 * (c.n + 1))

/-- The address of word `k` of a clause. -/
def Clause.addr (c : Clause) (k : Nat) : DWord := c.hdr + BitVec.ofNat 64 (4 * (k + 1))

/-- The split past `len` words: the next word of its clause, or the header that follows it. -/
def Split.past (x : Split) (len : Nat) : Split :=
  let k := x.ctx.idx + len
  if k < x.ctx.n then { x with pc := x.ctx.addr k, ctx := { x.ctx with idx := k }, readySince := none }
  else { x with pc := x.ctx.next, entering := .fall, readySince := none }

/-- The split at a header whose address was checked. -/
def Split.goto (x : Split) (a : DWord) : Split := { x with pc := a, entering := .checked, readySince := none }

/-- Applies the stall code of the instruction that issues (R24). -/
def State.applyStall (s : State) : State :=
  let c := s.cyc
  s.modW fun W => { W with nextIssue := max W.nextIssue (c + 1 + s.cur.stall) }

/-- The instruction has issued and the split goes on to the next word. -/
def State.retire (s : State) : State := s.applyStall.modSp fun x => x.past s.cur.len

/-- The instruction has issued and the split goes to a header. -/
def State.jump (s : State) (a : DWord) : State := s.applyStall.modSp fun x => x.goto a

/-- The instruction holds its wave for `n` cycles beyond its stall code (R144, R198, R221, R225); of two splits that issue in one
cycle the larger delay applies (R24). -/
def State.stallMore (s : State) (n : Nat) : State :=
  let c := s.cyc
  s.modW fun W => { W with nextIssue := max W.nextIssue (c + 1 + s.cur.stall + n) }

/-- Runs `f` with the wave's next issue at the instruction's own delay, to which `f` adds; of two splits that issue in one cycle
the larger delay applies (R24, R103). -/
def State.ownStall (s : State) (f : State → State) : State :=
  let old := s.cw.nextIssue
  let c := s.cyc
  (f (s.modW fun W => { W with nextIssue := c + 1 + s.cur.stall })).modWave s.cur.g s.cur.w fun W =>
    { W with nextIssue := max old W.nextIssue }

/-- Blocks the current split. -/
def State.blockOn (s : State) (b : Block) : State := s.modSp fun x => { x with block := b, readySince := none }

/-! ## Counters (R20) -/

def Wave.count (x : Wave) (c : Counter) : Nat :=
  match c with
  | .vmc => x.vmc
  | .smc => x.smc
  | .mxc => x.mxc
  | .cpc => x.cpc
  | .none => 0

def Wave.addCount (x : Wave) (c : Counter) (d : Int) : Wave :=
  let f (n : Nat) : Nat := (n + d).toNat
  match c with
  | .vmc => { x with vmc := f x.vmc }
  | .smc => { x with smc := f x.smc }
  | .mxc => { x with mxc := f x.mxc }
  | .cpc => { x with cpc := f x.cpc }
  | .none => x

def Thresholds.met (t : Thresholds) (x : Wave) : Bool :=
  (t.vmc == 7 || x.vmc ≤ t.vmc) && (t.smc == 7 || x.smc ≤ t.smc) &&
  (t.mxc == 7 || x.mxc ≤ t.mxc) && (t.cpc == 7 || x.cpc ≤ t.cpc)

/-! ## Time (R238-R241) -/

def ceilDiv (a b : Nat) : Nat := (a + b - 1) / b

def TimeUnit.lo (t : TimeUnit) : Nat :=
  match t.tclk with
  | .dark => t.loA
  | .healthy => t.loA + t.delta - ceilDiv t.delta 10000
  | .degraded => t.loA + t.delta - ceilDiv t.delta 10000

def TimeUnit.hi (t : TimeUnit) : Nat :=
  match t.tclk with
  | .dark => 2 ^ 64 - 1
  | .healthy => t.hiA + t.delta + ceilDiv t.delta 10000
  | .degraded => t.hiA + t.delta + ceilDiv t.delta 10000

def TimeUnit.eps (t : TimeUnit) : Nat := (t.hi - t.lo) / 2

/-- `%pen` (R240). -/
def TimeUnit.pen (t : TimeUnit) : Nat :=
  match t.tclk with
  | .dark => 0xFFFF
  | .healthy => t.eps
  | .degraded => t.eps

/-- `%ref` (R240). -/
def TimeUnit.refVal (t : TimeUnit) : Nat :=
  match t.tclk with
  | .dark => t.ref
  | .healthy => max t.ref (t.lo + t.eps)
  | .degraded => max t.ref (t.lo + t.eps)

def tclkCode (t : Tclk) : Nat :=
  match t with
  | .healthy => 0
  | .degraded => 1
  | .dark => 2

end Sys2Proof.Machine
end

