-- ==== Sys2Proof/Machine/Trans.lean ====
section
/-! DEFINITION. Physical memory (R11-R14), translation (R258-R262), notices (R60, R302), flicker events (R297, R298), the
fault queue (R263), scratchpad addresses (R156) and range locks (R167, R168). -/

namespace Sys2Proof.Machine

/-! ## Physical addresses (R11, R12) -/

/-- The address lies in H-memory or G-memory of the own module. -/
def inClass (pa : Nat) : Bool := pa < 0x12000000000

def isH (pa : Nat) : Bool := pa < 0x10000000000

/-- The module a pod address names, where R12 admits it: R12's form, and not the end that R11's row gives, which would cut module 63
(DESIGN CHOICE, log 79). -/
def podModule (pa : Nat) : Option Nat :=
  if pa / 2 ^ 48 = 8 ∧ fld pa 41 1 = 0 ∧ inClass (pa % 2 ^ 41) then some (fld pa 42 6) else none

/-- A pod address of the own module names the local line (R12). -/
def State.norm (s : State) (pa : Nat) : Nat :=
  match podModule pa with
  | some m => if m = s.mod then pa % 2 ^ 41 else pa
  | none => pa

/-- A link that carries traffic (R279). A degraded link, and one that retries, count as up links of R12 and R281 (DESIGN CHOICE,
log 59). -/
def Link.carries (l : Link) : Bool :=
  match l.st with
  | .training => false
  | .up => true
  | .degraded => true
  | .retrying _ => true
  | .down => false

def State.anyLink (s : State) : Bool := s.pod.links.any fun e => e.2.carries

/-- An up link of this module, and one of the other, reaches a module of the pod (R12, R281). -/
def State.reaches (s : State) (m : Nat) : Bool := s.anyLink && s.pod.members.contains m && !s.pod.absent.contains m

/-- A module of the pod has no up link left, as HOME_UNREACHABLE reports (R281, log 49). -/
def State.loseModule (s : State) (m : Nat) : State :=
  { s with pod := { s.pod with absent := if s.pod.absent.contains m then s.pod.absent else s.pod.absent ++ [m] } }

/-- A message of a module has come: an up link reaches it (log 49). -/
def State.hearModule (s : State) (m : Nat) : State :=
  if s.pod.absent.contains m then { s with pod := { s.pod with absent := s.pod.absent.filter fun x => x != m } } else s

/-- The access reaches a line (R11, R12). -/
def State.admits (s : State) (pa : Nat) : Bool := inClass pa || (podModule pa).any s.reaches

def lineOf (pa : Nat) : Nat := pa / 64 * 64

/-- Die and home slice of a local address (R11). -/
def dieOfPa (pa : Nat) : Nat := if isH pa then 4 + fld pa 12 2 else fld pa 12 2
def sliceOfPa (pa : Nat) : Nat := fld pa 14 2 * 16 + fld pa 8 4

/-- A number for the home slice: die × 64 + slice, and 512 more for each module below the owner, counted from 1. -/
def homeOf (pa : Nat) : Nat :=
  if inClass pa then dieOfPa pa * 64 + sliceOfPa pa
  else match podModule pa with
    | some m => 512 * (m + 1) + dieOfPa (pa % 2 ^ 41) * 64 + sliceOfPa (pa % 2 ^ 41)
    | none => 1048576

/-- The dies in the order of their ring positions (R16). -/
def ring : List Nat := [0, 4, 1, 5, 2, 6, 3, 7]

def ringPos (d : Nat) : Nat := (ring.idxOf? d).getD 0

/-- The dies that traffic from one die to another crosses, both ends among them: the shorter way round the ring, and towards
increasing position between opposite dies (R16). -/
def ringRoute (d e : Nat) : List Nat :=
  let p := ringPos d
  let k := (ringPos e + 8 - p) % 8
  if k ≤ 4 then (List.range (k + 1)).map fun i => ring.getD ((p + i) % 8) 0
  else (List.range (9 - k)).map fun i => ring.getD ((p + 8 - i) % 8) 0

/-- The dies whose bridges traffic from a core to a home crosses; to another module it leaves over the bridge to DX (R16). -/
def bridgeRoute (u home : Nat) : List Nat := if home < 512 then ringRoute (unitDie u) (home / 64) else [unitDie u]

/-- A core reaches a home: on its own die always; across the bridges unless its die is fenced (R269, R278) or the clock of a die
whose bridges the route crosses relocks (R10, R16, R278). -/
def State.bridgeOk (s : State) (u home : Nat) : Bool :=
  (home < 512 && home / 64 == unitDie u) ||
  (!(s.die (unitDie u)).fenced && (bridgeRoute u home).all fun d => !(s.die d).relocking)

/-- The channel or device unit of a local line (R289). -/
def channelUnit (pa : Nat) : Nat :=
  if isH pa then 0x400 + 32 * (4 * (dieOfPa pa - 4) + sliceOfPa pa % 4) + fld pa 16 5
  else 0x600 + 8 * dieOfPa pa + sliceOfPa pa % 8

/-! ## Units and flicker scores (R289, R297, R298) -/

def State.unit (s : State) (u : Nat) : LUnit := Tbl.getD s.lamp.units u {}
def State.setUnit (s : State) (u : Nat) (x : LUnit) : State :=
  { s with lamp := { s.lamp with units := Tbl.set s.lamp.units u x } }
def State.modUnit (s : State) (u : Nat) (f : LUnit → LUnit) : State := s.setUnit u (f (s.unit u))

def LUnit.leased (x : LUnit) : Bool :=
  match x.st with
  | .inService => false
  | .withdrawing => true
  | .testing => true
  | .retesting => true
  | .retired => false

def LUnit.inService (x : LUnit) : Bool := x.st == .inService

/-- A notice to the management cores. Their ring takes every one (DESIGN CHOICE, log 60). -/
def State.postMgmt (s : State) (kind unit detail : Nat) : State :=
  { s with lamp := { s.lamp with mgmtRing := s.lamp.mgmtRing ++ [⟨s.time.lo, kind, unit, detail⟩] } }

/-- Adds an event's weight to a unit's score; a rise to 1,024 brings its lease forward, and a device at 8,192 raises the
alarm of R298. -/
def State.flicker (s : State) (u weight : Nat) : State :=
  let x := s.unit u
  let sc := min (x.score + weight) 0xFFFF
  let y := { x with
    score := sc
    peak := max x.peak sc
    forward := x.forward || (x.inService && x.score < 1024 && 1024 ≤ sc)
    corr1 := if weight = 1 then x.corr1 + 1 else x.corr1
    corr16 := if weight = 16 then x.corr16 + 1 else x.corr16
    corr64 := if weight = 64 then x.corr64 + 1 else x.corr64 }
  let t := s.setUnit u y
  if 0x600 ≤ u ∧ x.score < 8192 ∧ 8192 ≤ sc then t.postMgmt 0x86 u 0 else t

/-! ## Lines at their homes (R13, R14) -/

/-- A correction of a line is posted against its channel; that of another module's line, there. -/
def State.correction (s : State) (line weight : Nat) : State := if inClass line then s.flicker (channelUnit line) weight else s

/-- A read of a line at its home slice meets its stored errors (R13, R14). -/
def State.touchLine (s : State) (line : Nat) : State :=
  match Tbl.get? s.memory.errs line with
  | none => s
  | some .oneSymbol =>
    (s.modMem fun m => { m with writeBacks := if m.writeBacks.contains line then m.writeBacks else m.writeBacks ++ [line] }).correction
      line 1
  | some .bothSymbols =>
    (s.modMem fun m => { m with writeBacks := if m.writeBacks.contains line then m.writeBacks else m.writeBacks ++ [line] }).correction
      line 16
  | some .uncorrectable =>
    s.modMem fun m => { m with poison := line :: m.poison, errs := Tbl.del m.errs line }

/-- A line whose data are poison (R11, R14). -/
def State.linePoisoned (s : State) (line : Nat) : Bool :=
  !s.admits line || s.memory.poison.contains line ||
  (match Tbl.get? s.memory.errs line with
   | some .uncorrectable => true
   | some .oneSymbol => false
   | some .bothSymbols => false
   | none => false)

def State.byteAt (s : State) (pa : Nat) : Byte := Mem.read s.memory.mem pa

def State.bytesAt (s : State) (pa n : Nat) : List Byte := Mem.bytes s.memory.mem pa n

def State.poisonedAt (s : State) (pa n : Nat) : Bool :=
  (List.range n).any fun i => (i = 0 ∨ (pa + i) % 64 = 0) && s.linePoisoned (lineOf (pa + i))

def writeCells (m : Mem) : List (Nat × Byte) → Mem
  | [] => m
  | (a, b) :: r => writeCells (Mem.write m a b) r

/-- The lines that cells touch, each once. -/
def linesOf (cells : List (Nat × Byte)) : List Nat := (cells.map fun c => lineOf c.1).eraseDups

/-- Cells cover a line whole. -/
def coversLine (cells : List (Nat × Byte)) (l : Nat) : Bool := (List.range 64).all fun i => cells.any fun c => c.1 == l + i

/-- Bytes take their places at their homes. A store of all 64 bytes clears poison; a smaller one leaves it (R14). A store to a line
drops its pending write-back (R13). -/
def State.putCells (s : State) (cells : List (Nat × Byte)) : State :=
  let ls := linesOf cells
  s.modMem fun m => { m with
    mem := writeCells m.mem cells
    poison := m.poison.filter fun l => !(ls.contains l && coversLine cells l)
    errs := ls.foldl (fun e l => Tbl.del e l) m.errs
    writeBacks := m.writeBacks.filter fun l => !ls.contains l }

/-- Applies a store's bytes at their homes: a line that it does not cover whole is read there first, and meets its stored errors
(R13). -/
def State.applyCells (s : State) (cells : List (Nat × Byte)) : State :=
  ((linesOf cells).foldl (fun t l => if coversLine cells l then t else t.touchLine l) s).putCells cells

def cellsFrom (pa : Nat) : List Byte → List (Nat × Byte)
  | [] => []
  | b :: r => (pa, b) :: cellsFrom (pa + 1) r

/-! ## The walk (R258, R259) -/

inductive Walk where
  | leaf (l : Leaf)
  | page (level : Nat) (malformed : Bool)
  deriving DecidableEq, Repr

/-- Level, lowest bit of its index, index width, size of the tables a level down, size of a leaf page here (0: none). -/
def walkLevels : List (Nat × Nat × Nat × Nat × Nat) :=
  [(4, 51, 13, 32768, 0), (3, 39, 12, 4096, 0), (2, 30, 9, 4096, 2 ^ 30), (1, 21, 9, 256, 2 ^ 21), (0, 16, 5, 1, 2 ^ 16)]

/-- The frame a leaf names lies in the class its placement names (R259). -/
def frameOk (frame placement : Nat) : Bool :=
  let loc := if inClass frame then some frame else (podModule frame).map fun _ => frame % 2 ^ 41
  match loc with
  | some a => if placement = 0 then isH a else placement = 1 && !isH a
  | none => false

def State.walkFrom (s : State) (c va : Nat) : Nat → List (Nat × Nat × Nat × Nat × Nat) → Walk
  | _, [] => .page 0 true
  | table, (lv, lo, wd, nextSize, size) :: rest =>
    let a := table + 8 * fld va lo wd
    if s.linePoisoned (lineOf a) then .page lv true
    else
      let e := leNat (s.bytesAt a 8)
      let addr := fld e 8 44 * 256
      if !bit e 0 then .page lv false
      else if fld e 52 12 ≠ 0 then .page lv true
      else if bit e 1 then
        if size = 0 ∨ addr % size ≠ 0 ∨ !frameOk addr (fld e 6 2) then .page lv true
        else .leaf ⟨c, va / size * size, size, s.norm addr, bit e 2, bit e 3, bit e 4, bit e 5⟩
      else if lv = 0 ∨ fld e 2 6 ≠ 0 ∨ addr % nextSize ≠ 0 ∨ addr / 2 ^ 48 = 8 then .page lv true
      else s.walkFrom c va addr rest

def State.walk (s : State) (c va : Nat) : Walk := s.walkFrom c va (s.ctx c).root walkLevels

/-- The table entries that a walk reads, by address. -/
def State.pathFrom (s : State) (va : Nat) : Nat → List (Nat × Nat × Nat × Nat × Nat) → List Nat
  | _, [] => []
  | table, (_, lo, wd, _, _) :: rest =>
    let a := table + 8 * fld va lo wd
    let e := leNat (s.bytesAt a 8)
    if s.linePoisoned (lineOf a) || !bit e 0 || bit e 1 then [a] else a :: s.pathFrom va (fld e 8 44 * 256) rest

def State.walkPath (s : State) (c va : Nat) : List Nat := s.pathFrom va (s.ctx c).root walkLevels

/-- A walk's reads meet the stored errors of the lines they read (R13). -/
def State.walkTouch (s : State) (c va : Nat) : State :=
  if s.memory.errs.isEmpty then s else (s.walkPath c va).foldl (fun t a => t.touchLine (lineOf a)) s

def Leaf.covers (l : Leaf) (c va : Nat) : Bool := l.ctx == c && l.va ≤ va && va < l.va + l.size

/-- A translation on die `d`: a cached leaf, or else a walk (R261). -/
def State.lookup (s : State) (d c va : Nat) : Walk :=
  match (s.die d).tlb.find? fun l => l.covers c va with
  | some l => .leaf l
  | none => s.walk c va

/-- The die keeps the leaf that a walk has read (R13, R261, log 7). -/
def State.cacheLeaf (s : State) (d : Nat) (l : Leaf) : State :=
  if (s.die d).tlb.contains l then s else (s.walkTouch l.ctx l.va).modDie d fun x => { x with tlb := x.tlb ++ [l] }

/-- A die's walk reaches every table it reads (R269, R278). -/
def State.walkOk (s : State) (d c va : Nat) : Bool :=
  ((s.die d).tlb.any fun l => l.covers c va) || (s.walkPath c va).all fun a => s.bridgeOk (64 * d) (homeOf a)

/-- The kinds of access of R260. -/
inductive Acc where
  | read | write | readWrite | fetch
  deriving DecidableEq, Repr

def Leaf.permits (l : Leaf) (a : Acc) : Bool :=
  match a with
  | .read => l.r
  | .write => l.w
  | .readWrite => l.r && l.w
  | .fetch => l.x

/-- The fault-queue kind of an access (R264). -/
def Acc.kind (a : Acc) : Nat :=
  match a with
  | .read => 1
  | .write => 2
  | .readWrite => 2
  | .fetch => 3

inductive Xlate where
  | ok (pa : Nat) (l : Leaf)
  | page (va level : Nat) (malformed : Bool)
  | prot (va : Nat)
  | refused                            -- the bridges refuse the walk, or stall it: the access waits (R269, R278)
  deriving DecidableEq, Repr

def State.xlate (s : State) (d c va : Nat) (a : Acc) : Xlate :=
  if !s.walkOk d c va then .refused else
  match s.lookup d c va with
  | .page lv m => .page va lv m
  | .leaf l => if l.permits a then .ok (l.pa + (va - l.va)) l else .prot va

/-- Walks for accesses that go no further, of a die, to these addresses: their reads met the stored errors of the table lines (R13). A
page that is not mapped is left to the wait that it causes. -/
def State.walkOnly (s : State) (d c : Nat) (a : Acc) (vas : List Nat) : State :=
  if s.memory.errs.isEmpty then s
  else ((vas.map fun v => v / 65536 * 65536).eraseDups).foldl (fun t v =>
    if (t.die d).tlb.any fun l => l.covers c v then t
    else match t.xlate d c v a with
      | .ok _ _ => t.walkTouch c v
      | .prot _ => t.walkTouch c v
      | .page _ _ _ => t
      | .refused => t) s

/-- The leaf through which a die translates an address, where there is one. -/
def State.leafAt (s : State) (d c va : Nat) : List Leaf :=
  match s.lookup d c va with
  | .leaf l => [l]
  | .page _ _ => []

/-- The physical address of each byte of [va, va + n) through one walk per page; none if any fails. -/
def State.walkBytes (s : State) (c va n : Nat) (a : Acc) : Option (List Nat) :=
  (List.range n).foldr (fun i acc =>
    match acc, s.walk c (va + i) with
    | some r, .leaf l => if l.permits a then some ((l.pa + (va + i - l.va)) :: r) else none
    | some _, .page _ _ => none
    | none, _ => none) (some [])

/-- Bytes the dispatcher or DX reads through a context's translation; none on a missing mapping, permission or on poison. -/
def State.dxRead (s : State) (c va n : Nat) : Option (List Byte) :=
  match s.walkBytes c va n .read with
  | some pas => if pas.any fun p => s.linePoisoned (lineOf p) then none else some (pas.map s.byteAt)
  | none => none

/-- Such a read meets the stored errors of the lines it reads (R13). -/
def State.dxTouch (s : State) (c va n : Nat) : State :=
  if s.memory.errs.isEmpty then s
  else
    match s.walkBytes c va n .read with
    | some pas => ((pas.map lineOf).eraseDups).foldl State.touchLine (s.walkTouch c va)
    | none => s.walkTouch c va

/-! ## Notices (R60, R302) -/

def noticeBytes (n : Notice) : List Byte :=
  natLE 8 n.lo ++ natLE 1 n.kind ++ natLE 1 0 ++ natLE 2 n.unit ++ natLE 4 n.detail

/-- A snapshot has frozen a byte's frame: its home has accepted, and lo has reached T (R270). -/
def Snapshot.freezes (n : Snapshot) (lo pa : Nat) : Bool :=
  n.frames.any fun f => f.1 ≤ pa && pa < f.1 + f.2 &&
    (n.frozen.contains f.1 || (n.t ≤ lo && !n.refused && !n.asked.any fun a => a.1 == f.1))

def FarSnap.holds (n : FarSnap) (pa : Nat) : Bool := n.base ≤ pa && pa < n.base + n.size

/-- The cut times of the snapshots, of this module's contexts and of others', that have frozen a byte's frame (R270). -/
def State.frozenCuts (s : State) (pa : Nat) : List Nat :=
  (s.ctxs.flatMap fun c => c.2.snaps.filterMap fun sn => if sn.2.freezes s.time.lo pa then some sn.2.t else none) ++
  s.memory.farSnaps.filterMap fun n => if n.holds pa && n.t ≤ s.time.lo then some n.t else none

/-- The byte lies in a frame that a snapshot has frozen (R270). -/
def State.frozenAt (s : State) (pa : Nat) : Bool := !(s.frozenCuts pa).isEmpty

/-- Posts a notice to a context: the entry is written at the write index through its translation, performed at module
scope; it is lost where the ring is full or the write meets PAGE or PROT (R60, R302), a frozen frame (R270; DESIGN CHOICE,
log 50), or a frame that no memory or up link reaches (R12; DESIGN CHOICE, log 62). -/
def State.postNotice (s : State) (c kind unit detail : Nat) : State :=
  let x := s.ctx c
  let lose (t : State) : State := t.setCtx c { x with lost := min (x.lost + 1) (2 ^ 32 - 1) }
  if 256 ≤ x.unread then lose s
  else
    match s.walkBytes c (x.notices + 16 * x.wr) 16 .write with
    | none => lose (s.walkTouch c (x.notices + 16 * x.wr))
    | some pas =>
      let cells := pas.zip (noticeBytes ⟨s.time.lo, kind, unit, detail % 2 ^ 32⟩)
      if pas.any fun p => s.frozenAt p || !s.admits p then lose (s.walkTouch c (x.notices + 16 * x.wr))
      else ((s.walkTouch c (x.notices + 16 * x.wr)).applyCells cells).modCtx c fun y => { y with wr := (y.wr + 1) % 256, unread := y.unread + 1 }

/-! ## The fault queue (R263, R264, R272) -/

/-- Queues or merges a fault; the waiting access joins the entry. No slot: every entry is in use. -/
def State.fqRaise (s : State) (c va kind level : Nat) (malformed : Bool) (kernel unit : Nat) (wt : Waiter) :
    State × Option Nat :=
  let x := s.ctx c
  let page := va / 65536 * 65536
  match x.fq.find? fun e => e.2.page == page && e.2.kind == kind with
  | some (k, e) =>
    (s.setCtx c { x with fq := Tbl.set x.fq k { e with count := min (e.count + 1) (2 ^ 32 - 1), waiters := e.waiters ++ [wt] } }, some k)
  | none =>
    match (List.range 256).find? fun k => !Tbl.has x.fq k with
    | none => (s, none)
    | some k =>
      (s.setCtx c { x with
        fq := Tbl.set x.fq k ⟨false, page, kind, level, malformed, kernel, unit, 1, x.fqOrder, [wt]⟩
        fqOrder := x.fqOrder + 1 }, some k)

/-- Takes an access out of every entry (R263). -/
def State.fqDrop (s : State) (p : Waiter → Bool) : State :=
  { s with ctxs := Tbl.mapVals s.ctxs fun x =>
      { x with fq := Tbl.mapVals x.fq fun e => { e with waiters := e.waiters.filter fun w => !p w } } }

/-! ## Scratchpad addresses (R156) -/

/-- The group numbered `j` of a group's gang; one that has exited keeps its allocation (R156). -/
def State.gangMate (s : State) (g j : Nat) : Option Nat :=
  let x := s.group g
  (s.groups.find? fun e => e.2.kernel == x.kernel && e.2.gang == x.gang && e.2.inGang == j).map Prod.fst

/-- The byte that a scratchpad-space address of a group names; none where R156 gives PROT. -/
def State.scratchByte (s : State) (g a : Nat) : Option Place :=
  if a < 0x40000 then
    if a < (s.group g).scratchSize then some (.scratch g a) else none
  else if 0x100000 ≤ a ∧ a < 0x200000 then
    match s.gangMate g ((a - 0x100000) / 0x40000) with
    | some h => if (a - 0x100000) % 0x40000 < (s.group h).scratchSize then some (.scratch h ((a - 0x100000) % 0x40000)) else none
    | none => none
  else none

def State.scratchRead (s : State) (g o : Nat) : Byte := Mem.read (s.group g).scratch o

def State.scratchPoisoned (s : State) (g o : Nat) : Bool := (s.group g).scratchPoison.contains (o / 4)

/-- Writes bytes of an allocation; a write of all four bytes of a word clears its poison (R160). -/
def State.scratchWrite (s : State) (g : Nat) (cells : List (Nat × Byte)) : State :=
  s.modGroup g fun x => { x with
    scratch := writeCells x.scratch cells
    scratchPoison := x.scratchPoison.filter fun w =>
      !((List.range 4).all fun i => cells.any fun c => c.1 == 4 * w + i) }

/-! ## Range locks (R167, R168) -/

/-- Entries in use on a core: those of the groups that stand there, or stood there to their end. -/
def State.lockCount (s : State) (u : Nat) : Nat :=
  s.groups.foldl (fun n e => if !e.2.isSaved && e.2.unit == u then n + e.2.locks.length else n) 0

/-- The locks that an access of group `g` is checked against, in the space `sp`. -/
def State.locksFor (s : State) (g : Nat) (sp : Option Nat) : List Lock :=
  let own := (s.group g).locks.filter fun l => l.scratchOf == sp
  match sp with
  | none => own
  | some h => if h = g then own else own ++ (s.group h).locks.filter fun l => l.scratchOf == sp

/-- An access to [lo, hi) conflicts with a lock (R168). -/
def State.conflicts (s : State) (g : Nat) (sp : Option Nat) (lo hi : Nat) (isStore : Bool) : Bool :=
  (s.locksFor g sp).any fun l => (l.isWrite || isStore) && l.lo < hi && lo < l.hi

/-- The lowest conflicting address of [lo, hi). -/
def State.conflictAt (s : State) (g : Nat) (sp : Option Nat) (lo hi : Nat) (isStore : Bool) : Nat :=
  ((s.locksFor g sp).filter fun l => (l.isWrite || isStore) && l.lo < hi && lo < l.hi).foldl
    (fun a l => min a (max lo l.lo)) hi

def State.addLocks (s : State) (g : Nat) (ls : List Lock) : State := s.modGroup g fun x => { x with locks := x.locks ++ ls }

def State.dropLocks (s : State) (g op : Nat) : State :=
  s.modGroup g fun x => { x with locks := x.locks.filter fun l => l.op != op }

end Sys2Proof.Machine
end

