-- ==== Sys2Proof/Machine/Depend.lean ====
section
/-! DEFINITION. What a scope has performed (R185), the waves that may read nothing older than a write (R187, R190), and the
dependences that make a queue ready (R69, R73, R77, R82). -/

namespace Sys2Proof.Machine

/-! ## Scopes (R185) -/

/-- The home lies on another module. -/
def remoteHome (h : Nat) : Bool := 512 ≤ h && h < 1048576

def Stage.rank (x : Stage) : Nat :=
  match x with
  | .store => 0
  | .group => 1
  | .gang => 2
  | .die => 3
  | .module => 4
  | .flow => 5

def GWrite.isContrib (x : GWrite) : Bool :=
  match x.payld with
  | .contrib _ => true
  | .bytes _ => false
  | .atomic _ _ _ => false
  | .msg _ => false

def GWrite.isMsg (x : GWrite) : Bool :=
  match x.payld with
  | .msg _ => true
  | .bytes _ => false
  | .atomic _ _ _ => false
  | .contrib _ => false

/-- A contribution on its flow is performed at every scope, and not before it at module scope (R286). -/
def GWrite.sentContrib (x : GWrite) : Bool := x.isContrib && x.stage.rank == 5

/-- A write is performed at a scope (0 wave, 1 group, 2 gang, 3 die, 4 module, 5 pod) when it stands at that scope's place,
or later on its path (R185). -/
def GWrite.performedAt (x : GWrite) (scope : Nat) : Bool :=
  if x.scratchOf.isSome then false
  else if x.sentContrib then true
  else if scope ≤ 3 then scope ≤ x.stage.rank
  else if x.isContrib then false
  else if scope = 4 then remoteHome x.home && 4 ≤ x.stage.rank
  else false

/-- Every one of these writes is performed at the scope; one that is no longer under way is. -/
def State.allPerformed (s : State) (ids : List Nat) (scope : Nat) : Bool :=
  s.memory.writes.all fun x => !ids.contains x.id || x.performedAt scope

/-! ## Coherence across waves (R187, R189, R190) -/

/-- The wave of a write and wave `w` of group `g` lie in one instance of a scope. -/
def State.together (s : State) (g : Nat) (x : GWrite) (scope : Nat) : Bool :=
  match scope with
  | 0 => false
  | 1 => x.group == g
  | 2 => (s.group x.group).kernel == (s.group g).kernel && (s.group x.group).gang == (s.group g).gang
  | 3 => unitDie x.unit == unitDie (s.group g).unit
  | _ => true

/-- A wave reads nothing older than the write from now on. -/
def GWrite.noteSeen (x : GWrite) (g w : Nat) : GWrite :=
  if x.seen.contains (g, w) then x else { x with seen := (g, w) :: x.seen }

/-- The write is one that a release, at a scope whose instance holds both waves, may have performed, and that an acquire of this
scope then makes visible (R190; DEDUCED, log 61). -/
def State.acquired (s : State) (g scope : Nat) (x : GWrite) : Bool :=
  x.scratchOf.isNone && !x.engine && s.together g x (min x.stage.rank scope)

def State.dropView (s : State) (u : Nat) : State := s.modCore u fun c => { c with view := [] }

/-- The wave reads nothing older from now on than the writes that meet a condition. -/
def State.note (s : State) (g w : Nat) (p : GWrite → Bool) : State :=
  s.modMem fun m => { m with writes := m.writes.map fun x => if p x then x.noteSeen g w else x }

/-- An acquire of a wave: the writes it makes visible stay so, and at gang scope or wider the core's copies are dropped (R189, R190). -/
def State.acquire (s : State) (g w scope : Nat) : State :=
  let t := s.note g w (s.acquired g scope)
  if 2 ≤ scope then t.dropView (s.group g).unit else t

/-! ## Dependences (R73, R77, R82) -/

def KSt.isFinal (k : KSt) : Bool := k == .complete || k == .failed

/-- Kernels of which groups may still be placed. -/
def Kernel.unplaced (k : Kernel) : Bool := !k.noGroups && (k.st == .armed || k.st == .queued || k.st == .running) &&
  k.nextGang * k.pkt.gang < k.pkt.ngx * k.pkt.ngy

/-- The producer groups that a consumer group needs: linear numbers (R77). -/
def Packet.box (p : Packet) (px py gx gy : Nat) : List Nat :=
  let bx := p.a00 * gx + p.a01 * gy + p.cx
  let bY := p.a10 * gx + p.a11 * gy + p.cy
  (List.range p.ey).flatMap fun (j : Nat) => (List.range p.ex).filterMap fun (i : Nat) =>
    let x := bx + (i : Int)
    let y := bY + (j : Int)
    if 0 ≤ x ∧ x < px ∧ 0 ≤ y ∧ y < py then some ((y * px + x).toNat) else none

def State.isComplete (s : State) (k : Nat) : Bool := !Tbl.has s.disp.kernels k || (s.kernel k).st == .complete

/-- What a kernel depends on as a whole has completed. -/
def State.wholeMet (s : State) (K : Kernel) : Bool :=
  match K.pred with
  | some p => s.isComplete p
  | none => true

/-- A group's producer groups are done. -/
def State.boxMet (s : State) (K : Kernel) (lin : Nat) : Bool :=
  !K.pkt.hasProducer || K.prodDone || s.isComplete K.pkt.producer ||
  (let P := s.kernel K.pkt.producer
   K.pkt.ex * K.pkt.ey ≤ 64 && P.tracked &&
     (K.pkt.box P.pkt.ngx P.pkt.ngy (lin % K.pkt.ngx) (lin / K.pkt.ngx)).all fun b => P.bits.contains b)

/-- The write precedes a release that a group of the kernel acquires when it is placed: the completion of its predecessor or producer, a
bitmap bit of its box, or the LAUNCH that started it; or one of those waves has seen it (R73, R78, R82, R189, R190; log 61). -/
def State.startSees (s : State) (K : Kernel) (lin : Nat) (x : GWrite) : Bool :=
  let P := s.kernel K.pkt.producer
  let released (g : Nat) : Bool :=
    let G := s.group g
    K.pred == some G.kernel ||
    (K.pkt.hasProducer && G.kernel == K.pkt.producer &&
      (s.isComplete K.pkt.producer || (K.pkt.box P.pkt.ngx P.pkt.ngy (lin % K.pkt.ngx) (lin / K.pkt.ngx)).contains G.lin))
  x.scratchOf.isNone && !x.isMsg &&
    (K.waitWrites.contains x.id || (!x.engine && released x.group) || x.seen.any fun e => released e.1)

/-- The stores, drains and MXSTs that a launched kernel's start waits for are performed at module scope (R82). -/
def State.startMet (s : State) (K : Kernel) : Bool :=
  s.allPerformed K.waitWrites 4 &&
  s.cores.all fun c => (c.2.mxq.all fun o => !K.waitWrites.contains o.id) && c.2.drains.all fun o => !K.waitWrites.contains o.id

/-- The linear numbers of a gang. -/
def Kernel.gangOf (K : Kernel) (j : Nat) : List Nat :=
  (List.range (min K.pkt.gang (K.pkt.ngx * K.pkt.ngy - j * K.pkt.gang))).map fun i => j * K.pkt.gang + i

def Kernel.gangs (K : Kernel) : Nat := ceilDiv (K.pkt.ngx * K.pkt.ngy) K.pkt.gang

/-- The lowest-numbered unplaced gang whose dependences are met; `n` gangs from `j` are looked at. -/
def State.readyGang (s : State) (K : Kernel) (j : Nat) : Nat → Option Nat
  | 0 => none
  | n + 1 =>
    if !K.beyond.contains j && (K.gangOf j).all (s.boxMet K) then some j else s.readyGang K (j + 1) n

def State.nextGangOf (s : State) (k : Nat) : Option Nat :=
  let K := s.kernel k
  if K.noGroups || !s.wholeMet K || !s.startMet K then none else s.readyGang K K.nextGang (K.gangs - K.nextGang)

/-! ## Ready queues (R69, R75) -/

def Context.isLive (x : Context) : Bool := x.st == .live

/-- The head of a queue of a live context. -/
def State.headOf (s : State) (q : Nat) : Option Nat :=
  match (s.queue q).ctx with
  | some c => if (s.ctx c).isLive then (s.queue q).cmds.head? else none
  | none => none

/-- A queue is ready: a gang of its head has its dependences met (R69). -/
def State.queueReady (s : State) (q : Nat) : Bool :=
  match s.headOf q with
  | some k => (s.nextGangOf k).isSome
  | none => false

/-- A queue that has stopped being ready counts no decisions (R75). -/
def State.settlePass (s : State) (q : Nat) : State :=
  if s.queueReady q then s else s.modQueue q fun x => { x with pass := 0 }

end Sys2Proof.Machine
end

