-- ==== Sys2Proof/Machine/Ends.lean ====
section
/-! DEFINITION. Faults and ends: raising a fault, trap entry (R118, R119), the idempotent restart (R124, R126), the end of a
wave and of a group (R84, R111), the barrier check (R173), kernels that fail (R83), handles that resolve (R169). -/

namespace Sys2Proof.Machine

/-! Fault codes (R4). -/
def cIllegal : Nat := 0x01
def cBadTarget : Nat := 0x02
def cAlign : Nat := 0x03
def cPage : Nat := 0x04
def cProt : Nat := 0x05
def cRange : Nat := 0x06
def cPoison : Nat := 0x07
def cMxint : Nat := 0x08
def cPenumbra : Nat := 0x09
def cDark : Nat := 0x0A
def cFuture : Nat := 0x0B
def cStall : Nat := 0x0C
def cToken : Nat := 0x0D
def cNondet : Nat := 0x0E
def cDouble : Nat := 0x0F
def cTimeout : Nat := 0x10
def cExhausted : Nat := 0x11
def cTrap : Nat := 0x12

/-! ## Handles (R169, R170) -/

/-- status(h) (R170). -/
def Handle.status (h : Handle) : DWord :=
  match h with
  | .empty => 0
  | .pending _ => 1
  | .done _ => 2
  | .failed c _ => BitVec.ofNat 64 (3 + 256 * c)
  | .cancelled _ => 4

def Handle.isPending (h : Handle) : Bool :=
  match h with
  | .empty => false
  | .pending _ => true
  | .done _ => false
  | .failed _ _ => false
  | .cancelled _ => false

/-- The lines an operation wrote, for the acquire of R170. -/
def Handle.lines (h : Handle) : List Nat :=
  match h with
  | .empty => []
  | .pending _ => []
  | .done l => l
  | .failed _ l => l
  | .cancelled l => l

def Wave.handle (x : Wave) (h : Nat) : Handle := x.h.toList.getD h .empty

/-- Drops copies of lines in a core's view, with the 128-byte blocks that hold them (R186, R189, R191). -/
def State.dropLines (s : State) (u : Nat) (ls : List Nat) : State :=
  s.modCore u fun c => { c with view := c.view.filter fun e => !ls.any fun l => l / 128 == e.1 / 128 }

/-- Ends the FWAITs of a wave whose handle is no longer pending: the status is written, to be read from cycle `c` on, and acquired
(R170). -/
def Wave.endFwaits (c : Nat) (x : Wave) : Wave :=
  x.splits.foldl (fun (y : Wave) e =>
    match e.2.block with
    | .fwait d h =>
      if (y.handle h).isPending then y
      else { y.statusS d (y.handle h).status c with splits := Tbl.set y.splits e.1 { e.2 with block := .none } }
    | .none => y | .dusk _ => y | .bar _ _ => y | .barArrive _ _ => y | .dbar => y | .mbx => y
    | .ctxEnd _ _ => y | .fqDone _ _ _ _ => y | .tlbinv _ _ => y | .tlbSend _ _ _ _ _ => y | .snap _ _ => y
    | .page _ _ => y | .pageFull => y) x

def Handle.settle (op : Nat) (r h : Handle) : Handle := if h = .pending op then r else h

/-- The cycle in which the splits that an event frees may issue, on the core of a group: the present one where none of its decisions has
been taken, the next one otherwise. -/
def State.freeCycle (s : State) (g : Nat) : Nat :=
  let C := s.core (s.group g).unit
  if !(s.group g).isPlaced then 0 else if C.pos = 0 then C.cyc else C.cyc + 1

/-- The operation resolves: every handle of the group that is pending on it, in a register or in a slot (R150, R169). -/
def State.resolve (s : State) (g op : Nat) (r : Handle) : State :=
  let t := s.modGroup g fun x => { x with
    waves := Tbl.mapVals x.waves fun w => ({ w with h := w.h.map (Handle.settle op r) }).endFwaits (s.freeCycle g)
    rdv := Tbl.mapVals x.rdv fun k =>
      match k.full with
      | some (.handle h) => { k with full := some (.handle (Handle.settle op r h)) }
      | some (.vec _) => k
      | none => k }
  t.dropLines (t.group g).unit r.lines

/-! ## Barriers (R172, R173) -/

def Group.bar (x : Group) (b : Nat) : Barrier := Tbl.getD x.bars b {}

/-- Splits that wait on barrier `b` for a phase other than the present one go on (R173). -/
def Wave.unblockBar (b : Nat) (phase : Word) (x : Wave) : Wave :=
  { x with splits := Tbl.mapVals x.splits fun p =>
      match p.block with
      | .bar k q => if k = b ∧ q ≠ phase.toNat then { p with block := .none } else p
      | .none => p | .fwait _ _ => p | .dusk _ => p | .barArrive _ _ => p | .dbar => p | .mbx => p
      | .ctxEnd _ _ => p | .fqDone _ _ _ _ => p | .tlbinv _ _ => p | .tlbSend _ _ _ _ _ => p | .snap _ _ => p
      | .page _ _ => p | .pageFull => p }

/-- check(b) of R173: the group, and (completed, over). -/
def Group.checkBar (x : Group) (b : Nat) : Group × Bool × Bool :=
  let y := x.bar b
  if y.e = 0 ∨ y.a < y.e then (x, false, false)
  else
    let p := y.phase + 1
    ({ x with
        bars := Tbl.set x.bars b { y with a := 0, phase := p }
        waves := Tbl.mapVals x.waves (Wave.unblockBar b p) }, true, y.e < y.a)

/-- Takes lanes of a wave out of a barrier and runs the check (BAR.LEAVE, R111, R175). -/
def Group.leaveBar (x : Group) (b w : Nat) (k : Word) : Group :=
  let y := x.bar b
  let m := Tbl.getD y.member w 0
  let out := k &&& m
  let z := { y with member := Tbl.set y.member w (m &&& ~~~out), e := y.e - popcount out }
  (Group.checkBar { x with bars := Tbl.set x.bars b z } b).1

/-- A wave's lanes leave every barrier. -/
def Group.leaveAll (x : Group) (w : Nat) (k : Word) : Group :=
  (List.range 16).foldl (fun (y : Group) b =>
    if Tbl.getD (y.bar b).member w 0 &&& k = 0 then y else y.leaveBar b w k) x

/-- The splits of a wave that wait at barriers. -/
def Wave.atBars (x : Wave) : List Nat :=
  (x.splits.filter fun p => match p.2.block with
    | .bar _ _ => true
    | .none => false | .fwait _ _ => false | .dusk _ => false | .barArrive _ _ => false | .dbar => false | .mbx => false
    | .ctxEnd _ _ => false | .fqDone _ _ _ _ => false | .tlbinv _ _ => false | .tlbSend _ _ _ _ _ => false | .snap _ _ => false
    | .page _ _ => false | .pageFull => false).map Prod.fst

/-- A step at the barriers of a group: the waves whose waits it ends acquire at group scope (R174, R189). -/
def State.modBars (s : State) (g : Nat) (f : Group → Group) : State :=
  let x := s.group g
  ((Tbl.keys x.waves).eraseDups.filter fun w => (x.wave w).atBars.any fun k => !((f x).wave w).atBars.contains k).foldl
    (fun t w => t.acquire g w 1) (s.modGroup g f)

/-! ## Die slices (R178) -/

def sliceKey (k d : Nat) : Nat := k * 16 + d

def State.slice (s : State) (k d : Nat) : DieSlice := Tbl.getD s.disp.slices (sliceKey k d) {}

def State.setSlice (s : State) (k d : Nat) (x : DieSlice) : State :=
  { s with disp := { s.disp with slices := Tbl.set s.disp.slices (sliceKey k d) x } }

/-- A group's waves go on after DBAR, and acquire at die scope (R178, R189). -/
def State.unblockDbar (s : State) (g : Nat) : State :=
  ((s.group g).waves.filter fun w => w.2.splits.any fun p => p.2.block == .dbar).foldl (fun t w => t.acquire g w.1 3)
    ((s.modGroup g fun x => { x with
      dbarArrived := false
      waves := Tbl.mapVals x.waves fun w => { w with
        splits := Tbl.mapVals w.splits fun p => if p.block = .dbar then { p with block := .none } else p } }).dropView (s.group g).unit)

/-- The check of R178. -/
def State.checkSlice (s : State) (k d : Nat) : State :=
  let x := s.slice k d
  if x.groups ≠ [] ∧ x.groups.length ≤ x.arrived.length then
    x.arrived.foldl (fun t g => t.unblockDbar g) (s.setSlice k d { x with phase := x.phase + 1, arrived := [] })
  else s

/-- A group leaves the slice of its die, out of both counts. -/
def State.leaveSlice (s : State) (g : Nat) : State :=
  let x := s.group g
  let d := unitDie x.unit
  let y := s.slice x.kernel d
  (s.setSlice x.kernel d { y with
    groups := y.groups.filter fun h => h != g
    arrived := y.arrived.filter fun h => h != g }).checkSlice x.kernel d

/-! ## The journal (R80) -/

/-- The entry of a command advances to a state, with a fault code; complete, failed and refused are final. -/
def State.jset (s : State) (seq st code : Nat) : State :=
  match Tbl.get? s.host.ring ((seq - 1) % 32768) with
  | some e =>
    if e.seq = seq ∧ seq ≠ 0 ∧ e.st < 2 then
      { s with host := { s.host with ring := Tbl.set s.host.ring ((seq - 1) % 32768) { e with st := st, code := code } } }
    else s
  | none => s

/-- A suspend completes when no group of the context stands on a core (R67). -/
def State.settleSuspend (s : State) (c : Nat) : State :=
  match (s.ctx c).jsusp with
  | [] => s
  | js =>
    if s.groups.any fun e => e.2.isPlaced && (s.kernel e.2.kernel).ctx == c then s
    else js.foldl (fun t j => t.jset j 2 0) (s.modCtx c fun x => { x with jsusp := [] })

/-! ## Installs (R94) -/

/-- Groups of a kernel. -/
def State.groupsOf (s : State) (k : Nat) : List (Nat × Group) := s.groups.filter fun e => e.2.kernel == k

/-- An install is complete when no wave runs the old image and no group of its kernels is unplaced or saved (R94). -/
def State.installDone (s : State) (x : Install) : Bool :=
  s.disp.kernels.all fun e => e.2.install != some x.id || (!e.2.unplaced &&
    (s.groupsOf e.1).all fun g => g.2.isEnded || (!g.2.isSaved &&
      g.2.waves.all fun w => w.2.ended || w.2.adopted == some x.id))

/-- Installs that have become complete: the image is the kernels' own from now on, and their packets name it, so that a later install
which names it applies to them (DEDUCED, log 76). -/
def State.settleInstalls (s : State) : State :=
  (s.disp.installs.filter fun x => !x.complete && s.installDone x).foldl (fun (t : State) x =>
    let u : State := { t with
      disp := { t.disp with
        installs := t.disp.installs.map fun y => if y.id = x.id then { y with complete := true } else y
        kernels := Tbl.mapVals t.disp.kernels fun k =>
          if k.install = some x.id then
            { k with img := k.newImg.getD k.img, newImg := none, install := none, pkt := { k.pkt with code := x.img.base + x.img.desc } }
          else k }
      groups := Tbl.mapVals t.groups fun g => { g with
        waves := Tbl.mapVals g.waves fun w => if w.adopted = some x.id then { w with adopted := none } else w } }
    u.jset x.jseq 2 0) s

/-! ## Kernels that fail (R83, R84) -/

/-- The states in which a cause makes a kernel failing; an armed one whose predecessor or producer fails among them (R79, R83; DEDUCED,
log 77). -/
def KSt.canFail (k : KSt) : Bool :=
  match k with
  | .armed => true
  | .queued => true
  | .running => true
  | .retiring => true
  | .complete => false
  | .failing => false
  | .failed => false

/-- The MBX.WAITs of a kernel's groups are withdrawn: their splits go on, and no register is written (R181). -/
def State.withdrawMail (s : State) (k : Nat) : State :=
  { s with groups := Tbl.mapVals s.groups fun x =>
      if x.kernel = k ∧ x.mbxWaits ≠ [] then
        { x with
          mbxWaits := []
          waves := Tbl.mapVals x.waves fun w => { w with
            splits := Tbl.mapVals w.splits fun p => if p.block = .mbx then { p with block := .none } else p } }
      else x }

/-- A kernel becomes failing with this code, if it was not already failing or final; its mailboxes end (R83, R179). It leaves its queue,
which may stop being ready (R75); with no gang of it left to place, an install may be complete (R94). -/
def State.failKernel (s : State) (k code : Nat) : State :=
  if (s.kernel k).st.canFail then
    ((((s.withdrawMail k).modKernel k fun x => { x with st := .failing, code := code, noGroups := true, mbx := [] }).modQueue
      (s.kernel k).queue fun q => { q with cmds := q.cmds.filter fun j => j != k }).settlePass (s.kernel k).queue).settleInstalls
  else s

/-! ## Dropped writes (R332) -/

/-- Posts the notice of a write dropped at a line. -/
def State.droppedNotice (s : State) (ctx unit line : Nat) : State :=
  s.postNotice ctx (if (podModule line).isSome then cTimeout else cProt) unit (fld line 42 6 * 2 ^ 26 + fld line 6 26)

/-- The lower of two dropped lines. -/
def lowest (o : Option Nat) (line : Nat) : Option Nat :=
  some (match o with
    | some x => min x line
    | none => line)

/-- The notice of an operation of a group, issued on core `u`, that has dropped writes: one, for the lowest line. -/
def State.postDropped (s : State) (g u : Nat) (d : Option Nat) : State :=
  match d with
  | some l => s.droppedNotice (s.ctxOf g) u l
  | none => s

/-- An engine's operation is under way. -/
def State.engineLive (s : State) (g op : Nat) : Bool :=
  ((s.group g).copies.any fun c => c.id == op) || ((s.group g).tapOps.any fun o => o.id == op) ||
  s.cores.any fun c => (c.2.mxq.any fun o => o.id == op) || c.2.drains.any fun o => o.id == op

/-- An engine operation drops a write to a line. -/
def State.noteDropped (s : State) (g op line : Nat) : State :=
  let t := s.modGroup g fun x => { x with
    copies := x.copies.map fun c => if c.id = op then { c with dropped := lowest c.dropped line } else c
    tapOps := x.tapOps.map fun o => if o.id = op then { o with dropped := lowest o.dropped line } else o }
  { t with cores := Tbl.mapVals t.cores fun c => { c with
      mxq := c.mxq.map fun o => if o.id = op then { o with dropped := lowest o.dropped line } else o
      drains := c.drains.map fun o => if o.id = op then { o with dropped := lowest o.dropped line } else o } }

/-- A write that is over has dropped lines: the other writes of its operation know the lowest one; with the last of them the notice is
posted, for the core that issued the operation (R332). -/
def State.tellDropped (s : State) (x : GWrite) : State :=
  match x.dropped with
  | none => s
  | some l =>
    if s.memory.writes.any fun y => y.op == x.op && y.id != x.id then
      s.modMem fun m => { m with writes := m.writes.map fun y => if y.op = x.op ∧ y.id ≠ x.id then { y with dropped := lowest y.dropped l } else y }
    else s.droppedNotice x.ctx (x.issuer.getD x.unit) l

/-- An operation of a group is cancelled: its notice is posted, or left to its writes that are still under way (R84, R332). -/
def State.postCancelled (s : State) (g op u : Nat) (d : Option Nat) : State :=
  match d with
  | none => s
  | some l =>
    if s.memory.writes.any fun x => x.engine && x.group == g && x.op == op then
      s.modMem fun m => { m with writes := m.writes.map fun x =>
        if x.engine ∧ x.group = g ∧ x.op = op then { x with dropped := lowest x.dropped l } else x }
    else s.postDropped g u d

/-- The notices of the operations of a group that are cancelled. -/
def State.postDrops (s : State) (g : Nat) : State :=
  let x := s.group g
  let c := s.core x.unit
  let ds := (x.copies.map fun o => (o.id, o.unit, o.dropped)) ++ (x.tapOps.map fun o => (o.id, o.unit, o.dropped)) ++
    ((c.mxq.filter fun o => o.group == g).map fun o => (o.id, x.unit, o.dropped)) ++
    ((c.drains.filter fun o => o.group == g).map fun o => (o.id, x.unit, o.dropped))
  ds.foldl (fun t d => t.postCancelled g d.1 d.2.1 d.2.2) s

/-! ## The end of a group (R84) -/

def Waiter.ofGroup (g : Nat) (w : Waiter) : Bool :=
  match w with
  | .split h _ _ => h == g
  | .copy h _ => h == g
  | .write _ => false
  | .version _ _ _ => false

/-- A group stops unsaved: loads are discarded, engines cancelled and their locks released, its transaction aborted, its
memberships withdrawn; its issued writes are still performed (R84). -/
def State.stopGroup (s : State) (g : Nat) : State :=
  let x := s.group g
  let t := (s.postDrops g).modGroup g fun y => y.waves.foldl (fun z w => z.leaveAll w.1 0xFFFFFFFF) y
  let t := (t.fqDrop (Waiter.ofGroup g)).leaveSlice g
  let t := { t with txs := t.txs.filter fun y => y.group != g }
  let t := t.modCore x.unit fun c => { c with
    mxq := c.mxq.filter fun o => o.group != g
    drains := c.drains.filter fun o => o.group != g
    portWait := c.portWait.filter fun o => o.1 != g
    portWork := c.portWork.filter fun h => h != g
    mxHolder := if (c.mxHolder.map Prod.fst) = some g then none else c.mxHolder
    actHolder := if c.actHolder = some g then none else c.actHolder
    tapHolder := if c.tapHolder = some g then none else c.tapHolder }
  State.settleSuspend (State.settleInstalls (t.modGroup g fun y => { y with
    place := .ended
    failed := true
    waves := Tbl.mapVals y.waves fun w =>
      { w with splits := [], results := [], ended := true, arrivals := [], fences := [], tx := none, trap := none }
    copies := []
    tapOps := []
    tapWork := none
    locks := []
    mbxWaits := []
    rdv := Tbl.mapVals y.rdv fun k => { k with waiters := [] } })) (s.ctxOf g)

/-- A group ends by a fault: its notice is posted and its kernel becomes failing (R84). -/
def State.endGroup (s : State) (g code detail : Nat) : State :=
  let x := s.group g
  let c := s.ctxOf g
  ((s.stopGroup g).postNotice c code x.unit detail).failKernel x.kernel code

/-! ## Trap entry (R119) -/

/-- The current split waits no longer at a rendezvous slot or the taper port. -/
def State.leaveLines (s : State) : State :=
  (s.modG fun G => { G with
    rdv := Tbl.mapVals G.rdv fun k => { k with waiters := k.waiters.filter fun o => !(o.1 == s.cur.w && o.2.1 == s.cur.sl) } }).modCore
    s.cu fun c => { c with portWait := c.portWait.filter fun o => o != (s.cur.g, s.cur.w, s.cur.sl) }

/-- The current split, which faulted, enters the trap handler; the wave's other splits freeze. -/
def State.trapEntry (s : State) (code detail addr : Nat) : State :=
  let x := s.csp
  let W := s.cw
  let f : TrapFrame := ⟨x.pc, x.ctx, x.entering, x.fmt, W.s.toList.getD 61 0, W.s.toList.getD 62 0,
    W.s.toList.getD 63 0, s.cur.len, []⟩
  let c := s.cyc
  s.leaveLines.modW fun W =>
    let W := ((W.finalS 61 (BitVec.ofNat 64 (code + 2 ^ 32 * (detail % 2 ^ 32)))).finalS 62 x.pc).finalS 63 (BitVec.ofNat 64 addr)
    { W with
      trap := some f
      nextIssue := max W.nextIssue (c + 1)
      splits := Tbl.set (Tbl.mapVals W.splits fun y => { y with mode := .frozen }) s.cur.sl
        { x with
          pc := BitVec.ofNat 64 (s.ctx s.cctx).trap
          ctx := {}
          entering := .fall
          wait := {}
          block := .none
          mode := .trap
          readySince := none } }

/-! ## Token spill (R103) -/

/-- Tokens come back from the spill area while the stack has room. -/
def refill (fuel : Nat) (G : Group) (W : Wave) : Group × Wave :=
  match fuel with
  | 0 => (G, W)
  | n + 1 =>
    if W.tokens.length < 16 then
      match W.spilled with
      | [] => (G, W)
      | k :: r =>
        match Tbl.get? G.spill k with
        | some t =>
          refill n { G with spill := Tbl.del G.spill k }
            { W with tokens := W.tokens ++ [t], spilled := r, nextIssue := W.nextIssue + 20 }
        | none => refill n G { W with spilled := r }
    else (G, W)

/-- Writes a group and one of its waves together. -/
def State.putGW (s : State) (g w : Nat) (p : Group × Wave) : State :=
  s.setGroup g { p.1 with waves := Tbl.set p.1.waves w p.2 }

/-! ## Idempotent restart (R124) and poison (R126) -/

def ResKind.discarded (k : ResKind) : Bool :=
  match k with
  | .load _ => true
  | .ldk _ => true
  | .ldat _ _ _ => true
  | .vals => false
  | .atomic _ _ _ => false
  | .tnow _ _ => false
  | .noteGet _ => false
  | .actld _ => false
  | .launch _ _ => false
  | .mbx _ _ => false

/-- A result that a restart discards: a pending load or LDAT, or the result of TAPQ or TAPSTAT (`tap`). -/
def Result.discardable (r : Result) : Bool := r.kind.discarded || r.tap

/-- Cancels the copies of a wave to the scratchpad that were issued in a region. -/
def State.cancelCopies (s : State) (g w region : Nat) : State :=
  let hit (c : Copy) : Bool := c.wave == w && c.region == region && (c.form == 1 || (c.form == 0 && (c.dir == 0 || c.dir == 3)))
  let ids := ((s.group g).copies.filter hit).map Copy.id
  let t := ids.foldl (fun t i => (t.dropLocks g i).resolve g i (.cancelled [])) s
  (t.modGroup g fun x => { x with copies := x.copies.filter fun c => !hit c }).modWave g w fun W =>
    W.addCount .cpc (-(ids.length : Int))

def placeIsScratch (p : Place) : Bool :=
  match p with
  | .global _ => false
  | .scratch _ _ => true

/-- Cancels the drains of a wave to the scratchpad that were issued in a region. -/
def State.cancelDrains (s : State) (g w region : Nat) : State :=
  let u := (s.group g).unit
  let hit (d : Drain) : Bool := d.group == g && d.wave == w && d.region == region &&
    (d.steps.all fun st => st.all fun p => placeIsScratch p.1)
  let hitq (o : MxOp) : Bool := o.group == g && o.wave == w && o.region == region && (o.kind == 5 || o.kind == 6) &&
    o.places.all placeIsScratch
  let ids := ((s.core u).drains.filter hit).map Drain.id ++ ((s.core u).mxq.filter hitq).map MxOp.id
  let t := s.modCore u fun c => { c with
    drains := c.drains.filter fun d => !hit d
    mxq := c.mxq.filter fun o => !hitq o }
  (ids.foldl (fun t i => t.dropLocks g i) t).modWave g w fun W => W.addCount .mxc (-(ids.length : Int))

/-- The wave restarts at `%iregpc` (R124); `detail` is the detail of the notice where the group ends instead (R84, R212). The
restart enters the header at `%iregpc` and asks no map (R22, log 36). -/
def State.restart (s : State) (g w code : Nat) (detail : Nat := 0) : State :=
  let R := (s.wave g w).region
  if R.restarts = 3 then s.endGroup g cPoison 0
  else if R.written ≠ [] then s.endGroup g code detail
  else
    let t := ((s.cancelCopies g w R.id).cancelDrains g w R.id).fqDrop fun x =>
      match x with
      | .split h v _ => h == g && v == w
      | .copy _ _ => false
      | .write _ => false
      | .version _ _ _ => false
    let u := (t.group g).unit
    let t := t.modCore u fun c => { c with portWait := c.portWait.filter fun o => !(o.1 == g && o.2.1 == w) }
    let t := t.modGroup g fun x => { x with
      rdv := Tbl.mapVals x.rdv fun k => { k with waiters := k.waiters.filter fun o => o.1 != w } }
    let W := t.wave g w
    let G := t.group g
    let W := { W with nextIssue := max W.nextIssue ((t.core u).cyc + 1) }
    let pushed (k : Token) : Bool := k.region == R.id
    let pushedAt (k : Nat) : Bool := (Tbl.get? G.spill k).any pushed
    let dead := W.results.filter fun r => r.region == R.id && r.discardable
    let spGone := W.spilled.filter pushedAt
    let W := dead.foldl (fun (x : Wave) r => x.addCount r.counter (-1)) W
    let W := { W with
      tokens := W.tokens.filter fun k => !pushed k
      spilled := W.spilled.filter fun k => !pushedAt k
      results := W.results.filter fun r => !(r.region == R.id && r.discardable)
      region := { R with restarts := R.restarts + 1, cleared := [] }
      ctr := Vector.ofFn fun (i : Fin 32) =>
        (BitVec.ofNat 128 ((R.rng.getD i.val 0).toNat + (W.ctr.toList.getD i.val 0).toNat / 2 ^ 64 * 2 ^ 64))
      rngPoison := (W.rngPoison.filter fun p => p.2 != 0) ++ R.poison.map fun l => (l, 0)
      splits := [(0, { members := R.members, exec := R.members, fmt := R.fmt, pc := W.iregpc, entering := .checked })] }
    let G := { G with spill := spGone.foldl (fun sp k => Tbl.del sp k) G.spill }
    (t.putGW g w (refill 16 G W)).flicker u 256

/-- A wave consumes poison, for an instruction issued in region `r` (R124, R126). While a split of the wave is in trap mode it is DOUBLE,
whichever split's it is (log 84); poison of an instruction issued before the open region ends the group with POISON (log 85). -/
def State.consumePoison (s : State) (g w r : Nat) : State :=
  let W := s.wave g w
  if W.trap.isSome then s.endGroup g cDouble cPoison
  else if W.region.isOpen && W.region.id == r then s.restart g w cPoison
  else s.endGroup g cPoison 0

/-- The number of the region that is open in the current wave; 0 when none is. -/
def State.regionNow (s : State) : Nat := if s.cw.region.isOpen then s.cw.region.id else 0

/-! ## Raising a fault (R118) -/

/-- The instruction of the current split faults: it does not execute. -/
def State.raise (s : State) (code : Nat) (detail : Nat := 0) (addr : Nat := 0) : State :=
  if s.csp.mode = .trap then s.endGroup s.cur.g cDouble code
  else if code = cToken then s.endGroup s.cur.g code 0
  else if code = cPoison then s.consumePoison s.cur.g s.cur.w s.regionNow
  else if code = cMxint ∧ s.cw.region.isOpen then s.restart s.cur.g s.cur.w cMxint detail
  else if (s.ctx s.cctx).trap = 0 then s.endGroup s.cur.g code detail
  else s.trapEntry code detail addr

/-! ## Closing a region (R123) -/

/-- A committing instruction closes the region at its issue, before it executes. -/
def State.closeRegion (s : State) : State :=
  s.modW fun W => { W with region := { W.region with isOpen := false, restarts := 0, written := [] } }

/-! ## Deterministic mode (R116) -/

def Block.atBarrier (b : Block) : Bool :=
  match b with
  | .bar _ _ => true
  | .barArrive _ _ => false
  | .dbar => true
  | .none => false | .fwait _ _ => false | .dusk _ => false | .mbx => false
  | .ctxEnd _ _ => false | .fqDone _ _ _ _ => false | .tlbinv _ _ => false | .tlbSend _ _ _ _ _ => false | .snap _ _ => false
  | .page _ _ => false | .pageFull => false

/-- A wave waits at a barrier when every split of it that is not frozen does. -/
def Wave.waitsAtBarrier (x : Wave) : Bool :=
  x.splits.any (fun e => e.2.block.atBarrier) && x.splits.all fun e => e.2.block.atBarrier || e.2.mode == .frozen

def Group.runnable (x : Group) : List Nat :=
  (x.waves.filter fun e => !e.2.ended && !e.2.waitsAtBarrier).map Prod.fst

/-- The scheduler picks the next running wave: the lowest runnable one that has not run in this round, or a new
round; where none is runnable the choice waits (64). -/
def Group.pick (x : Group) : Group :=
  match x.runnable.find? fun w => !x.ranThisRound.contains w with
  | some w => { x with running := w, ranThisRound := x.ranThisRound ++ [w] }
  | none =>
    match x.runnable with
    | w :: _ => { x with running := w, ranThisRound := [w] }
    | [] => { x with running := 64 }

/-- The scheduler picks the next running wave, which issues from cycle `c` on (R114, R116, R308). -/
def Group.turnTo (x : Group) (c : Nat) : Group :=
  let y := x.pick
  { y with waves := y.waves.map fun e => if e.1 = y.running then (e.1, { e.2 with nextIssue := max e.2.nextIssue c }) else e }

/-- A switch point of a deterministic group (R116): the wave picked issues from the next cycle on. -/
def State.switchPoint (s : State) (g : Nat) : State :=
  let x := s.group g
  if x.det then s.modGroup g fun y => y.turnTo ((s.core x.unit).cyc + 1) else s

/-! ## The end of a wave (R111) and of its group -/

/-- The last wave has ended: the group exits, and after the last group its kernel retires (R83). -/
def State.groupExit (s : State) (g : Nat) : State :=
  let x := s.group g
  let t := ((s.leaveSlice g).modGroup g fun y => { y with place := .ended, mbxWaits := [], tapWork := none })
  let t := t.modCore x.unit fun c => { c with
    portWork := c.portWork.filter fun h => h != g
    mxHolder := if (c.mxHolder.map Prod.fst) = some g then none else c.mxHolder
    actHolder := if c.actHolder = some g then none else c.actHolder
    tapHolder := if c.tapHolder = some g then none else c.tapHolder }
  let t := t.modKernel x.kernel fun k =>
    let n := k.exited + 1
    { k with
      exited := n
      st := if k.st = .running ∧ n = k.pkt.ngx * k.pkt.ngy then .retiring else k.st }
  State.settleSuspend { t with txs := t.txs.filter fun y => y.group != g } (s.ctxOf g)

/-- No split remains and no token holds a lane: the wave ends. -/
def State.waveEnd (s : State) (g w : Nat) : State :=
  let t := s.modWave g w fun W => { W with
    ended := true
    splits := []
    tokens := []
    results := W.results.filter fun r => !r.kind.discarded
    trap := none }
  let t := t.modBars g fun x => { (x.leaveAll w 0xFFFFFFFF) with
    spill := (s.wave g w).spilled.foldl (fun sp k => Tbl.del sp k) x.spill }
  let u := (t.group g).unit
  let t := if (t.core u).mxHolder = some (g, w) then t.modCore u fun c => { c with mxHolder := none } else t
  (if (t.group g).liveWaves.isEmpty then t.groupExit g else t.switchPoint g).settleInstalls

end Sys2Proof.Machine
end

