-- ==== Sys2Proof/Machine/Fetch.lean ====
section
/-! DEFINITION. Reading code and header maps through the context's translation (R22, R258-R261), and the waits in the fault
queue that a missing mapping causes (R263). -/

namespace Sys2Proof.Machine

/-- The image a wave runs (R94, R95). -/
def State.imgOf (s : State) (g w : Nat) : Image :=
  let k := s.kernel (s.group g).kernel
  match (s.wave g w).adopted, k.newImg with
  | some _, some i => i
  | _, _ => k.img

/-- What a read of a 32-bit word or a byte answers. -/
inductive Rd where
  | ok (v : Nat) (l : Leaf)
  | page (va level : Nat) (malformed : Bool)
  | prot (va : Nat)
  | poison
  | refused                            -- the bridges refuse it: the access waits (R269, R278)
  deriving DecidableEq, Repr

/-- Reads `n` bytes that lie in one page, through the translation of a group's context on its die. -/
def State.rdVa (s : State) (g va n : Nat) (a : Acc) : Rd :=
  match s.xlate (unitDie (s.group g).unit) (s.ctxOf g) va a with
  | .page v lv m => .page v lv m
  | .prot v => .prot v
  | .refused => .refused
  | .ok pa l =>
    if !s.bridgeOk (s.group g).unit (homeOf pa) then .refused
    else if s.poisonedAt pa n then .poison else .ok (leNat (s.bytesAt pa n)) l

/-- What the header map says of a target (R22). -/
inductive HeaderBit where
  | yes (l : Leaf)
  | no
  | page (va level : Nat) (malformed : Bool)
  | prot (va : Nat)
  | poison
  | refused
  deriving DecidableEq, Repr

/-- The index of a word in an image's code region; none outside it. -/
def Image.wordIndex (i : Image) (a : Nat) : Option Nat :=
  let c := i.base + i.codeOff
  if c ≤ a ∧ (a - c) % 4 = 0 ∧ (a - c) / 4 < i.codeWords then some ((a - c) / 4) else none

def State.headerBit (s : State) (g : Nat) (i : Image) (a : Nat) : HeaderBit :=
  match i.wordIndex a with
  | none => .no
  | some k =>
    match s.rdVa g (i.base + i.mapOff + k / 8) 1 .read with
    | .ok v l => if bit v (k % 8) then .yes l else .no
    | .page va lv m => .page va lv m
    | .prot va => .prot va
    | .poison => .poison
    | .refused => .refused

/-- The line that a byte of the current context lies in, where the current split's read reaches it. -/
def State.vaLine (s : State) (va : Nat) (a : Acc) : Option Nat :=
  match s.xlate (unitDie s.cu) s.cctx va a with
  | .ok pa _ => if s.bridgeOk s.cu (homeOf pa) then some (lineOf pa) else none
  | .page _ _ _ => none
  | .prot _ => none
  | .refused => none

/-- The current split's reads of bytes meet the stored errors of their lines, each line once (R13; DESIGN CHOICE, log 67). -/
def State.touchVas (s : State) (vas : List (Nat × Acc)) : State :=
  if s.memory.errs.isEmpty then s
  else ((vas.filterMap fun p => s.vaLine p.1 p.2).eraseDups).foldl State.touchLine s

/-- The current split's walks to bytes that it goes no further with (R13). -/
def State.walkVas (s : State) (vas : List (Nat × Acc)) : State := vas.foldl (fun t p => t.walkOnly (unitDie t.cu) t.cctx p.2 [p.1]) s

/-- The header-map byte that says whether an address is a header. -/
def Image.mapVa (i : Image) (a : Nat) : List (Nat × Acc) :=
  match i.wordIndex a with
  | some k => [(i.base + i.mapOff + k / 8, .read)]
  | none => []

/-- The current group's die keeps a leaf. -/
def State.keep (s : State) (l : Leaf) : State := s.cacheLeaf (unitDie s.cu) l

/-- The instruction of the current split waits in the fault queue, before it executes (R263); in trap mode PAGE is DOUBLE
(R118). -/
def State.pageWait (s : State) (va kind level : Nat) (malformed : Bool) : State :=
  if s.csp.mode = .trap then s.raise cPage
  else
  let s := s.leaveLines.walkTouch s.cctx va
  let r := s.fqRaise s.cctx va kind level malformed s.cg.kernel s.cu (.split s.cur.g s.cur.w s.cur.sl)
  match r.2 with
  | some k => r.1.blockOn (.page s.cctx k)
  | none => r.1.blockOn .pageFull

/-- Goes on with `k` where `a` is a header; otherwise the instruction faults or waits (R22). -/
def State.checkHeader (s : State) (a : DWord) (k : State → State) : State :=
  let i := s.imgOf s.cur.g s.cur.w
  let b := s.headerBit s.cur.g i a.toNat
  let vas := i.mapVa a.toNat
  let s := s.touchVas vas
  match b with
  | .yes l => k (s.keep l)
  | .no => (s.walkVas vas).raise cBadTarget
  | .page va lv m => s.pageWait va 1 lv m
  | .prot _ => (s.walkVas vas).raise cProt
  | .poison => (s.walkVas vas).consumePoison s.cur.g s.cur.w s.regionNow
  | .refused => s

/-- Reads one word of code for the current split. -/
def State.rdCode (s : State) (a : DWord) : Rd := s.rdVa s.cur.g a.toNat 4 .fetch

/-- The byte that the wave's own newest store to an address, not yet performed, has written (R186, R187). -/
def State.ownByte (s : State) (pa : Nat) : Option Byte :=
  s.memory.writes.foldl (fun (b : Option Byte) x =>
    if x.group == s.cur.g && x.wave == s.cur.w && !x.engine && x.scratchOf.isNone then
      match x.payld with
      | .bytes cs =>
        match cs.reverse.find? fun c => c.1 == pa with
        | some c => some c.2
        | none => b
      | .atomic _ _ _ => b
      | .contrib _ => b
      | .msg _ => b
    else b) none

/-- `n` bytes from a physical address, as the current wave sees them: its own stores that are still on their way included. -/
def State.ownBytes (s : State) (pa n : Nat) : List Byte :=
  (List.range n).map fun i => (s.ownByte (pa + i)).getD (s.byteAt (pa + i))

/-- Reads `n` bytes through the current context's translation and goes on with their value; the wave's own stores that are still
on their way are seen (R60, R66, R82, R95, R187, log 38). `named`: the entry names the address of a PROT for s63 (R119). -/
def State.loadVa (s : State) (va n : Nat) (named : Bool) (k : Nat → State → State) : State :=
  let r := s.rdVa s.cur.g va n .read
  let s := s.touchVas [(va, .read), (va + n - 1, .read)]
  match r with
  | .ok _ l => k (leNat (s.ownBytes (l.pa + (va - l.va)) n)) (s.keep l)
  | .page v lv m => s.pageWait v 1 lv m
  | .prot v => (s.walkVas [(va, .read)]).raise cProt 0 (if named then v else 0)
  | .poison => (s.walkVas [(va, .read)]).consumePoison s.cur.g s.cur.w s.regionNow
  | .refused => s

/-- The split of a fault-queue waiter is no longer blocked (R263, R267). -/
def State.wake (s : State) (g w sl : Nat) : State :=
  if Tbl.has (s.wave g w).splits sl then s.modSplit g w sl fun p => { p with block := .none } else s

end Sys2Proof.Machine
end

