-- ==== Sys2Proof/Machine/Control.lean ====
section
/-! DEFINITION. Uniform and divergent control flow, tokens, waits, regions and the format register (08_group.md R102-R112,
R122; 06_queue and 07_kernel R94, R95). -/

namespace Sys2Proof.Machine

/-! ## Settling tokens (R104) -/

def Token.running (t : Token) : Word := t.pending &&& ~~~t.arrived &&& ~~~t.waiting

/-- A split as R100, R104 and R105 create it. -/
def newSplit (lanes fmt : Word) (pc : DWord) (e : Entering) (mode : Mode) : Split :=
  { pc := pc, entering := e, members := lanes, exec := lanes, fmt := fmt, mode := mode }

def Wave.addSplit (W : Wave) (k : Nat) (x : Split) : Wave := { W with splits := Tbl.set W.splits k x }

/-- settle(tok): the wave, and the token that remains, if any. New splits take the lowest free slot. -/
def settle1 (mode : Mode) (W : Wave) (t : Token) : Wave × Option Token :=
  if t.pending = 0 then (W, none)
  else if t.running ≠ 0 then (W, some t)
  else
    match W.freeSlot with
    | none => (W, some t)
    | some k =>
      if t.waiting ≠ 0 then
        (W.addSplit k (newSplit t.waiting t.fmt t.resume .fall mode), some { t with waiting := 0, resume := 0 })
      else (W.addSplit k (newSplit t.arrived t.fmt t.rejoin .rejoin mode), none)

/-- Settles a list of tokens, innermost first. -/
def settleAll (mode : Mode) (W : Wave) : List Token → Wave × List (Option Token)
  | [] => (W, [])
  | t :: r =>
    let p := settle1 mode W t
    let q := settleAll mode p.1 r
    (q.1, p.2 :: q.2)

/-- The tokens of a wave's stack, innermost first, the spilled ones last. -/
def stackTokens (G : Group) (W : Wave) : List Token := W.tokens ++ W.spilled.filterMap fun k => Tbl.get? G.spill k

/-- Puts a stack back after settling: positions of resident tokens first, then those of the spilled ones. Each spilled token that
one instruction changes stalls the wave for 20 cy, once (R103; DEDUCED, log 69). -/
def putStack (G : Group) (W : Wave) (old : List Token) (new : List (Option Token)) : Group × Wave :=
  let n := W.tokens.length
  let sp := W.spilled.zip (new.drop n)
  let changed := ((old.drop n).zip (new.drop n)).countP fun p => p.2 != some p.1
  let G := { G with spill := sp.foldl (fun t p =>
      match p.2 with
      | some k => Tbl.set t p.1 k
      | none => Tbl.del t p.1) G.spill }
  let W := { W with
    tokens := (new.take n).filterMap id
    spilled := (sp.filter fun p => p.2.isSome).map Prod.fst
    nextIssue := W.nextIssue + 20 * changed }
  refill 16 G W

/-- Changes the tokens of the trap frame by `ff` and those of the stack by `fs`, and settles them, innermost first (R104, R111). -/
def State.settleTokens (s : State) (ff fs : List Token → List Token) : State :=
  let W := s.cw
  let W := match W.trap with
    | none => W
    | some fr =>
      let p := settleAll .trap W (ff fr.tokens)
      { p.1 with trap := some { fr with tokens := p.2.filterMap id } }
  let old := stackTokens s.cg W
  let mode : Mode := if W.trap.isSome then .frozen else .active
  let p := settleAll mode W (fs old)
  s.putGW s.cur.g s.cur.w (putStack s.cg p.1 old p.2)

/-- Changes the tokens that a split works with, the trap frame's or the stack's, and settles all (R103, R104). -/
def State.settleOwn (s : State) (mode : Mode) (f : List Token → List Token) : State :=
  if mode = .trap then s.settleTokens f id else s.settleTokens id f

/-- The tokens a split works with: the trap frame's in trap mode, otherwise the stack's (R103). -/
def State.splitTokens (s : State) : List Token :=
  if s.csp.mode = .trap then
    match s.cw.trap with
    | some f => f.tokens
    | none => []
  else stackTokens s.cg s.cw

def State.inTrap (s : State) : Bool := s.csp.mode == .trap

/-- Pushes a token, and tells `k` for how many cycles the wave stalls: 20 where a token is spilled. TOKEN where neither the frame
nor the spill area has room (R103). -/
def State.pushToken (s : State) (t : Token) (k : Nat → State → State) : State :=
  if s.inTrap then
    match s.cw.trap with
    | none => s.raise cToken
    | some f =>
      if 4 ≤ f.tokens.length then s.raise cToken
      else k 0 (s.modW fun W => { W with trap := some { f with tokens := t :: f.tokens } })
  else if s.cw.tokens.length < 16 then k 0 (s.modW fun W => { W with tokens := t :: W.tokens })
  else
    match (List.range 16).find? fun i => !Tbl.has s.cg.spill i with
    | none => s.raise cToken
    | some i =>
      let oldest := s.cw.tokens.getLast?
      k 20 (s.putGW s.cur.g s.cur.w
        ({ s.cg with spill := match oldest with
            | some o => Tbl.set s.cg.spill i o
            | none => s.cg.spill },
         { s.cw with
            tokens := t :: s.cw.tokens.dropLast
            spilled := i :: s.cw.spilled }))

/-- The current split ends and its slot frees. -/
def State.endSplit (s : State) : State := s.modW fun W => { W with splits := Tbl.del W.splits s.cur.sl }

/-! ## Targets (R31) -/

/-- The address `o` words from the header of the current clause. -/
def State.fromHeader (s : State) (o : Int) : DWord := s.csp.ctx.hdr + BitVec.ofInt 64 (4 * o)

def State.target (s : State) (t : Tgt) : DWord :=
  match t with
  | .near c => s.fromHeader (sfld c.val 15)
  | .far l => s.fromHeader l.toInt

/-- NOP (R108). -/
def execNop (s : State) : Out := .next s.retire

/-- BRA (R108). -/
def execBra (t : Tgt) (s : State) : Out := .next (s.checkHeader (s.target t) fun s => s.jump (s.target t))

/-- BRC: the target is checked whether or not it is taken; s0 never branches (R22, R108). -/
def execBrc (a : Fin 64) (t : Tgt) (s : State) : Out :=
  .next (s.checkHeader (s.target t) fun s => if s.rdS a.val ≠ 0 then s.jump (s.target t) else s.retire)

/-- CALL (R108): the result is a scalar of the wave. -/
def execCall (d : Fin 64) (t : Tgt) (s : State) : Out :=
  .next (s.checkHeader (s.target t) fun s =>
    (s.modW fun W => W.finalS d.val s.csp.ctx.next).jump (s.target t))

/-- RET (R108). -/
def execRet (a : Fin 64) (s : State) : Out := .next (s.checkHeader (s.rdS a.val) fun s => s.jump (s.rdS a.val))

/-- The effect of a BDIV whose targets are good (R105). -/
def State.bdiv (s : State) (m : Word) (target rejoin : DWord) : State :=
  let x := s.csp
  let t := x.exec &&& m
  let f := x.exec &&& ~~~m
  let next := x.ctx.next
  if t = 0 then s.applyStall.modSp fun y => { y with pc := next, entering := .fall, readySince := none }
  else if f = 0 then s.jump target
  else
    match s.cw.freeSlot with
    | some k =>
      s.pushToken ⟨rejoin, 0, x.exec, 0, 0, x.fmt, s.regionNow, false⟩ fun n s =>
        (s.modW fun W => (W.addSplit s.cur.sl
          { x with members := f, exec := f, pc := next, entering := .fall, readySince := none }).addSplit k
            (newSplit t x.fmt target .checked x.mode)).stallMore n
    | none =>
      s.pushToken ⟨rejoin, next, x.exec, 0, f, x.fmt, s.regionNow, false⟩ fun n s =>
        ((s.modSp fun y => { y with members := t, exec := t }).jump target).stallMore n

/-- BDIV (R105): the rejoin clause is required to begin with JOIN (R106). -/
def execBdiv (m : Fin 8) (t : Fin 32768) (rej : Word) (s : State) : Out :=
  .next (
    if s.csp.exec ≠ s.csp.members then s.raise cIllegal
    else
      let target := s.fromHeader (sfld t.val 15)
      let rejoin := s.fromHeader rej.toInt
      s.checkHeader target fun s => s.checkHeader rejoin fun s =>
        let r := s.rdCode (rejoin + 4)
        let vas : List (Nat × Acc) := [((rejoin + 4).toNat, .fetch)]
        let s := s.touchVas vas
        match r with
        | .ok w l =>
          match decodeWord w [] with
          | .ok .join => (s.keep l).bdiv (s.rdM m.val) target rejoin
          | _ => (s.walkVas vas).raise cBadTarget
        | .page va lv mf => s.pageWait va 3 lv mf
        | .prot _ => (s.walkVas vas).raise cProt
        | .poison => (s.walkVas vas).consumePoison s.cur.g s.cur.w s.regionNow
        | .refused => s)

/-- The lanes arrive in the innermost token that holds them. -/
def arriveTokens (members : Word) (ts : List Token) : List Token :=
  match ts.findIdx? fun t => t.pending &&& members != 0 with
  | some i => ts.mapIdx fun j t => if j = i then { t with arrived := t.arrived ||| members } else t
  | none => ts

/-- The lanes arrive, and the tokens settle. -/
def State.arrive (s : State) (members : Word) (mode : Mode) : State := s.settleOwn mode (arriveTokens members)

/-- JOIN (R106). -/
def execJoin (s : State) : Out :=
  .next (
    if s.csp.ctx.idx ≠ 0 then s.raise cIllegal
    else
      let x := s.csp
      match s.splitTokens.find? fun t => t.pending &&& x.members != 0 with
      | none => s.retire
      | some tok =>
        if tok.rejoin ≠ x.ctx.hdr then s.retire
        else s.ownStall fun s => s.endSplit.arrive x.members x.mode)

/-- Clears members from the first `n` tokens whose pending holds them. -/
def breakTokens (members : Word) : Nat → List Token → List Token
  | _, [] => []
  | 0, ts => ts
  | n + 1, t :: r =>
    if t.pending &&& members ≠ 0 then { t with pending := t.pending &&& ~~~members } :: breakTokens members n r
    else t :: breakTokens members (n + 1) r

/-- BRK (R107). -/
def execBrk (n : Fin 32) (t : Tgt) (s : State) : Out :=
  .next (
    if s.csp.exec ≠ s.csp.members then s.raise cIllegal
    else s.checkHeader (s.target t) fun s => s.ownStall fun s =>
      let x := s.csp
      (s.jump (s.target t)).settleOwn x.mode (breakTokens x.members n.val))

/-! ## Trap mode ends (R119, R121) -/

/-- Trap mode ends: s61-s63 are restored and the frozen splits become active. -/
def Wave.endTrap (W : Wave) (f : TrapFrame) : Wave :=
  let W := ((W.finalS 61 f.s61).finalS 62 f.s62).finalS 63 f.s63
  { W with
    trap := none
    splits := Tbl.mapVals W.splits fun p => if p.mode = .frozen then { p with mode := .active } else p }

/-- The handler's last lane has exited: trap mode ends with no split to resume (R119). -/
def State.handlerGone (s : State) : State :=
  match s.cw.trap with
  | none => s
  | some f =>
    if (s.cw.splits.any fun e => e.2.mode == .trap) || f.tokens.any (fun t => t.pending != 0) then s
    else s.modW fun W => W.endTrap f

/-- EXIT (R111). -/
def execExit (s : State) : Out :=
  .next (
    s.closeRegion.ownStall fun s =>
    let x := s.csp.exec
    let s := s.modSp fun p => { p.past s.cur.len with members := p.members &&& ~~~x, exec := p.members &&& ~~~x }
    let s := if s.csp.members = 0 then s.endSplit else s
    let drop (t : Token) : Token := { t with
      pending := t.pending &&& ~~~x, arrived := t.arrived &&& ~~~x, waiting := t.waiting &&& ~~~x }
    let s := s.settleTokens (List.map drop) (List.map drop)
    let s := s.handlerGone
    if s.cw.splits.isEmpty && (stackTokens s.cg s.cw).all (fun t => t.pending == 0) then s.waveEnd s.cur.g s.cur.w else s)

/-! ## YIELD (R109), replacement images (R95) -/

/-- The wave selects the group's current activation bank (R143). -/
def State.adoptBank (s : State) : State :=
  let b := s.cg.curB
  s.modW fun W => { W with actB := b, actPending := false }

/-- The gang of a group that a lease withdraws is pre-empted where one of its groups yields or waits (R291). -/
def State.gangNow (s : State) (g : Nat) : State :=
  let x := s.group g
  if x.preempt = .atYield then
    { s with groups := Tbl.mapVals s.groups fun y =>
        if y.kernel = x.kernel ∧ y.gang = x.gang ∧ y.isPlaced then { y with preempt := .now } else y }
  else s

/-- What YIELD and YIELD.r do (R109). -/
def State.yieldPoint (s : State) : State :=
  ((s.adoptBank.modW fun W => { W with yielded := true }).switchPoint s.cur.g).gangNow s.cur.g

/-- YIELD (R109). -/
def execYield (s : State) : Out := .next s.retire.yieldPoint

/-- Looks an id up in an entry table through the translation, entry by entry, and goes on with the word index (R95, R321). -/
def State.findEntry (s : State) (i : Image) (id : Nat) : Nat → Nat → (Option Nat → State → State) → State
  | 0, _, k => k none s
  | n + 1, j, k =>
    s.loadVa (i.base + i.entryOff + 8 * j) 8 false fun v s =>
      if v % 4096 = id then k (some (v / 2 ^ 32)) s
      else if id < v % 4096 then k none s
      else s.findEntry i id n (j + 1) k

/-- The install that is pending for the current wave, and its image (R94, R95). -/
def State.pendingImage (s : State) : Option (Nat × Image) :=
  let k := s.kernel s.cg.kernel
  match s.cw.adopted, k.install, k.newImg with
  | none, some n, some i => some (n, i)
  | _, _, _ => none

/-- YIELD.r (R95, R109): the wave adopts where the new image has an entry for the id, and it has one split and no token. -/
def execYieldR (im : Fin 4096) (s : State) : Out :=
  .next (
    let s := s.closeRegion
    match s.pendingImage with
    | none => s.retire.yieldPoint
    | some (n, i) =>
      if s.cw.splits.length = 1 ∧ s.cw.tokens = [] then
        s.findEntry i im.val i.entries 0 fun e s =>
          match e with
          | none => s.retire.yieldPoint
          | some w =>
            let a : DWord := BitVec.ofNat 64 (i.base + i.codeOff + 4 * w)
            let b := s.headerBit s.cur.g i a.toNat
            let vas := i.mapVa a.toNat
            let s := s.touchVas vas
            match b with
            | .yes l => ((((s.keep l).jump a).modW fun W => { W with adopted := some n }).settleInstalls).yieldPoint
            | .no => (s.walkVas vas).raise cBadTarget
            | .page va lv m => s.pageWait va 1 lv m
            | .prot _ => (s.walkVas vas).raise cProt
            | .poison => (s.walkVas vas).consumePoison s.cur.g s.cur.w s.regionNow
            | .refused => s
      else s.retire.yieldPoint)

/-! ## Regions (R122), WAITC (R110) -/

/-- REGION (R122). -/
def execRegion (s : State) : Out :=
  .next (
    let x := s.csp
    if x.ctx.idx + 1 ≠ x.ctx.n ∨ s.cw.splits.length ≠ 1 then s.raise cIllegal
    else
      let id := s.nextId
      (s.fresh.modW fun W => { W with
        iregpc := x.ctx.next
        region := ⟨true, id, 0, x.members, x.fmt, W.tokens.length + W.spilled.length,
          W.ctr.toList.map fun c => c.setWidth 64, [], [],
          (W.rngPoison.filter fun p => p.2 == 0).map Prod.fst⟩ }).retire)

/-- WAITC (R110): the split waits until the wave's counters are within the thresholds. -/
def execWaitc (v sg m c : Fin 8) (s : State) : Out :=
  .next (s.retire.modSp fun x => { x with wait := ⟨v.val, sg.val, m.val, c.val⟩ })

/-! ## The format register (R45, R112) -/

/-- A value that `%fmt` may hold (R44, R45). -/
def fmtOk (v : Word) : Bool :=
  let x := v.toNat
  fld x 15 1 == 0 && fld x 20 12 == 0 && fld x 16 2 != 3 && fld x 18 2 ≤ 1 && fld x 12 3 ≤ 4 && fld x 8 4 ≤ 11

/-- Sets the split's `%fmt`; ILLEGAL where the value breaks R45. -/
def State.setFmt (s : State) (v : Word) : State :=
  if fmtOk v then s.retire.modSp fun x => { x with fmt := v } else s.raise cIllegal

/-- SETFMT with a literal (R112). -/
def execSetfmt (lit : Word) (s : State) : Out := .next (s.setFmt lit)

/-- SETFMT sa (R112). -/
def execSetfmtScalar (a : Fin 64) (s : State) : Out :=
  .next (if (s.rdS a.val).toNat / 2 ^ 32 ≠ 0 then s.raise cIllegal else s.setFmt ((s.rdS a.val).setWidth 32))

/-- GETFMT (R112). -/
def execGetfmt (d : Fin 64) (s : State) : Out := .next (s.wrS d.val (s.csp.fmt.setWidth 64)).retire

/-- MRST (R113). -/
def execMrst (m : Fin 8) (s : State) : Out :=
  .next (let x := s.rdM m.val; s.retire.modSp fun p => { p with exec := x &&& p.members })

end Sys2Proof.Machine
end

