-- ==== Sys2Proof/Machine/Operands.lean ====
section
/-! DEFINITION. The operand forms: special registers (R34, R240, R295), short codes and operand A of format VI (R29),
immediates of format SI (R28), the addresses of format M (R32). -/

namespace Sys2Proof.Machine

/-- The special registers that short codes name and SRD reads at 0x01-0x0A: %wave, %gx, %gy, %ngx, %ngy, %gang, %die, %mod,
%core, %gen. -/
def State.special10 (s : State) (k : Nat) : Nat :=
  let G := s.cg
  let K := s.kernel G.kernel
  match k with
  | 0 => s.cur.w
  | 1 => G.gx
  | 2 => G.gy
  | 3 => K.pkt.ngx
  | 4 => K.pkt.ngy
  | 5 => G.gang
  | 6 => unitDie G.unit
  | 7 => s.mod
  | 8 => unitCore G.unit
  | _ => K.gen

/-- A core that firmware reserves, outside every partition (R65, R265, R290). -/
def isReserved (u : Nat) : Bool := u == Config.serviceCore || u == Config.spareCore

/-- A tenant for which no request has set a partition: every core that firmware does not reserve, and all 16 ways (R65). -/
def defaultTenant : Tenant := ⟨allUnits.filter fun u => !isReserved u, 0xFFFF⟩

/-- A tenant's partition and way mask. The mask governs the occupancy of the L2 and timing, never values (R65), so no other
definition reads it. -/
def State.tenant (s : State) (t : Nat) : Tenant := Tbl.getD s.tenants t defaultTenant

/-- A context's core partition (R65). -/
def State.partition (s : State) (c : Nat) : List Nat := (s.tenant (s.ctx c).tenant).cores

/-- The cores on which a context's groups are placed: its partition, and for the service kernel's context those that firmware
reserves (R65, R265, R290). -/
def State.placeCores (s : State) (c : Nat) : List Nat :=
  if (s.ctx c).service then [Config.serviceCore, Config.spareCore] else s.partition c

/-- Link lane groups in service (R295). -/
def State.laneGroupUp (s : State) (i : Nat) : Bool :=
  (s.unit (0x200 + i)).inService && ((Tbl.getD s.pod.links (i / 2) {}).st != .down)

/-- `%cap` as a context reads it (R295). -/
def State.cap (s : State) (c : Nat) : Nat :=
  let cores := ((s.partition c).filter fun u => (s.unit u).inService).length
  let lanes := ((List.range 36).filter fun i => s.laneGroupUp i).length
  cores + 65536 * lanes + 2 ^ 32 * s.lamp.gen.toNat

/-- The value SRD reads (R34, R133, R240). -/
def State.srd (s : State) (n : Nat) : DWord :=
  if 1 ≤ n ∧ n ≤ 0x0A then BitVec.ofNat 64 (s.special10 (n - 1))
  else if 0x18 ≤ n then s.cg.wp.toList.getD (n - 0x18) 0
  else
    match n with
    | 0x0B => s.csp.fmt.setWidth 64
    | 0x0C => s.cw.fxf.setWidth 64
    | 0x0D => BitVec.ofNat 64 s.time.pen
    | 0x0E => BitVec.ofNat 64 (s.ctx s.cctx).penmax
    | 0x0F => BitVec.ofNat 64 (tclkCode s.time.tclk)
    | 0x10 => BitVec.ofNat 64 (s.cap s.cctx)
    | 0x11 => s.cw.iregpc
    | 0x12 => BitVec.ofNat 64 s.cyc
    | 0x13 => BitVec.ofNat 64 s.time.refVal
    | _ => if s.cw.chk then 1 else 0

/-- A short code in an integer instruction, in lane `l` (R29). -/
def State.shortInt (s : State) (c : Short) (l : Nat) : Word :=
  match c with
  | .imm n => BitVec.ofNat 32 n.val
  | .neg k => BitVec.ofInt 32 ((k.val : Int) - 16)
  | .lit w => w
  | .lane => BitVec.ofNat 32 l
  | .spec k => BitVec.ofNat 32 (s.special10 k.val)
  | .rsvd _ => 0

/-- A short code in a float instruction: immediates and special registers become FP32 exactly, literals are bits (R29). -/
def State.shortFloat (s : State) (c : Short) (l : Nat) : Word :=
  match c with
  | .imm n => intToF32 n.val
  | .neg k => intToF32 ((k.val : Int) - 16)
  | .lit w => w
  | .lane => intToF32 l
  | .spec k => intToF32 (s.special10 k.val)
  | .rsvd _ => 0

/-- Operand A in an integer instruction, every lane. -/
def State.opaInt (s : State) (a : OpA) : Nat → Word :=
  match a with
  | .vreg r => let x := s.rdV r.val; fun l => x.lane l
  | .sreg r => let x := (s.rdS r.val).setWidth 32; fun _ => x
  | .short c => fun l => s.shortInt c l

/-- Operand A in a float instruction, every lane. -/
def State.opaFloat (s : State) (a : OpA) : Nat → Word :=
  match a with
  | .vreg r => let x := s.rdV r.val; fun l => x.lane l
  | .sreg r => let x := (s.rdS r.val).setWidth 32; fun _ => x
  | .short c => fun l => s.shortFloat c l

/-- The immediate of format SI, sign-extended to 64 bits (R28, R132). -/
def simmVal (i : SImm) : DWord :=
  match i with
  | .small c => BitVec.ofInt 64 (sfld c.val 6)
  | .lit w => w.signExtend 64

/-- The shift count of an immediate (R132). -/
def simmShift (i : SImm) : Nat :=
  match i with
  | .small c => c.val
  | .lit w => w.toNat % 64

/-- An address of 64 bits. -/
def wrap64 (a : Int) : Nat := (a % 2 ^ 64).toNat

/-- The address an M-format operand gives lane `l`, or row `l` where the entry scales by a row number (R32, R202). -/
def State.addr (s : State) (ad : Addr) (l : Nat) : Nat :=
  match ad with
  | .base b d => wrap64 ((s.rdS b.val).toNat + d.toInt)
  | .lane b c => wrap64 ((s.rdS b.val).toNat + l * 2 ^ c.val)
  | .laneDisp b c d => wrap64 ((s.rdS b.val).toNat + l * 2 ^ c.val + d.toInt)
  | .vreg b c x =>
    wrap64 ((s.rdS b.val).toNat + (s.rdVL (fld x.toNat 25 7) l).toNat * 2 ^ c.val + sfld x.toNat 25)

/-- The address of an ATOM or CAS in lane `l`, of elements of `w` bytes (R32). -/
def State.aaddr (s : State) (ad : AAddr) (w l : Nat) : Nat :=
  match ad with
  | .base b d => wrap64 ((s.rdS b.val).toNat + d.toInt)
  | .lane b => wrap64 ((s.rdS b.val).toNat + l * w)
  | .laneDisp b d => wrap64 ((s.rdS b.val).toNat + l * w + d.toInt)
  | .vreg b x => wrap64 ((s.rdS b.val).toNat + (s.rdVL (fld x.toNat 25 7) l).toNat + sfld x.toNat 25)

/-- The scale's offset register of an address, where it has one. -/
def addrVreg (ad : Addr) : Option Nat :=
  match ad with
  | .base _ _ => none
  | .lane _ _ => none
  | .laneDisp _ _ _ => none
  | .vreg _ _ x => some (fld x.toNat 25 7)

def aaddrVreg (ad : AAddr) : Option Nat :=
  match ad with
  | .base _ _ => none
  | .lane _ => none
  | .laneDisp _ _ => none
  | .vreg _ x => some (fld x.toNat 25 7)

def addrSbase (ad : Addr) : Nat :=
  match ad with
  | .base b _ => b.val
  | .lane b _ => b.val
  | .laneDisp b _ _ => b.val
  | .vreg b _ _ => b.val

def aaddrSbase (ad : AAddr) : Nat :=
  match ad with
  | .base b _ => b.val
  | .lane b => b.val
  | .laneDisp b _ => b.val
  | .vreg b _ => b.val

end Sys2Proof.Machine
end

