-- ==== Sys2Proof/Machine/Access.lean ====
section
/-! DEFINITION. Memory accesses of instructions: the fault checks in the order of R333, reduce windows (R285, R286), writes
entering the store buffer (R185, R186, R191), what a scope has performed (R185), fences (R183, R188, R189). -/

namespace Sys2Proof.Machine

/-! ## Reduce windows (R285, R286) -/

def Window.covers (x : Window) (m a : Nat) : Bool :=
  x.base ≤ a && a < x.base + x.pages * 65536 && x.members.testBit m

/-- The window of this module that holds a local address. -/
def State.winAt (s : State) (pa : Nat) : Option (Nat × Window) :=
  if inClass pa then s.pod.windows.find? fun e => e.2.covers s.mod pa else none

/-- The plane whose switch reduces a window's line. -/
def State.planeAt (s : State) (pa : Nat) : Nat :=
  match s.winAt pa with
  | some e => e.2.plane
  | none => 0

/-- A pod address carries a write to a line of a reduce window (R262). -/
def State.remoteWin (s : State) (pa : Nat) : Bool :=
  match podModule pa with
  | some m => s.pod.windows.any fun e => e.2.covers m (pa % 2 ^ 41)
  | none => false

/-- A write that is no contribution is allowed on this leaf at these bytes (R243, R262, R286). -/
def State.plainStoreOk (s : State) (l : Leaf) (pa n : Nat) : Bool :=
  !l.stamped && !s.remoteWin pa && ((List.range (ceilDiv n 64 + 1)).all fun i => (s.winAt (min (pa + 64 * i) (pa + n - 1))).isNone)

/-! ## Translating ranges -/

inductive Segs where
  | ok (ps : List (Nat × Nat)) (ls : List Leaf)   -- physical pieces (address, bytes)
  | page (va level : Nat) (malformed : Bool) (walked : List Leaf)  -- the leaves read before
  | prot (walked : List Leaf)                      -- the leaves read, up to the one that does not permit the access
  | refused
  deriving DecidableEq, Repr

/-- The pieces of [va, va + n), page by page. -/
def State.segs (s : State) (d c : Nat) (a : Acc) (okLeaf : Leaf → Nat → Nat → Bool) : Nat → Nat → Nat → Segs
  | 0, _, _ => .ok [] []
  | fuel + 1, va, n =>
    if n = 0 then .ok [] []
    else
      let k := min n (65536 - va % 65536)
      match s.xlate d c va a with
      | .page v lv m => .page v lv m []
      | .prot v => .prot (s.leafAt d c v)
      | .refused => .refused
      | .ok pa l =>
        if okLeaf l pa k then
          match s.segs d c a okLeaf fuel ((va + k) % 2 ^ 64) (n - k) with
          | .ok ps ls => .ok ((pa, k) :: ps) (l :: ls)
          | .page v lv m ls => .page v lv m (l :: ls)
          | .prot ls => .prot (l :: ls)
          | .refused => .refused
        else .prot [l]

def segBytes (ps : List (Nat × Nat)) : List Place :=
  ps.flatMap fun p => (List.range p.2).map fun i => .global (p.1 + i)

/-! ## The checks of R333 -/

inductive Checked where
  | ok (ps : List (Nat × Nat × List Place)) (ls : List Leaf)   -- lane, address, the bytes' places
  | fault (code addr : Nat) (walked : List Leaf)               -- the leaves that it has read up to there
  | page (va kind level : Nat) (malformed : Bool) (walked : List Leaf)
  | refused                            -- the bridges refuse the walk: the instruction waits at issue (R269, R278)
  deriving DecidableEq, Repr

/-- The bytes that a scratchpad-space range of a group names; none where R156 gives PROT. -/
def State.scratchRange (s : State) (g a n : Nat) : Option (List Place) :=
  (List.range n).foldr (fun i acc =>
    match acc, s.scratchByte g ((a + i) % 2 ^ 64) with
    | some r, some p => some (p :: r)
    | _, _ => none) (some [])

/-- Step 3: ALIGN, and in the scratchpad space PROT, of the lowest lane that fails. -/
def State.checkAddrs (s : State) (scr : Bool) (al : Nat) (n : Nat → Nat) : List (Nat × Nat) → Option (Nat × Nat)
  | [] => none
  | (l, a) :: r =>
    if a % al ≠ 0 then some (cAlign, a)
    else if scr && (s.scratchRange s.cur.g a (n l)).isNone then some (cProt, a)
    else s.checkAddrs scr al n r

/-- Step 4: the lanes' bytes; the lowest lane whose translation fails decides. -/
def State.checkPages (s : State) (scr : Bool) (n : Nat → Nat) (acc : Acc) (okLeaf : Leaf → Nat → Nat → Bool) :
    List (Nat × Nat) → Checked
  | [] => .ok [] []
  | (l, a) :: r =>
    let rest := s.checkPages scr n acc okLeaf r
    let more (ps : List Place) (ls : List Leaf) : Checked :=
      match rest with
      | .ok qs ks => .ok ((l, a, ps) :: qs) (ls ++ ks)
      | .fault c x ks => .fault c x (ls ++ ks)
      | .page v k lv m ks => .page v k lv m (ls ++ ks)
      | .refused => .refused
    if scr then more ((s.scratchRange s.cur.g a (n l)).getD []) []
    else
      match s.segs (unitDie s.cu) s.cctx acc okLeaf (n l / 65536 + 2) a (n l) with
      | .ok ps ls => more (segBytes ps) ls
      | .page v lv m ls => .page v acc.kind lv m ls
      | .prot ls => .fault cProt a ls
      | .refused => .refused

/-- The runs of consecutive bytes in one allocation: (allocation's group, offset, bytes, index of the first byte). -/
def scratchRuns : Nat → List Place → List (Nat × Nat × Nat × Nat)
  | _, [] => []
  | i, .global _ :: r => scratchRuns (i + 1) r
  | i, .scratch g o :: r =>
    match scratchRuns (i + 1) r with
    | (h, o', k, j) :: t => if h = g ∧ o' = o + 1 ∧ j = i + 1 then (g, o, k + 1, i) :: t else (g, o, 1, i) :: (h, o', k, j) :: t
    | [] => [(g, o, 1, i)]

/-- The lowest address of an access that a lock conflicts with (R168): of a lane wider than that, not the lane's own address
(DEDUCED, log 89). -/
def State.lockHit (s : State) (scr isStore : Bool) (a n : Nat) (ps : List Place) : Option Nat :=
  if scr then
    ((scratchRuns 0 ps).filter fun q => s.conflicts s.cur.g (some q.1) q.2.1 (q.2.1 + q.2.2.1) isStore).foldl
      (fun (m : Option Nat) q =>
        let x := a + q.2.2.2 + (s.conflictAt s.cur.g (some q.1) q.2.1 (q.2.1 + q.2.2.1) isStore - q.2.1)
        match m with
        | some y => some (min x y)
        | none => some x) none
  else if s.conflicts s.cur.g none a (a + n) isStore then some (s.conflictAt s.cur.g none a (a + n) isStore)
  else none

/-- Step 5: RANGE of the lowest lane that conflicts. -/
def State.checkLocks (s : State) (scr isStore : Bool) (n : Nat → Nat) : List (Nat × Nat × List Place) → Option Nat
  | [] => none
  | (l, a, ps) :: r =>
    match s.lockHit scr isStore a (n l) ps with
    | some x => some x
    | none => s.checkLocks scr isStore n r

/-- Steps 3 and 4 of R333: the access of lane `l` has `n l` bytes and alignment `al`. -/
def State.addrCheck (s : State) (scr : Bool) (al : Nat) (n : Nat → Nat) (acc : Acc) (okLeaf : Leaf → Nat → Nat → Bool)
    (las : List (Nat × Nat)) : Checked :=
  match s.checkAddrs scr al n las with
  | some (c, a) => .fault c a []
  | none => s.checkPages scr n acc okLeaf las

/-- Steps 3 to 5 of R333 for accesses of `n` bytes of alignment `al`. -/
def State.memCheck (s : State) (scr isStore : Bool) (al n : Nat) (acc : Acc) (okLeaf : Leaf → Nat → Nat → Bool)
    (las : List (Nat × Nat)) : Checked :=
    match s.addrCheck scr al (fun _ => n) acc okLeaf las with
    | .ok ps ls =>
      match s.checkLocks scr isStore (fun _ => n) ps with
      | some x => .fault cRange x ls
      | none => .ok ps ls
    | .fault c a ls => .fault c a ls
    | .page v k lv m ls => .page v k lv m ls
    | .refused => .refused

def State.keepAll (s : State) (ls : List Leaf) : State := ls.foldl State.keep s

/-- Goes on with the places of a checked access; otherwise the instruction faults or waits. -/
def State.checked (s : State) (c : Checked) (k : List (Nat × Nat × List Place) → State → State) : State :=
  match c with
  | .ok ps ls => k ps (s.keepAll ls)
  | .fault code a ls => (s.keepAll ls).raise code (if code = cPenumbra then s.time.pen else 0) a
  | .page v kd lv m ls => (s.keepAll ls).pageWait v kd lv m
  | .refused => s

def anyLeaf (_ : Leaf) (_ _ : Nat) : Bool := true

/-- The addresses of the lanes of exec. -/
def State.laneAddrs (s : State) (ad : Addr) : List (Nat × Nat) := (maskLanes s.csp.exec).map fun l => (l, s.addr ad l)

/-! ## Homes and the path of a write (R185, R191) -/

/-- The home slice of a place, or the bank unit of an allocation's group. -/
def placeHome (p : Place) : Nat :=
  match p with
  | .global pa => homeOf pa
  | .scratch g _ => 16777216 + g

/-- A core reaches every global place of a list. -/
def State.placesOk (s : State) (u : Nat) (ps : List Place) : Bool :=
  ps.all fun p =>
    match p with
    | .global pa => s.bridgeOk u (homeOf pa)
    | .scratch _ _ => true

/-- The wave's writes on their way. -/
def State.waveWrites (s : State) (g w : Nat) : List Nat :=
  (s.memory.writes.filter fun x => x.group == g && x.wave == w && !x.engine).map GWrite.id

def ResKind.isLoad (k : ResKind) : Bool :=
  match k with
  | .load _ => true
  | .ldk _ => true
  | .atomic _ _ _ => true
  | .vals => false
  | .tnow _ _ => false
  | .noteGet _ => false
  | .ldat _ _ _ => false
  | .actld _ => false
  | .launch _ _ => false
  | .mbx _ _ => false

def Result.hasData (r : Result) : Bool := r.reqs.all fun q => q.got.isSome

/-- LDAT and ACTLD: their accesses are performed when their data are written, to the registers or the bank (R20). -/
def ResKind.isLate (k : ResKind) : Bool :=
  match k with
  | .ldat _ _ _ => true
  | .actld _ => true
  | .load _ => false
  | .ldk _ => false
  | .atomic _ _ _ => false
  | .vals => false
  | .tnow _ _ => false
  | .noteGet _ => false
  | .launch _ _ => false
  | .mbx _ _ => false

/-- The access of a result is over: it has its data, or they have been written where they go. -/
def Result.isOver (r : Result) : Bool := r.hasData && !r.kind.isLate

/-- The wave's loads, atomics and CAS that have no data yet. -/
def Wave.loadIds (x : Wave) : List Nat := (x.results.filter fun r => r.kind.isLoad && !r.hasData).map Result.id

/-- Every read access of the wave that is not over: its LDATs and ACTLDs too (R180, R182). -/
def Wave.accessIds (x : Wave) : List Nat := (x.results.filter fun r => (r.kind.isLoad || r.kind.isLate) && !r.isOver).map Result.id

/-- Every one of these accesses is over. -/
def Wave.allLoaded (x : Wave) (ids : List Nat) : Bool := x.results.all fun r => !ids.contains r.id || r.isOver

/-- Takes the fences whose condition holds: a release and an acquire are steps of the wave (R183, R188, R189). -/
def State.settleFences (s : State) (g w : Nat) : State :=
  let W := s.wave g w
  let done := W.fences.filter fun f => s.allPerformed f.writes f.scope && W.allLoaded f.loads
  if done.isEmpty then s
  else
    (done.filter Fence.acq).foldl (fun t f => t.acquire g w f.scope)
      (s.modWave g w fun W => { W with fences := W.fences.filter fun f => !done.contains f })

/-- Cells grouped by home: each home once, its cells in order. -/
def byHome (cells : List (Nat × Byte)) : List (Nat × List (Nat × Byte)) :=
  ((cells.map fun c => homeOf c.1).eraseDups).map fun h => (h, cells.filter fun c => homeOf c.1 == h)

/-- Adds one write for each entry, all of one operation. -/
def State.addWrites (s : State) (x : GWrite) : List (Nat × Payld) → State
  | [] => s
  | (h, p) :: r =>
    ({ s with
        nextId := s.nextId + 1
        memory := { s.memory with writes := s.memory.writes ++ [{ x with id := s.nextId, home := h, payld := p }] } }).addWrites x r

/-- A write of the current wave, with operation number `op`. -/
def State.protoWrite (s : State) (op : Nat) : GWrite :=
  { id := 0, op := op, ctx := s.cctx, group := s.cur.g, wave := s.cur.w, unit := s.cu, home := 0, payld := .bytes [],
    before := s.waveWrites s.cur.g s.cur.w }

/-- The virtual and physical 64 KiB pages of an access, for replays (R270). -/
def pagePairs (ps : List (Nat × Nat × List Place)) : List (Nat × Nat) :=
  (ps.flatMap fun p => (p.2.2.zipIdx).filterMap fun q =>
    match q.1 with
    | .global pa =>
      if q.2 = 0 ∨ pa % 65536 = 0 then some ((p.2.1 + q.2) % 2 ^ 64 / 65536 * 65536, pa / 65536 * 65536) else none
    | .scratch _ _ => none).eraseDups

/-- The global cells of laid-out data: places and bytes, in order. -/
def globalCells (xs : List (Place × Byte)) : List (Nat × Byte) :=
  xs.filterMap fun p =>
    match p.1 with
    | .global pa => some (pa, p.2)
    | .scratch _ _ => none

/-- The cells that fall in each allocation. -/
def scratchCells (xs : List (Place × Byte)) : List (Nat × List (Nat × Byte)) :=
  let cs := xs.filterMap fun p =>
    match p.1 with
    | .global _ => none
    | .scratch g o => some (g, o, p.2)
  ((cs.map fun c => c.1).eraseDups).map fun g => (g, (cs.filter fun c => c.1 == g).map fun c => (c.2.1, c.2.2))

/-- The words `v`, `v+1`, … of a lane as bytes (R1, R159). -/
def State.laneData (s : State) (v k l : Nat) : List Byte :=
  (List.range k).flatMap fun j => natLE 4 (s.rdVL (v + j) l).toNat

/-! ## Contributions, frozen frames, engines' writes (R192, R270, R286, R332) -/

/-- The home number of a plane's switch, as the peer of a flow (R286). -/
def planeHome (p : Nat) : Nat := 512 * (65 + p)

/-- An engine's contribution for each line, poisoned or not, stands in the module queue, on its way to the switch of its window's plane
(R14, R286). -/
def State.contribute (s : State) (x : GWrite) (lines : List (Nat × List Byte)) : State :=
  lines.foldl (fun t e =>
    match t.winAt e.1 with
    | none => t
    | some w => t.addWrites { x with stage := .module } [(planeHome w.2.plane, .contrib [e])]) s

def State.poisonLines (s : State) (ls : List Nat) : State :=
  s.modMem fun m => { m with poison := ls.filter (fun l => !m.poison.contains l) ++ m.poison }

/-- An engine's write of cells of one line: performed at its home in one step, or dropped where no memory is; to another module it
starts in the module queue (R192, R332). -/
def State.engineWrite (s : State) (x : GWrite) (cells : List (Nat × Byte)) : State :=
  match cells with
  | [] => s
  | (pa, _) :: _ =>
    if !s.admits pa then s.noteDropped x.group x.op (lineOf pa)
    else if remoteHome (homeOf pa) then s.addWrites { x with stage := .module, engine := true } [(homeOf pa, .bytes cells)]
    else
      let t := s.applyCells cells
      if x.poison then t.poisonLines [lineOf pa] else t

/-- A write of an engine operation is under way to another module. -/
def State.engineFlying (s : State) (g op : Nat) : Bool :=
  s.memory.writes.any fun x => x.engine && x.group == g && x.op == op && !x.sentContrib

/-- A byte for an engine: read at its home slice or bank unit, with its poison. -/
def State.enginePeek (s : State) (p : Place) : Byte × Bool :=
  match p with
  | .global pa => (if s.admits pa then s.byteAt pa else 0, s.linePoisoned (lineOf pa))
  | .scratch g o => (s.scratchRead g o, s.scratchPoisoned g o)

/-- The lines an engine reads meet their stored errors. -/
def State.engineTouch (s : State) (ps : List Place) : State :=
  ((ps.filterMap fun p => match p with
    | .global pa => some (lineOf pa)
    | .scratch _ _ => none).eraseDups).foldl State.touchLine s

/-- The bytes a write covers. -/
def GWrite.covers (x : GWrite) : List Nat :=
  match x.payld with
  | .bytes cs => cs.map Prod.fst
  | .atomic _ ty ls => ls.flatMap fun l => (List.range (if ty < 2 then 4 else 8)).map fun i => l.2.1 + i
  | .contrib ls => ls.flatMap fun l => (List.range 64).map fun i => l.1 + i
  | .msg _ => []

/-- A write to a place is under way. -/
def GWrite.touches (x : GWrite) (p : Place) : Bool :=
  match p with
  | .global pa =>
    x.scratchOf.isNone && (match x.payld with
      | .bytes cs => cs.any fun c => c.1 == pa
      | .atomic _ ty ls => ls.any fun l => l.2.1 ≤ pa && pa < l.2.1 + (if ty < 2 then 4 else 8)
      | .contrib _ => false
      | .msg _ => false)
  | .scratch g o =>
    x.scratchOf == some g && (match x.payld with
      | .bytes cs => cs.any fun c => c.1 == o
      | .atomic _ ty ls => ls.any fun l => l.2.1 ≤ o && o < l.2.1 + (if ty < 2 then 4 else 8)
      | .contrib _ => false
      | .msg _ => false)

/-- One of these writes to one of these places is not yet performed at its home. -/
def State.stillWriting (s : State) (ids : List Nat) (ps : List Place) : Bool :=
  s.memory.writes.any fun x => ids.contains x.id && ps.any fun p => x.touches p

/-- The addresses among these places that lie on other modules. -/
def remotePas (ps : List Place) : List Nat :=
  ps.filterMap fun p =>
    match p with
    | .global pa => if remoteHome (homeOf pa) then some pa else none
    | .scratch _ _ => none

def flowKey (peer ctx : Nat) (ordered : Bool) : Nat := peer * 256 + ctx * 2 + (if ordered then 1 else 0)

def State.flow (s : State) (k : Nat) : Flow := Tbl.getD s.memory.flows k {}
def State.setFlow (s : State) (k : Nat) (f : Flow) : State := s.modMem fun m => { m with flows := Tbl.set m.flows k f }

/-- The module that a remote home stands for. -/
def homeModule (h : Nat) : Nat := h / 512 - 1

/-- SIG, release atomics, contributions and the messages of dusk holds travel on the ordered flow (R193, R245). -/
def GWrite.isOrdered (x : GWrite) : Bool := x.rel || x.isContrib || x.isMsg

/-- The flow on which a write travels. -/
def GWrite.flowKey (x : GWrite) : Nat := Machine.flowKey (homeModule x.home) x.ctx x.isOrdered

/-- The next number of a flow (R282). -/
def Flow.count (f : Flow) : Flow := { f with next := (f.next + 1) % 2 ^ 32 }

/-! ## Links of flows (R280, R281) -/

/-- A flit leaves on a link, which keeps it until it is acknowledged (R280). -/
def Link.send (k : Link) (now : Nat) : Link :=
  { k with sendSeq := k.sendSeq + 1, unacked := k.unacked ++ [(k.sendSeq, now)] }

/-- `n` flits leave on a link. -/
def State.sendFlits (s : State) (l n : Nat) : State :=
  let k := (List.range n).foldl (fun (k : Link) _ => k.send s.now) (Tbl.getD s.pod.links l {})
  { s with pod := { s.pod with links := Tbl.set s.pod.links l k } }

/-- The links that carry traffic. -/
def State.carrying (s : State) : List Nat := (s.pod.links.filter fun e => e.2.carries).map Prod.fst

/-- The links a contribution may take: those of its window's plane, or where that has none left, the lowest-numbered one of the next
plane that has one (R281, R286). -/
def State.planeLinks (s : State) (p : Nat) : List Nat :=
  let ls := s.carrying
  let own := ls.filter fun l => l / 3 == p
  if own.isEmpty then
    match ((List.range 5).flatMap fun i => (List.range 3).map fun j => 3 * ((p + i + 1) % 6) + j).find? fun l =>
        (Tbl.getD s.pod.links l {}).st == .up with
    | some l => [l]
    | none => ls
  else own

/-- The links that a flow to a module, or to the switch of a plane (64 and the plane), may take. -/
def State.linksTo (s : State) (peer : Nat) : List Nat := if 64 ≤ peer then s.planeLinks (peer - 64) else s.carrying

/-- A flow's link: the one it uses, or at its first message one of those that carry traffic there: which one, the manual leaves open
(log 15). -/
def State.flowLink (s : State) (k : Nat) : State × Nat :=
  match (s.flow k).link with
  | some l => (s, l)
  | none =>
    let ls := s.linksTo (k / 256 % 256)
    let l := ls.getD ((Config.freeValue s.freeNo).toNat % ls.length) 0
    (({ s with freeNo := s.freeNo + 1 } : State).setFlow k { s.flow k with link := some l }, l)

/-- Marks words of an allocation poisoned (R160). -/
def State.scratchPoison (s : State) (g : Nat) (ws : List Nat) : State :=
  s.modGroup g fun x => { x with scratchPoison := ws.filter (fun w => !x.scratchPoison.contains w) ++ x.scratchPoison }

end Sys2Proof.Machine
end

