-- ==== Sys2Proof/Machine/Kernels.lean ====
section
/-! DEFINITION. Contexts (R59-R62), launch packets and image headers (R70-R72, R321), acceptance and failure of kernels
(R73, R78, R79, R83, R273), the journal (R80), invalidations (R268, R269): what instructions and the host share. -/

namespace Sys2Proof.Machine

/-! ## Fields of byte blocks -/

/-- The little-endian value of `n` bytes at offset `o`. -/
def fieldAt (b : List Byte) (o n : Nat) : Nat := leNat ((b.drop o).take n)

def sfieldAt (b : List Byte) (o : Nat) : Int := sfld (fieldAt b o 2) 16

def zerosAt (b : List Byte) (o n : Nat) : Bool := fieldAt b o n == 0

/-! ## Context descriptors (R59) -/

/-- The context that a 64-byte descriptor describes; none where it is malformed. R59 has a root's bits [15:0] and [63:52] zero and does not
list them among what is malformed, and R262 admits no pod address: all are malformed here (DESIGN CHOICE, log 80). -/
def State.parseCtx (s : State) (b : List Byte) : Option Context :=
  let root := fieldAt b 0 8
  let flags := fieldAt b 10 1
  let pen := fieldAt b 12 2
  let qs := fieldAt b 16 32
  if root % 65536 ≠ 0 ∨ fld root 52 12 ≠ 0 ∨ root / 2 ^ 48 = 8 ∨ fieldAt b 8 2 = 0 ∨ 8 ≤ flags ∨ !zerosAt b 11 1 ∨ pen = 0xFFFF ∨
      !zerosAt b 14 2 ∨ fieldAt b 56 8 % 4096 ≠ 0 ∨
      ((List.range 256).any fun q => qs.testBit q && (s.queue q).ctx.isSome) then none
  else some
    { st := .live
      root := root
      tenant := fieldAt b 8 2
      det := bit flags 0
      priv := bit flags 1
      diag := bit flags 2
      penmax := if pen = 0 then 64 else pen
      queues := qs
      trap := fieldAt b 48 8
      notices := fieldAt b 56 8 }

def CtxSt.isFree (x : CtxSt) : Bool := x == .free

def State.ctxFree (s : State) (c : Nat) : Bool := (s.ctx c).st.isFree

/-- A context is created from its descriptor: its id, or −1 where none is free, −2 where the descriptor is malformed (R61,
R66). -/
def State.newContext (s : State) (b : List Byte) : State × Int :=
  match (List.range 64).find? fun c => s.ctxFree c with
  | none => (s, -1)
  | some c =>
    match s.parseCtx b with
    | none => (s, -2)
    | some x =>
      ((List.range 256).foldl (fun t q => if x.queues.testBit q then t.setQueue q { ctx := some c } else t) (s.setCtx c x), c)

/-- The state of a context as CTX.SW and CTX.END code it (R66). -/
def CtxSt.code (x : CtxSt) : Nat :=
  match x with
  | .free => 0
  | .live => 1
  | .suspended => 2
  | .ending => 3

/-- A value that the manual leaves open (log 11). -/
def State.takeFree (s : State) (k : BitVec 128 → State → State) : State :=
  k (Config.freeValue s.freeNo) { s with freeNo := s.freeNo + 1 }

/-- A notice whose detail the manual does not give. -/
def State.openNotice (s : State) (c kind unit : Nat) : State := s.takeFree fun v s => s.postNotice c kind unit (v.toNat % 2 ^ 32)

/-- Groups of a context are to be pre-empted. -/
def State.preemptCtx (s : State) (c : Nat) : State :=
  { s with groups := Tbl.mapVals s.groups fun x =>
      if x.isPlaced && (s.kernel x.kernel).ctx == c then { x with preempt := .now } else x }

/-- The queues of a context are not ready from now on: their pass counts return to 0 (R75). -/
def State.clearPass (s : State) (c : Nat) : State :=
  { s with disp := { s.disp with queues := Tbl.mapVals s.disp.queues fun q => if q.ctx = some c then { q with pass := 0 } else q } }

/-- The suspension of a live context (R61). -/
def State.suspendCtx (s : State) (c : Nat) : State :=
  if (s.ctx c).st = .live then
    (((s.modCtx c fun x => { x with st := .suspended }).clearPass c).preemptCtx c).openNotice c 0x82 0xFFFF
  else s

/-- The resumption of a suspended context (R61). -/
def State.resumeCtx (s : State) (c : Nat) : State :=
  if (s.ctx c).st = .suspended then (s.modCtx c fun x => { x with st := .live }).openNotice c 0x82 0xFFFF else s

/-! ## Kernels that fail (R79, R83, R273) -/

/-- Stops every group of a kernel, unsaved: every group stands at an instruction boundary between two steps. -/
def State.stopKernel (s : State) (k : Nat) : State :=
  s.groups.foldl (fun t e => if e.2.kernel = k ∧ !e.2.isEnded then t.stopGroup e.1 else t) s

/-- EXIT.K and FQ.DONE in fail mode: the notice, unless the kernel was failing already; the kernel fails; its groups stop. -/
def State.exitKernel (s : State) (k code : Nat) : State :=
  if !Tbl.has s.disp.kernels k then s
  else
    let K := s.kernel k
    if K.st = .complete ∨ K.st = .failed then s
    else
      let t := if K.st.canFail then (s.postNotice K.ctx code 0xFFFF (k % 2 ^ 32)).failKernel k code else s
      t.stopKernel k

/-- A kernel fails because the kernel it depends on failed (R79). -/
def State.passFail (s : State) (k dep : Nat) : State :=
  let K := s.kernel k
  let code := (s.kernel dep).code
  if K.st.canFail then
    let t := if code = 0 then s else s.postNotice K.ctx code 0xFFFF (dep % 2 ^ 32)
    t.failKernel k code
  else s

/-! ## Invalidations (R268, R269) -/

def Leaf.dropped (l : Leaf) (c va : Option Nat) : Bool :=
  match c, va with
  | none, _ => true
  | some c, none => l.ctx == c
  | some c, some v => l.covers c v

/-- The accesses of a context that a die has outstanding: loads without data, and writes and engine operations, those of groups that
have exited among them (R268). -/
def State.outstanding (s : State) (c : Option Nat) (d : Nat) : List (Nat × Nat × Nat) × List (Nat × Nat) :=
  let ours (k : Nat) : Bool := c == none || c == some k
  let gs := s.groups.filter fun e => unitDie e.2.unit == d && ours (s.kernel e.2.kernel).ctx
  let rs := gs.flatMap fun e => e.2.waves.flatMap fun w =>
    (w.2.results.filter fun r => (!r.reqs.isEmpty && !r.hasData) || !r.pas.isEmpty).map fun r => (d, e.1, r.id)
  let ws := ((s.memory.writes.filter fun x => unitDie x.unit == d && ours x.ctx && x.scratchOf.isNone && !x.isMsg).map GWrite.id)
  let es := gs.flatMap fun e =>
    e.2.tapOps.map TapOp.id ++
    ((s.core e.2.unit).mxq.filter fun o => o.group == e.1 && !o.places.isEmpty).map MxOp.id ++
    ((s.core e.2.unit).drains.filter fun o => o.group == e.1).map Drain.id
  (rs, (ws ++ es).map fun i => (d, i))

/-- Sends an invalidation to every compute die: each drops the matching leaves at once. -/
def State.sendInval (s : State) (c va : Option Nat) : State :=
  let ds := List.range 8
  let os := ds.map (s.outstanding c)
  let t := ds.foldl (fun t d => t.modDie d fun x => { x with tlb := x.tlb.filter fun l => !l.dropped c va }) s
  let v : Inval :=
    { id := s.nextId, ctx := c, va := va, dies := ds, since := s.now
      results := os.flatMap Prod.fst, writes := os.flatMap Prod.snd }
  { t.fresh with invals := t.invals ++ [v] }

/-! ## The end of a context (R61) -/

/-- The engines of a group are cancelled, and their range locks released. -/
def State.cancelEngines (s : State) (g : Nat) : State :=
  (s.modGroup g fun y => { y with copies := [], tapOps := [], tapWork := none, locks := [] }).modCore (s.group g).unit fun c => { c with
    mxq := c.mxq.filter fun o => o.group != g
    drains := c.drains.filter fun o => o.group != g
    portWork := c.portWork.filter fun h => h != g }

/-- A live or suspended context starts ending: its groups stop, its engines are cancelled, those of exited groups among them, its
fault queue is emptied. A write that waited in that queue is performed nowhere (log 42); a version of a hold stays, and becomes
visible once its frame is frozen no longer (R61). -/
def State.endCtx (s : State) (c : Nat) : State :=
  let x := s.ctx c
  if x.st = .live ∨ x.st = .suspended then
    let t := s.modCtx c fun x => { x with st := .ending, endPrev := x.st.code, fq := [] }
    let ks := ((s.disp.kernels.filter fun e => e.2.ctx == c).map Prod.fst)
    let t := ks.foldl (fun t k => (t.failKernel k 0).stopKernel k) t
    let t := (t.groups.filter fun e => ks.contains e.2.kernel).foldl (fun t e => t.cancelEngines e.1) t
    let gone (w : GWrite) : Bool := w.ctx == c && (w.held || w.isContrib)
    let t := (t.memory.writes.filter gone).foldl (fun t w => if w.seq.isSome then t.setFlow w.flowKey
      { t.flow w.flowKey with unacked := (t.flow w.flowKey).unacked - 1 } else t) t
    let t := { t with
      txs := t.txs.filter fun y => y.ctx != c
      pod := { t.pod with waiting := t.pod.waiting.filter fun x => !(x.src == t.mod && x.ctx == c) }
      disp := { t.disp with
        queues := Tbl.mapVals t.disp.queues fun q => if q.ctx = some c then { q with cmds := [], pass := 0 } else q
        launches := t.disp.launches.filter fun m => m.ctx != c
        mbxMsgs := t.disp.mbxMsgs.filter fun m => m.ctx != c }
      memory := { t.memory with
        writes := t.memory.writes.filter fun w => !gone w
        pending := t.memory.pending.map fun (e : Nat × Nat × Version) =>
          if e.2.2.ctx = c then (e.1, e.2.1, { e.2.2 with held := false }) else e } }
    let t := (s.memory.writes.filter gone).foldl State.tellDropped t
    let id := t.nextId
    (t.sendInval (some c) none).modCtx c fun x => { x with inval := some id }
  else s

/-! ## Launch packets (R70, R71) and images (R321) -/

/-- The packet of 64 bytes; none where a reserved bit is set or a limit of R70 is broken. -/
def parsePacket (b : List Byte) : Option Packet :=
  let flags := fieldAt b 14 1
  let prod := bit flags 2
  let p : Packet :=
    { code := fieldAt b 0 8, ngx := fieldAt b 8 2, ngy := fieldAt b 10 2, gang := fieldAt b 12 1, dies := fieldAt b 13 1
      concurrent := bit flags 0, tracked := bit flags 1, hasProducer := prod, args := fieldAt b 16 8
      producer := fieldAt b 24 8, a00 := sfieldAt b 32, a01 := sfieldAt b 34, a10 := sfieldAt b 36, a11 := sfieldAt b 38
      cx := sfieldAt b 40, cy := sfieldAt b 42, ex := fieldAt b 44 1, ey := fieldAt b 45 1 }
  if p.ngx = 0 ∨ p.ngy = 0 ∨ p.gang = 0 ∨ 4 < p.gang ∨ p.dies = 0 ∨ 4 ≤ p.dies ∨ 8 ≤ flags ∨ !zerosAt b 15 1 ∨
      !zerosAt b 46 18 then none
  else if prod then (if p.ex = 0 ∨ p.ey = 0 then none else some p)
  else if !zerosAt b 24 22 then none
  else some p

/-- A name of at most 63 bytes, padded with zero bytes. -/
def nameOk (b : List Byte) : Bool := ((b.drop 64).take 64).getLastD 1 == 0 &&
  ((((b.drop 64).take 64).dropWhile fun x => x != 0).all fun x => x == 0)

/-- The descriptor and image header that a code address names, with the limits of R321 on their fields checked; none where one fails,
or a read of them. -/
def State.imageAt (s : State) (c code : Nat) : Option Image :=
  match s.dxRead c code 128 with
  | none => none
  | some d =>
    let off := fieldAt d 0 8
    let base := code - off
    if code < off ∨ base % 65536 ≠ 0 then none
    else
      match s.dxRead c base 64 with
      | none => none
      | some h =>
        let k := fieldAt h 6 2
        let codeOff := fieldAt h 8 8
        let words := fieldAt h 16 8
        let mapOff := fieldAt h 24 8
        let tab := fieldAt h 32 8
        let dataOff := fieldAt h 40 8
        let entry := fieldAt d 8 4
        let scr := fieldAt d 12 4
        let regs := fieldAt d 16 1
        let waves := fieldAt d 17 1
        let flags := fieldAt d 18 1
        let n := fieldAt d 20 4
        let eoff := fieldAt d 24 8
        if fieldAt h 0 4 ≠ 0x3758414E ∨ fieldAt h 4 2 ≠ 1 ∨ k = 0 ∨ 256 < k ∨ codeOff = 0 ∨ codeOff % 65536 ≠ 0 ∨
            words = 0 ∨ 2 ^ 28 < words ∨ mapOff % 8 ≠ 0 ∨ tab % 128 ≠ 0 ∨ dataOff % 65536 ≠ 0 ∨
            dataOff < codeOff + 4 * words ∨ !zerosAt h 56 8 then none
        else if off < tab ∨ 128 * k ≤ off - tab ∨ (off - tab) % 128 ≠ 0 ∨ words ≤ entry ∨ scr % 4 ≠ 0 ∨ 261632 < scr ∨
            regs < 16 ∨ 128 < regs ∨ regs % 8 ≠ 0 ∨ waves = 0 ∨ 32 < waves ∨ 2 ≤ flags ∨ 4096 < n ∨ eoff % 8 ≠ 0 ∨
            (n = 0 ∧ eoff ≠ 0) ∨ !zerosAt d 32 32 ∨ !nameOk d ∨ (flags = 1 ∧ 16 < waves) then none
        else some
          { base := base, desc := off, codeOff := codeOff, codeWords := words, mapOff := mapOff, dataOff := dataOff
            entry := entry, scratch := scr, regs := regs, waves := waves, det := flags == 1, entries := n, entryOff := eoff }

/-- The header-map byte of an image's entry. -/
def Image.entryMap (i : Image) : Nat := i.base + i.mapOff + i.entry / 8

/-- The image that a code address names; none where a limit of R321 fails, its entry being a header among them, or a read. -/
def State.readImage (s : State) (c code : Nat) : Option Image :=
  match s.imageAt c code with
  | none => none
  | some i =>
    match s.dxRead c i.entryMap 1 with
    | none => none
    | some m => if bit (leNat m) (i.entry % 8) then some i else none

/-- The reads of an image meet the stored errors of the lines they read: of the descriptor, of the image header, and of the header map
(R13). -/
def State.touchImage (s : State) (c code : Nat) : State :=
  let t := s.dxTouch c code 128
  match s.dxRead c code 128 with
  | some d =>
    if code < fieldAt d 0 8 ∨ (code - fieldAt d 0 8) % 65536 ≠ 0 then t
    else
      let t := t.dxTouch c (code - fieldAt d 0 8) 64
      match s.imageAt c code with
      | some i => t.dxTouch c i.entryMap 1
      | none => t
  | none => t

/-- The packet and image of a launch on a context's queue; none where the packet is malformed (R71, R98). -/
def State.readLaunch (s : State) (c : Nat) (b : List Byte) : Option (Packet × Image) :=
  match parsePacket b with
  | none => none
  | some p =>
    match s.readImage c p.code with
    | none => none
    | some i =>
      if ((s.ctx c).det && 16 < i.waves) || (p.hasProducer && p.producer / 2 ^ 56 != c) then none else some (p, i)

/-! ## Acceptance (R72, R78, R79, R83) -/

/-- Commands that a queue holds, its armed kernels included (R68). -/
def State.queueLen (s : State) (q : Nat) : Nat :=
  (s.queue q).cmds.length + (s.disp.kernels.filter fun e => e.2.queue == q && e.2.st == .armed).length

/-- The 4 MiB pool of completion bitmaps (R78). -/
def poolSize : Nat := 4194304

/-- Accepts a launch: the identifier of R72, the bitmap, the dependences, and a failure that is inherited. A producer identifier
that names no kernel counts as complete (R77; DESIGN CHOICE, log 43). -/
def State.accept (s : State) (c q : Nat) (p : Packet) (i : Image) (gen jseq : Nat) (pod : Option PodStart)
    (waits : List Nat) : State × Nat :=
  let Q := s.queue q
  let n := Q.count + 1
  let id := c * 2 ^ 56 + q * 2 ^ 48 + n
  let bytes := if p.tracked then ceilDiv (p.ngx * p.ngy) 8 else 0
  let tracked := p.tracked && s.disp.pool + bytes ≤ poolSize
  let pred := if p.concurrent then none else Q.last
  let K : Kernel :=
    { ctx := c, queue := q, st := if pod.isSome then .armed else .queued, code := 0, pkt := p, img := i, gen := gen
      tracked := tracked, poolBytes := if tracked then bytes else 0, pred := pred
      prodDone := p.hasProducer && (!Tbl.has s.disp.kernels p.producer || (s.kernel p.producer).st == .complete)
      jseq := jseq, pod := pod, waitWrites := waits }
  let inst := s.disp.installs.find? fun x => x.queue == q && !x.complete && x.old == p.code
  let K := match inst with
    | some x => { K with install := some x.id, newImg := some x.img }
    | none => K
  let t := (s.setKernel id K).setQueue q { Q with
    count := n
    last := some id
    cmds := if pod.isSome then Q.cmds else Q.cmds ++ [id] }
  let t := { t with disp := { t.disp with pool := t.disp.pool + K.poolBytes } }
  let inherit (t : State) (d : Nat) : State := if (s.kernel d).st = .failed then t.passFail id d else t
  let t := match pred with
    | some d => inherit t d
    | none => t
  let t := if p.hasProducer then inherit t p.producer else t
  (t, id)

end Sys2Proof.Machine
end

