-- ==== Sys2Proof/Machine/Power.lean ====
section
/-! DEFINITION. Hours in service, lifetime counters (R304), snuff records (R299) and orderly shutdown (R324), as several events
use them. -/

namespace Sys2Proof.Machine

/-- Hours in service of the module (R304). -/
def State.hours (s : State) : Nat := s.lamp.hours0 + s.now / 3600000000000

/-- The lifetime counters as they stand (R304). -/
def State.lifetime (s : State) : Lifetime :=
  { hours := s.hours
    scores := s.lamp.units.map fun e => (e.1, e.2.score)
    peaks := s.lamp.units.map fun e => (e.1, e.2.peak)
    corrections := s.lamp.units.map fun e => (e.1, e.2.corr1, e.2.corr16, e.2.corr64)
    retired := s.lamp.retirements
    excursions := s.lamp.excursions }

/-- The lifetime counters are written to flash. -/
def State.writeLifetime (s : State) : State := { s with flash := { s.flash with life := s.lifetime } }

/-- The management cores run: a module that boot has halted still takes messages (R325). -/
def BootSt.powered (b : BootSt) : Bool :=
  match b with
  | .off => false
  | .verifying => true
  | .training => true
  | .timing => true
  | .starting => true
  | .ready => true
  | .halted _ => true

def BootSt.isReady (b : BootSt) : Bool := b == .ready

/-- The time unit exchanges messages from the state timing on (R325). -/
def BootSt.timed (b : BootSt) : Bool :=
  match b with
  | .off => false
  | .verifying => false
  | .training => false
  | .timing => true
  | .starting => true
  | .ready => true
  | .halted _ => false

/-- A reading of a die's hottest sensor. Each span in which it exceeds 105 °C is one excursion (R304, R324). -/
def State.excursionAt (s : State) (d eighths : Nat) : State :=
  let l := { s.lamp with warm := if 760 < eighths then Tbl.set s.lamp.warm d s.now else s.lamp.warm }
  if 840 < eighths then
    if l.excursion.contains d then { s with lamp := l }
    else { s with lamp := { l with
      excursion := l.excursion ++ [d]
      excursions := Tbl.set l.excursions d (Tbl.getD l.excursions d 0 + 1) } }
  else { s with lamp := { l with excursion := l.excursion.filter fun x => x != d } }

/-- Orderly shutdown (R324): kernels stop unsaved, the lifetime counters are written, and the module is off. -/
def State.shutdown (s : State) : State :=
  if s.boot.powered then
    let t := s.groups.foldl (fun t e => if e.2.isEnded then t else t.stopGroup e.1) s
    let t := (Tbl.keys t.disp.kernels).foldl (fun t k => t.failKernel k 0) t
    { t.writeLifetime with boot := .off }
  else s

end Sys2Proof.Machine
end

