-- ==== Sys2Proof/Machine/Clock.lean ====
section
/-! DEFINITION. Pod time: the passing of time (R238, R240, R241), sync requests and replies (R238), the clock's states (R239),
the oscillator monitors (R241). -/

namespace Sys2Proof.Machine

/-! ## The passing of time -/

/-- The counts that a timer of a stated length takes: 0.05 % more from the backup oscillator (R241). -/
def State.timerLen (s : State) (n : Nat) : Nat := if s.time.onBackup then n + ceilDiv n 2000 else n

/-- A timer of `n` ns that began at `since` has run out. -/
def State.passed (s : State) (since n : Nat) : Bool := since + s.timerLen n ≤ s.now

def Tclk.isDark (x : Tclk) : Bool := x == .dark

/-- Dark timers of the held entries (R245). -/
def Core.addDark (c : Core) (n : Nat) : Core := { c with hold := c.hold.map fun h => { h with darkFor := h.darkFor + n } }
def Core.startDark (c : Core) : Core := { c with hold := c.hold.map fun h => { h with darkFor := 0 } }

/-- The clock goes dark: lo freezes, hi is all ones, the masters are asked for attestations, dark timers start (R239). -/
def State.goDark (s : State) : State :=
  if s.time.tclk.isDark then s
  else
    let t := s.time
    { s with
      time := { t with tclk := .dark, loA := t.lo, hiA := 2 ^ 64 - 1, delta := 0, ref := t.refVal }
      cores := Tbl.mapVals s.cores Core.startDark
      host := { s.host with out := .attestAsk :: s.host.out } }

/-- `n` counts of the counting oscillator pass. ε never exceeds 0xFFFE: the clock goes dark instead (R239). -/
def State.elapse (s : State) (n : Nat) : State :=
  let t := s.time
  if t.tclk.isDark then
    { s with
      now := s.now + n
      time := { t with osc := if t.refOk then t.osc + n else t.osc, silent := t.silent + n, ref := t.ref + n }
      cores := Tbl.mapVals s.cores fun c => c.addDark n }
  else
    let u : State := { s with
      now := s.now + n
      time := { t with osc := if t.refOk then t.osc + n else t.osc, silent := t.silent + n, delta := t.delta + n } }
    if 0xFFFE < u.time.eps then u.goDark else u

/-! ## Sync (R238, R239) -/

/-- SYNC_REQUEST: a request leaves for the master of a plane. -/
def execSyncRequest (plane : Fin 6) (s : State) : Out :=
  .next (
    if s.boot.timed then { s with
      time := { s.time with reqs := Tbl.set s.time.reqs plane.val s.time.osc }
      host := { s.host with out := .sync plane.val :: s.host.out } }
    else s)

/-- The interval after a reply is combined with it: lo, hi with hi − lo even; none where the intervals do not meet. -/
def combine (lo hi tm em d : Nat) : Option (Nat × Nat) :=
  let lo' := tm - em
  let hi' := tm + d + em
  if hi < lo' ∨ hi' < lo then none
  else
    let l := max lo lo'
    some (l, l + 2 * ceilDiv (min hi hi' - l) 2)

/-- A rejected reply counts as missed and changes nothing else. -/
def TimeUnit.miss (t : TimeUnit) : TimeUnit := { t with missed := t.missed + 1 }

/-- SYNC_REPLY. A reply can be accepted only while the reference oscillator counts (R241). -/
def execSyncReply (plane : Fin 6) (tm em : Nat) (s : State) : Out :=
  .next (
    let t := s.time
    match Tbl.get? t.reqs plane.val with
    | none => s
    | some c =>
      if !s.boot.timed then s
      else
        let t := { t with reqs := Tbl.del t.reqs plane.val }
        let d := t.osc - c
        match (if 2000 < d ∨ !t.refOk then none else combine t.lo t.hi tm em d) with
        | none => { s with time := t.miss }
        | some (lo, hi) =>
          let e := (hi - lo) / 2
          if 0xFFFE < e then ({ s with time := { t with ref := t.refVal, loA := lo, hiA := hi, delta := 0 } } : State).goDark
          else { s with
            time := { t with
              ref := t.refVal
              loA := lo
              hiA := hi
              delta := 0
              silent := 0
              onBackup := false
              tclk := if e ≤ 255 then .healthy else .degraded }
            boot := if s.boot = .timing then .starting else s.boot })

/-- HOLDOVER_TIMEOUT: no reply accepted for 50 µs, or ε > 255. -/
def execHoldoverTimeout (s : State) : Out :=
  .next (
    if s.time.tclk = .healthy ∧ (s.timerLen 50000 ≤ s.time.silent ∨ 255 < s.time.eps) then
      { s with time := { s.time with tclk := .degraded } }
    else s)

/-- DARK_TRANSITION: no reply accepted for 1 ms, a failed oscillator, or ε at its limit. -/
def execDarkTransition (s : State) : Out :=
  .next (
    if s.timerLen 1000000 ≤ s.time.silent ∨ !s.time.refOk ∨ 0xFFFE < s.time.eps then s.goDark else s)

/-- CLOCK_ATTESTATION: while dark, lo rises to the attested lo; an armed kernel whose T_s it passes has its attestation (R93). -/
def execClockAttestation (lo : Nat) (s : State) : Out :=
  .next (
    if s.time.tclk.isDark then { s with
      time := { s.time with loA := max s.time.loA (min lo (2 ^ 64 - 1)) }
      disp := { s.disp with kernels := Tbl.mapVals s.disp.kernels fun k =>
        { k with pod := k.pod.map fun p => { p with attested := p.attested || p.startT.any fun t => decide (t < lo) } } } }
    else s)

/-! ## Oscillator monitors (R241) -/

/-- Both oscillators have failed: orderly shutdown, and a report through the management interface (R241, R324; log 52). -/
def State.oscillatorsFail (s : State) : State :=
  let t := s.shutdown
  if s.boot.powered then { t with host := { t.host with out := .oscillators :: t.host.out } } else t

/-- OSCILLATOR_MONITOR_FAIL: of the reference, or of the backup. -/
def execOscillatorMonitorFail (backup : Bool) (s : State) : Out :=
  .next (
    if backup then
      let t : State := { s with time := { s.time with backOk := false } }
      if s.time.refOk then t else t.oscillatorsFail
    else
      let t : State := { s with time := { s.time with refOk := false, onBackup := s.time.backOk, reqs := [] } }
      let t := t.goDark
      if s.time.backOk then t else t.oscillatorsFail)

/-- OSCILLATOR_MONITOR_PASS: the reference passes again; counting returns to it at the next accepted reply. A request that left while it
had failed has no count to measure its reply by, and is forgotten (R238, R239; log 18). -/
def execOscillatorMonitorPass (s : State) : Out :=
  .next (if s.time.refOk then s else { s with time := { s.time with refOk := true, reqs := [] } })

end Sys2Proof.Machine
end

