-- ==== Sys2Proof/Machine/Channel.lean ====
section
/-! DEFINITION. The order of writes at one place (R185, R187), virtual channels and deficit round robin (R284), reads of other modules'
lines (R193, R282, R284). -/

namespace Sys2Proof.Machine

/-! ## The order at one place (R185, R187) -/

/-- Two writes stand at one place (R185). -/
def State.samePlace (s : State) (x y : GWrite) : Bool :=
  x.stage == y.stage && x.scratchOf == y.scratchOf &&
  (match x.stage with
   | .store => x.group == y.group && x.wave == y.wave
   | .group => x.group == y.group
   | .gang => (s.group x.group).kernel == (s.group y.group).kernel && (s.group x.group).gang == (s.group y.group).gang
   | .die => unitDie x.unit == unitDie y.unit && x.ctx == y.ctx
   | .module => x.ctx == y.ctx
   | .flow => x.home / 512 == y.home / 512 && x.ctx == y.ctx)

/-- No older write to a byte it covers stands at the same place; a hold's message stays behind the older ones of its flow (R245,
R248). -/
def State.mayMove (s : State) (x : GWrite) : Bool :=
  let cov := x.covers
  (s.memory.writes.takeWhile fun y => y.id != x.id).all fun y =>
    !(s.samePlace x y && ((x.isMsg && y.isMsg && x.flowKey == y.flowKey) || y.covers.any fun b => cov.contains b))

/-! ### Virtual channels (R284) -/

/-- The channel pair of a link that is assigned to a context's tenant. -/
def State.channelOf (s : State) (l c : Nat) : Option Nat :=
  (List.range 64).find? fun p =>
    match Tbl.get? s.pod.vcs (64 * l + p) with
    | some v => v.tenant == (s.ctx c).tenant
    | none => false

/-- Bytes of a message's payload: a message of a hold carries the versions of its home, or none. -/
def State.payloadOf (s : State) (x : GWrite) : Nat :=
  match x.payld with
  | .msg (.versions u id h) =>
    64 * ((((s.core u).hold.filter fun e => e.id == id).flatMap Hold.vers).filter fun v => homeOf v.slot == h).length
  | .msg _ => 0
  | .bytes _ => x.covers.length
  | .atomic _ _ _ => x.covers.length
  | .contrib _ => x.covers.length

/-- A message's flits, of 64 bytes of payload each (R279), and its size, the payload rounded up to 64 bytes (R284). -/
def State.flits (s : State) (x : GWrite) : Nat := max 1 (ceilDiv (s.payloadOf x) 64)
def State.sizeOf (s : State) (x : GWrite) : Nat := 64 * ceilDiv (s.payloadOf x) 64

def Stage.isModule (x : Stage) : Bool := x.rank == 4

/-- A module's write to another module, or its message, can be sent: an up link reaches the receiver. -/
def State.canSend (s : State) (x : GWrite) : Bool := if x.isContrib then s.anyLink else s.reaches (homeModule x.home)

/-- A message that has still to leave its core's die: a dusk hold's, SNAP's, an engine's contribution. A frontier is the module's (R248). -/
def GWrite.ofCore (x : GWrite) : Bool :=
  match x.payld with
  | .msg (.frontier _) => false
  | .msg _ => true
  | .contrib _ => x.engine
  | .bytes _ => false
  | .atomic _ _ _ => false

/-- A write of the module queue has come to its port: nothing but its channel's turn holds it back, neither the bridges and the order
of R187 nor the limit of R282. -/
def State.atPortOf (s : State) (x : GWrite) : Bool :=
  x.stage.isModule && !x.held && s.canSend x && s.mayMove x && (!x.ofCore || s.bridgeOk x.unit x.home) && (s.flow x.flowKey).unacked < 4096

/-- What waits for a channel of a link, oldest first: channel 2 × pair carries the requests, the next one the responses. Of each the number
and the size in bytes. -/
def State.waitingOn (s : State) (l q : Nat) : List (Nat × Nat) :=
  if q % 2 = 0 then
    (s.memory.writes.filter fun x => s.atPortOf x && (s.flow x.flowKey).link == some l && s.channelOf l x.ctx == some (q / 2)).map fun x =>
      (x.id, s.sizeOf x)
  else
    (s.pod.responses.filter fun x => x.link == some l && s.channelOf l x.ctx == some (q / 2)).map fun x =>
      (x.id, 64 * ceilDiv x.bytes.length 64)

def State.modChannel (s : State) (l p : Nat) (f : VChannel → VChannel) : State :=
  { s with pod := { s.pod with vcs := Tbl.set s.pod.vcs (64 * l + p) (f (Tbl.getD s.pod.vcs (64 * l + p) {})) } }

def State.modLink (s : State) (l : Nat) (f : Link → Link) : State :=
  { s with pod := { s.pod with links := Tbl.set s.pod.links l (f (Tbl.getD s.pod.links l {})) } }

/-- The deficit of a channel. -/
def State.deficit (s : State) (l q : Nat) : Nat :=
  let v := Tbl.getD s.pod.vcs (64 * l + q / 2) {}
  if q % 2 = 0 then v.deficit else v.back

def State.setDeficit (s : State) (l q n : Nat) : State :=
  s.modChannel l (q / 2) fun v => if q % 2 = 0 then { v with deficit := n } else { v with back := n }

/-- The visit of a channel is over: the next one is visited next. -/
def State.endVisit (s : State) (l q : Nat) : State := s.modLink l fun k => { k with turn := (q + 1) % 128, inVisit := false }

/-- Deficit round robin at a link: the message that goes next (R284). A channel with messages is credited once in each round, sends
while its deficit lasts, and keeps no deficit when nothing waits. `load` is the channel in which the request of a load waits, of number
0 and without payload. -/
def drr (l : Nat) (load : Option Nat) : Nat → State → State × Option Nat
  | 0, s => (s, none)
  | fuel + 1, s =>
    let k := Tbl.getD s.pod.links l {}
    let q := k.turn
    match (if load = some q then [(0, 0)] else []) ++ s.waitingOn l q with
    | [] => drr l load fuel ((s.setDeficit l q 0).endVisit l q)
    | m :: rest =>
      let s := if k.inVisit then s
        else (s.setDeficit l q (s.deficit l q + 64 * (Tbl.getD s.pod.vcs (64 * l + q / 2) {}).weight)).modLink l fun k => { k with inVisit := true }
      if m.2 ≤ s.deficit l q then
        (if rest.isEmpty then (s.setDeficit l q 0).endVisit l q else s.setDeficit l q (s.deficit l q - m.2), some m.1)
      else drr l load fuel (s.endVisit l q)

/-- A message of a context is the next one of its link; a tenant without a channel is not regulated. -/
def State.turnFor (s : State) (l c id : Nat) (load : Bool) : Option State :=
  match s.channelOf l c with
  | none => some s
  | some p =>
    let r := drr l (if load then some (2 * p) else none) 16384 s
    if r.2 = some id then some r.1 else none

/-- A request that is a write, or a message. -/
def State.turnOf (s : State) (l : Nat) (x : GWrite) : Option State := s.turnFor l x.ctx x.id false

/-- `n` flits of a message that belongs to no flow leave on a link that carries traffic: which, the manual leaves open (R280, log 15). -/
def State.putFlits (s : State) (n : Nat) : State :=
  match s.carrying with
  | [] => s
  | ls => ({ s with freeNo := s.freeNo + 1 } : State).sendFlits (ls.getD ((Config.freeValue s.freeNo).toNat % ls.length) 0) n

/-! ## Reads of other modules' lines (R193, R282, R284) -/

/-- A message on the unordered flow of a context touches a line of another module: what is sent now comes there after it (R193). -/
def State.lineInFlight (s : State) (ctx pa : Nat) : Bool :=
  s.memory.writes.any fun x => x.stage.rank == 5 && !x.isOrdered && x.ctx == ctx && x.home / 512 == homeOf pa / 512 &&
    (match x.payld with
     | .bytes cs => cs.any fun c => lineOf c.1 == lineOf pa
     | .atomic _ _ ls => ls.any fun l => lineOf l.2.1 == lineOf pa
     | .contrib _ => false
     | .msg _ => false)

/-- The request of a load of remote addresses of one home leaves: one message of the context's unordered flow, without payload, which
takes a number and one flit on the flow's link. -/
def State.putRead (s : State) (l k : Nat) : State := (s.setFlow k (s.flow k).count).sendFlits l 1

/-- It leaves in its channel's turn; none where another message goes first (R193, R280, R282, R284). -/
def State.sendRead (s : State) (ctx h : Nat) : Option State :=
  let k := flowKey (homeModule h) ctx false
  let r := s.flowLink k
  (r.1.turnFor r.2 ctx 0 true).map fun t => t.putRead r.2 k

/-- Reads of these places wait: a message ahead on their flow touches one of their lines (R193), 4,096 of it are unacknowledged
(R282), or it is another channel's turn (R284). -/
def State.readsHeld (s : State) (ctx : Nat) (pas : List Nat) : Bool :=
  pas.any fun pa => s.lineInFlight ctx pa || (s.admits pa &&
    (4096 ≤ (s.flow (flowKey (homeModule (homeOf pa)) ctx false)).unacked || (s.sendRead ctx (homeOf pa)).isNone))

/-- Reads of these remote addresses are sent, one message for each home; the further ones of one step do not wait for a turn of their own
(DESIGN CHOICE, log 63). Where no up link reaches the module nothing is sent (R12). -/
def State.countReads (s : State) (ctx : Nat) (pas : List Nat) : State :=
  (((pas.filter s.admits).map homeOf).eraseDups).foldl (fun t h =>
    (t.sendRead ctx h).getD
      (let k := flowKey (homeModule h) ctx false
       let r := t.flowLink k
       r.1.putRead r.2 k)) s

end Sys2Proof.Machine
end

