-- ==== Sys2Proof/Machine/Flags.lean ====
section
/-! DEFINITION. The `%fxf` rules of vector instructions (R49, R130): flags come from the lanes of exec alone and are ORed in at
issue; conditions of R30; the random number generator (R151-R153) and the draws of stochastic rounding (R51). -/

namespace Sys2Proof.Machine

/-- A vector instruction that raises flags: results and flags lane by lane, in the lanes of exec (R129, R130). -/
def State.wrVF (s : State) (r : Nat) (f : Nat → Word × Flags) : State :=
  let xs := lanes.map fun l => if s.csp.exec.getLsbD l then f l else (0, 0)
  let fl := xs.foldl (fun (a : Flags) p => a ||| p.2) 0
  (s.wrV r fun l => (xs.getD l (0, 0)).1).orFlags fl

/-- Integer compare conditions (R30). -/
def intCond (c : Nat) (a b : Word) : Bool :=
  match c with
  | 0 => a == b
  | 1 => a != b
  | 2 => a.slt b
  | 3 => a.sle b
  | 4 => b.slt a
  | 5 => b.sle a
  | 6 => a.ult b
  | 7 => a.ule b
  | 8 => b.ult a
  | _ => b.ule a

/-- Scalar compare conditions eq, ne, lt, le, gt, ge, ltu, geu (R30). -/
def scalarCond (c : Nat) (a b : DWord) : Bool :=
  match c with
  | 0 => a == b
  | 1 => a != b
  | 2 => a.slt b
  | 3 => a.sle b
  | 4 => b.slt a
  | 5 => b.sle a
  | 6 => a.ult b
  | _ => b.ule a

/-- One round of the generator (R152). -/
def rngRounds : Nat → Word → Word → Word → Word → Word → Word → List Word
  | 0, x0, x1, x2, x3, _, _ => [x0, x1, x2, x3]
  | n + 1, x0, x1, x2, x3, k0, k1 =>
    let p := x0.toNat * 0xE817FB2D
    let q := x2.toNat * 0xA4C39E61
    let y0 := BitVec.ofNat 32 (q / 2 ^ 32) ^^^ x1 ^^^ k0
    let y1 := (BitVec.ofNat 32 q).rotateLeft 7
    let y2 := BitVec.ofNat 32 (p / 2 ^ 32) ^^^ x3 ^^^ k1
    let y3 := (BitVec.ofNat 32 p).rotateLeft 13
    rngRounds n y0 y1 y2 y3 (k0 + 0x7F4A7C15) (k1 + 0xF39CC061)

/-- block(key, ctr) (R152). -/
def rngBlock (key : DWord) (ctr : BitVec 128) : List Word :=
  rngRounds 10 (ctr.setWidth 32) ((ctr >>> 32).setWidth 32) ((ctr >>> 64).setWidth 32) ((ctr >>> 96).setWidth 32)
    (key.setWidth 32) ((key >>> 32).setWidth 32)

def Wave.laneBlock (x : Wave) (l n : Nat) : List Word :=
  let c := x.ctr.toList.getD l 0
  rngBlock (x.key.toList.getD l 0) ((c >>> 64) <<< 64 ||| (c.setWidth 64 + BitVec.ofNat 64 n : DWord).setWidth 128)

/-- `n` calls of every lane of `e`. -/
def Wave.bump (x : Wave) (e : Word) (n : Nat) : Wave :=
  { x with ctr := Vector.ofFn fun (i : Fin 32) =>
      let c := x.ctr.toList.getD i.val 0
      if e.getLsbD i.val then (c >>> 64) <<< 64 ||| (c.setWidth 64 + BitVec.ofNat 64 n : DWord).setWidth 128 else c }

end Sys2Proof.Machine
end

