-- ==== Sys2Proof/Machine/Memory.lean ====
section
/-! DEFINITION. Thread loads and stores (R159), LDK (R161), atomics (R162, R163), SIG (R182), FENCE (R183). -/

namespace Sys2Proof.Machine

/-- Adds an outstanding result of the current wave, counted on its counter (R20, R26). -/
def State.addResult (s : State) (r : Result) : State :=
  s.modW fun W => { W.addCount r.counter 1 with results := W.results ++ [r] }

/-- The byte requests of checked lanes. -/
def reqsOf (ps : List (Nat × Nat × List Place)) : List Req :=
  ps.flatMap fun p => p.2.2.zipIdx.map fun q => { lane := p.1, k := q.2, place := q.1 }

/-- A load: its bytes are read by READ and written to registers by RESULT_WRITE (R159). -/
def State.load (s : State) (scr : Bool) (kind : ResKind) (v : Nat) (ad : Addr) (q : Nat) : State :=
  let n := 4 * 2 ^ q
  s.checked (s.memCheck scr false n n .read anyLeaf (s.laneAddrs ad)) fun ps s =>
    (s.fresh.addResult
      { id := s.nextId, kind := kind, counter := .vmc, vregs := (List.range (2 ^ q)).map fun j => v + j
        lanes := s.csp.exec, reqs := reqsOf ps, region := s.regionNow }).retire

def execLdg (v : Fin 128) (ad : Addr) (q : Fin 4) (s : State) : Out := .next (s.load false (.load v.val) v.val ad q.val)
def execLdsp (v : Fin 128) (ad : Addr) (q : Fin 4) (s : State) : Out := .next (s.load true (.load v.val) v.val ad q.val)
def execLdk (v : Fin 128) (ad : Addr) (q : Fin 4) (s : State) : Out := .next (s.load false (.ldk v.val) v.val ad q.val)

/-- Enters the writes of a store in the wave's store buffer, or sends them to bank units, and counts them on VMC. -/
def State.storeWrites (s : State) (x : GWrite) (ws : List (Nat × Payld)) (sc : List (Nat × List (Nat × Byte))) : State :=
  if ws.isEmpty && sc.isEmpty then s
  else
    let t := s.addWrites x ws
    let t := sc.foldl (fun t e => t.addWrites { x with scratchOf := some e.1 } [(16777216 + e.1, .bytes e.2)]) t
    t.modW fun W => W.addCount .vmc 1

/-- The physical lines that lanes of `n` bytes cover whole (R286). -/
def wholeLines (pas : List Nat) (n : Nat) : List Nat :=
  ((pas.map lineOf).eraseDups).filter fun l => (List.range (64 / n)).all fun i => pas.contains (l + n * i)

/-- STG's leaves: unstamped, no window through a pod address; a window line only for its tenant and whole (R243, R286). -/
def State.stgOk (s : State) (whole : List Nat) (l : Leaf) (pa _ : Nat) : Bool :=
  !l.stamped && !s.remoteWin pa &&
  (match s.winAt pa with
   | none => true
   | some e => e.2.tenant == (s.ctx s.cctx).tenant && whole.contains (lineOf pa))

/-- The physical addresses of the lanes whose translation succeeds. -/
def State.lanePas (s : State) (las : List (Nat × Nat)) : List Nat :=
  las.filterMap fun p =>
    match s.xlate (unitDie s.cu) s.cctx p.2 .write with
    | .ok pa _ => some pa
    | .page _ _ _ => none
    | .prot _ => none
    | .refused => none

/-- STG (R159, R286). Where it faults or waits for a page it has not executed, and an open region stays open (R37, R123; log 83). -/
def execStg (v : Fin 128) (ad : Addr) (q : Fin 4) (s : State) : Out :=
  .next (
    let n := 4 * 2 ^ q.val
    let las := s.laneAddrs ad
    s.checked (s.memCheck false true n n .write (s.stgOk (wholeLines (s.lanePas las) n)) las) fun ps s =>
      let s := s.closeRegion
      let xs := ps.flatMap fun p => p.2.2.zip (s.laneData v.val (2 ^ q.val) p.1)
      let cells := globalCells xs
      let plain := cells.filter fun c => (s.winAt c.1).isNone
      let lines := linesOf (cells.filter fun c => (s.winAt c.1).isSome)
      let con := lines.map fun l =>
        (planeHome (s.planeAt l), Payld.contrib [(l, (List.range 64).map fun i =>
          ((cells.reverse.find? fun c => c.1 == l + i).map Prod.snd).getD 0)])
      let ws := (byHome plain).map fun e => (e.1, Payld.bytes e.2)
      (s.fresh.storeWrites { s.protoWrite s.nextId with counted := true, vas := pagePairs ps } (ws ++ con) []).retire)

/-- STSP (R159). -/
def execStsp (v : Fin 128) (ad : Addr) (q : Fin 4) (s : State) : Out :=
  .next (
    let n := 4 * 2 ^ q.val
    s.checked (s.memCheck true true n n .write anyLeaf (s.laneAddrs ad)) fun ps s =>
      let xs := ps.flatMap fun p => p.2.2.zip (s.laneData v.val (2 ^ q.val) p.1)
      (s.fresh.storeWrites { s.protoWrite s.nextId with counted := true } [] (scratchCells xs)).retire)

/-! ## Atomics (R162, R163) -/

/-- The addresses of the lanes of exec for an element of `w` bytes. -/
def State.laneAAddrs (s : State) (ad : AAddr) (w : Nat) : List (Nat × Nat) :=
  (maskLanes s.csp.exec).map fun l => (l, s.aaddr ad w l)

/-- The first place of a lane's bytes as an address, and its home. -/
def placeAddr (p : Place) : Nat :=
  match p with
  | .global pa => pa
  | .scratch _ o => o

/-- The operations of an atomic: 0-6 as the functions of R162, 7 fadd, 8 CAS. `acq` of the result is the acquire's scope code.
The operand of a lane is `w` bytes at `v`, CAS's new value the next `w` bytes. -/
def State.atomic (s : State) (op v : Nat) (ad : AAddr) (ty r p : Nat) : State :=
  let w := if ty < 2 then 4 else 8
  let scr := p = 1
  let las := s.laneAAddrs ad w
  let foreign := las.any fun x => 0x100000 ≤ x.2 && x.2 < 0x200000 &&
    (s.gangMate s.cur.g ((x.2 - 0x100000) / 0x40000)).any fun h => h != s.cur.g
  if op = 7 ∧ s.cg.det ∧ s.csp.exec ≠ 0 ∧ (p = 0 ∨ foreign) then s.raise cNondet
  else
    s.checked (s.memCheck scr true w w .readWrite s.plainStoreOk las) fun ps s =>
      let s := s.closeRegion
      let k := w / 4
      let lane (e : Nat × Nat × List Place) : Nat × Nat × Nat × Nat × Nat :=
        let h := placeHome (e.2.2.headD (.global 0))
        (h, e.1, placeAddr (e.2.2.headD (.global 0)), leNat (s.laneData v k e.1),
          if op = 8 then leNat (s.laneData (v + k) k e.1) else 0)
      let xs := ps.map lane
      let ws := ((xs.map fun x => x.1).eraseDups).map fun h => (h, Payld.atomic op ty ((xs.filter fun x => x.1 == h).map fun x => x.2))
      let id := s.nextId
      let x := { s.protoWrite id with rel := 2 ≤ r, result := some id, vas := pagePairs ps }
      let s := s.fresh.addResult
        { id := id, kind := .atomic v w (if r % 2 = 1 then (if scr then 2 else 1) else 0), counter := .vmc
          vregs := (List.range k).map fun j => v + j, lanes := s.csp.exec, reqs := reqsOf ps, region := s.regionNow }
      (ws.foldl (fun t e => t.addWrites (if scr then { x with scratchOf := some (e.1 - 16777216) } else x) [e]) s).retire

def execCas (v : Fin 128) (ad : AAddr) (t r : Fin 4) (p : Fin 2) (s : State) : Out := .next (s.atomic 8 v.val ad t.val r.val p.val)
def execAtomAdd (v : Fin 128) (ad : AAddr) (t r : Fin 4) (p : Fin 2) (s : State) : Out := .next (s.atomic 0 v.val ad t.val r.val p.val)
def execAtomMin (v : Fin 128) (ad : AAddr) (t r : Fin 4) (p : Fin 2) (s : State) : Out := .next (s.atomic 1 v.val ad t.val r.val p.val)
def execAtomMax (v : Fin 128) (ad : AAddr) (t r : Fin 4) (p : Fin 2) (s : State) : Out := .next (s.atomic 2 v.val ad t.val r.val p.val)
def execAtomAnd (v : Fin 128) (ad : AAddr) (t r : Fin 4) (p : Fin 2) (s : State) : Out := .next (s.atomic 3 v.val ad t.val r.val p.val)
def execAtomOr (v : Fin 128) (ad : AAddr) (t r : Fin 4) (p : Fin 2) (s : State) : Out := .next (s.atomic 4 v.val ad t.val r.val p.val)
def execAtomXor (v : Fin 128) (ad : AAddr) (t r : Fin 4) (p : Fin 2) (s : State) : Out := .next (s.atomic 5 v.val ad t.val r.val p.val)
def execAtomExch (v : Fin 128) (ad : AAddr) (t r : Fin 4) (p : Fin 2) (s : State) : Out := .next (s.atomic 6 v.val ad t.val r.val p.val)
def execAtomFadd (v : Fin 128) (ad : AAddr) (r : Fin 4) (p : Fin 2) (s : State) : Out := .next (s.atomic 7 v.val ad 0 r.val p.val)

/-! ## SIG (R182) and FENCE (R183) -/

/-- SIG: one word of the lowest lane of exec; with an empty exec nothing is stored and no counter changes. Its word waits for the
wave's earlier loads too, as R182 has every access (DEDUCED, log 64). -/
def execSig (v : Fin 128) (ad : Addr) (s : State) : Out :=
  .next (
    s.checked (s.memCheck false true 8 8 .write s.plainStoreOk ((s.laneAddrs ad).take 1)) fun ps s =>
      let s := s.closeRegion
      let xs := ps.flatMap fun p => p.2.2.zip (s.laneData v.val 2 p.1)
      let ws := (byHome (globalCells xs)).map fun e => (e.1, Payld.bytes e.2)
      (s.fresh.storeWrites
        { s.protoWrite s.nextId with
          counted := true, rel := true, podRel := true, sig := true, loads := s.cw.accessIds, vas := pagePairs ps } ws []).retire)

/-- FENCE: later memory instructions of the wave wait at issue until its condition holds. -/
def execFence (x : Fin 8) (ord : Fin 4) (s : State) : Out :=
  .next (
    let rel := 2 ≤ ord.val
    let acq := ord.val % 2 = 1
    let f : Fence := ⟨x.val, acq, rel, if rel then s.waveWrites s.cur.g s.cur.w else [], if acq then s.cw.loadIds else []⟩
    ((s.modW fun W => { W with fences := W.fences ++ [f] }).retire).settleFences s.cur.g s.cur.w)

end Sys2Proof.Machine
end

