-- ==== Sys2Proof/Machine/Scalar.lean ====
section
/-! DEFINITION. Masks and votes (R113), scalar instructions (R131, R132), special registers (R133). -/

namespace Sys2Proof.Machine

/-- A mask result (R113). -/
def State.maskResult (s : State) (d : Nat) (v : Word) : State := (s.wrM d v latScalar).retire

/-- A scalar result (R131, R132). -/
def State.scalarResult (s : State) (d : Nat) (v : DWord) : State := (s.wrS d v).retire

def boolVal (b : Bool) : DWord := if b then 1 else 0

/-! ## Masks -/

def execMand (d a b : Fin 8) (s : State) : Out := .next (s.maskResult d.val (s.rdM a.val &&& s.rdM b.val))
def execMor (d a b : Fin 8) (s : State) : Out := .next (s.maskResult d.val (s.rdM a.val ||| s.rdM b.val))
def execMxor (d a b : Fin 8) (s : State) : Out := .next (s.maskResult d.val (s.rdM a.val ^^^ s.rdM b.val))
def execMnot (d a : Fin 8) (s : State) : Out := .next (s.maskResult d.val (~~~(s.rdM a.val)))
def execMsav (d : Fin 8) (s : State) : Out := .next (s.maskResult d.val s.csp.exec)
def execMpopc (d : Fin 64) (a : Fin 8) (s : State) : Out :=
  .next (s.scalarResult d.val (BitVec.ofNat 64 (popcount (s.rdM a.val))))
def execVoteAny (d : Fin 64) (a : Fin 8) (s : State) : Out :=
  .next (s.scalarResult d.val (boolVal (s.rdM a.val &&& s.csp.exec != 0)))
def execVoteAll (d : Fin 64) (a : Fin 8) (s : State) : Out :=
  .next (s.scalarResult d.val (boolVal (s.rdM a.val &&& s.csp.exec == s.csp.exec)))
def execVoteBallot (d : Fin 64) (a : Fin 8) (s : State) : Out :=
  .next (s.scalarResult d.val ((s.rdM a.val &&& s.csp.exec).setWidth 64))

/-! ## Three-register scalar forms -/

def execSadd (d a b : Fin 64) (s : State) : Out := .next (s.scalarResult d.val (s.rdS a.val + s.rdS b.val))
def execSsub (d a b : Fin 64) (s : State) : Out := .next (s.scalarResult d.val (s.rdS a.val - s.rdS b.val))
def execSmul (d a b : Fin 64) (s : State) : Out := .next (s.scalarResult d.val (s.rdS a.val * s.rdS b.val))
def execSmulhI64 (d a b : Fin 64) (s : State) : Out :=
  .next (s.scalarResult d.val (BitVec.ofInt 64 ((s.rdS a.val).toInt * (s.rdS b.val).toInt / 2 ^ 64)))
def execSmulhN64 (d a b : Fin 64) (s : State) : Out :=
  .next (s.scalarResult d.val (BitVec.ofNat 64 ((s.rdS a.val).toNat * (s.rdS b.val).toNat / 2 ^ 64)))
def execSand (d a b : Fin 64) (s : State) : Out := .next (s.scalarResult d.val (s.rdS a.val &&& s.rdS b.val))
def execSor (d a b : Fin 64) (s : State) : Out := .next (s.scalarResult d.val (s.rdS a.val ||| s.rdS b.val))
def execSxor (d a b : Fin 64) (s : State) : Out := .next (s.scalarResult d.val (s.rdS a.val ^^^ s.rdS b.val))
def execScmp (d a b : Fin 64) (x : Fin 8) (s : State) : Out :=
  .next (s.scalarResult d.val (boolVal (scalarCond x.val (s.rdS a.val) (s.rdS b.val))))
def execSshl (d a b : Fin 64) (s : State) : Out := .next (s.scalarResult d.val (s.rdS a.val <<< ((s.rdS b.val).toNat % 64)))
def execSshr (d a b : Fin 64) (s : State) : Out := .next (s.scalarResult d.val (s.rdS a.val >>> ((s.rdS b.val).toNat % 64)))
def execSsra (d a b : Fin 64) (s : State) : Out :=
  .next (s.scalarResult d.val ((s.rdS a.val).sshiftRight ((s.rdS b.val).toNat % 64)))

/-- SSEL reads its destination as its condition, at issue. -/
def execSsel (d a b : Fin 64) (s : State) : Out :=
  .next (s.scalarResult d.val (if s.rdS d.val ≠ 0 then s.rdS a.val else s.rdS b.val))
def execSmov (d a : Fin 64) (s : State) : Out := .next (s.scalarResult d.val (s.rdS a.val))

/-! ## Immediate forms -/

def execSaddImm (d a : Fin 64) (im : SImm) (s : State) : Out := .next (s.scalarResult d.val (s.rdS a.val + simmVal im))
def execSandImm (d a : Fin 64) (im : SImm) (s : State) : Out := .next (s.scalarResult d.val (s.rdS a.val &&& simmVal im))
def execScmpImm (d a : Fin 64) (x : Fin 8) (im : SImm) (s : State) : Out :=
  .next (s.scalarResult d.val (boolVal (scalarCond x.val (s.rdS a.val) (simmVal im))))
def execSmovImm (d : Fin 64) (im : SImm) (s : State) : Out := .next (s.scalarResult d.val (simmVal im))
def execSshlImm (d a : Fin 64) (im : SImm) (s : State) : Out := .next (s.scalarResult d.val (s.rdS a.val <<< simmShift im))
def execSshrImm (d a : Fin 64) (im : SImm) (s : State) : Out := .next (s.scalarResult d.val (s.rdS a.val >>> simmShift im))

/-! ## Special registers -/

/-- An SRD of `%wp` acquires the bytes it counts: copies of lines among the first w landed bytes are dropped (R166, R189). -/
def State.wpAcquire (s : State) (n : Nat) : State :=
  if 0x18 ≤ n then
    s.dropLines s.cu (Tbl.getD s.cg.landed (n - 0x18) [])
  else s

/-- SRD (R133). -/
def execSrd (d n : Fin 64) (s : State) : Out :=
  .next (if srdOk n then (s.wpAcquire n.val).scalarResult d.val (s.srd n.val) else s.raise cIllegal)

/-- SWR (R133): checked before it takes effect; an unprivileged write of `%penmax` raises PROT (R34). -/
def execSwr (n a : Fin 64) (s : State) : Out :=
  .next (
    let v := s.rdS a.val
    let x := v.toNat
    match n.val with
    | 0x0B => if 2 ^ 32 ≤ x then s.raise cIllegal else s.setFmt (v.setWidth 32)
    | 0x0C => if 32 ≤ x then s.raise cIllegal else (s.modW fun W => { W with fxf := v.setWidth 5 }).retire
    | 0x14 => if 2 ≤ x then s.raise cIllegal else (s.modW fun W => { W with chkNext := some (x == 1) }).retire
    | 0x0E =>
      if 65536 ≤ x ∨ x = 0 ∨ x = 0xFFFF then s.raise cIllegal
      else if !(s.ctx s.cctx).priv then s.raise cProt
      else (s.closeRegion.modCtx s.cctx fun c => { c with penmax := x }).retire
    | _ => s.raise cIllegal)

end Sys2Proof.Machine
end

