-- ==== Sys2Proof/Machine/Special.lean ====
section
/-! DEFINITION. The special functions of R142, each the exact value correctly rounded to FP32 by rne. An approximation in
`n` fractional bits, known to lie within 2^12 units of its last place, decides the result where both ends of that interval
round alike; otherwise more bits are taken. The exact cases are decided first, so the remaining values are irrational and
some number of bits decides them. -/

namespace Sys2Proof.Machine

/-- Σ of `t` terms of exp: x^k / k! in `n` fractional bits; `x` at most 1. -/
def expTerms (n : Nat) (x : Int) : Nat → Nat → Int → Int
  | 0, _, _ => 0
  | t + 1, k, term => term + expTerms n x t (k + 1) (term * x / 2 ^ n / (k + 1))

/-- e^x for |x| ≤ 1. -/
def expFix (n : Nat) (x : Int) : Int := expTerms n x (n + 8) 0 (2 ^ n)

/-- Σ z^(2k+1)/(2k+1), for |z| ≤ 1/3; `z2` is z². -/
def atanhTerms (n : Nat) (z2 : Int) : Nat → Nat → Int → Int
  | 0, _, _ => 0
  | t + 1, k, p => p / (2 * k + 1) + atanhTerms n z2 t (k + 1) (p * z2 / 2 ^ n)

def atanhFix (n : Nat) (z : Int) : Int := atanhTerms n (z * z / 2 ^ n) (n + 8) 0 z

/-- ln 2 = 2 atanh(1/3). -/
def ln2Fix (n : Nat) : Int := 2 * atanhFix n (2 ^ n / 3)

/-- Σ (-1)^k z^(2k+1)/(2k+1) for z = 1/d. -/
def atanInvTerms (d2 : Int) : Nat → Nat → Int → Int
  | 0, _, _ => 0
  | t + 1, k, p => p / (2 * k + 1) - atanInvTerms d2 t (k + 1) (p / d2)

/-- π by Machin's formula. -/
def piFix (n : Nat) : Int :=
  4 * (4 * atanInvTerms 25 (n + 8) 0 (2 ^ n / 5) - atanInvTerms (239 * 239) (n + 8) 0 (2 ^ n / 239))

/-- Σ (-1)^k x^(2k+b)/(2k+b)!. -/
def trigTerms (n : Nat) (x2 : Int) : Nat → Nat → Int → Int
  | 0, _, _ => 0
  | t + 1, k, term => term - trigTerms n x2 t (k + 2) (term * x2 / 2 ^ n / ((k + 1) * (k + 2)))

def sinFix (n : Nat) (x : Int) : Int := trigTerms n (x * x / 2 ^ n) (n + 8) 1 x
def cosFix (n : Nat) (x : Int) : Int := trigTerms n (x * x / 2 ^ n) (n + 8) 0 (2 ^ n)

/-- Rounds y / 2^n × 2^e when y is known within 2^12: the code, where both ends round alike. -/
def decide12 (n : Nat) (neg : Bool) (y : Int) (e : Int) : Option (Nat × Flags) :=
  let lo := (y - 2 ^ 12).toNat
  let hi := (y + 2 ^ 12).toNat
  let a := fp32F.round .rne neg lo (e - n) true
  let b := fp32F.round .rne neg hi (e - n) true
  if a.1 = b.1 then some (a.1, a.2 ||| fInexact) else none

/-- The first of the precisions that decides; `f` gives sign, value in n bits and binary exponent. -/
def ziv (f : Nat → Bool × Int × Int) : List Nat → Nat × Flags
  | [] => let r := f 1200; fp32F.round .rne r.1 r.2.1.toNat (r.2.2 - 1200) true
  | n :: ns =>
    let r := f n
    match decide12 n r.1 r.2.1 r.2.2 with
    | some c => c
    | none => ziv f ns

def precisions : List Nat := [96, 320, 640]

/-- The integral part and the fraction of ±m × 2^e, the fraction in n bits, for values of moderate size. -/
def splitFix (n : Nat) (neg : Bool) (m : Nat) (e : Int) : Int × Int :=
  let x : Int := signed neg m
  let y := if 0 ≤ e + n then x * pow2 (e + n) else x / (2 ^ (-(e + n)).toNat : Nat)
  (y / 2 ^ n, y % 2 ^ n)

/-- 2^x (R142). -/
def sfExp2 (x : FVal) : Nat × Flags :=
  match x with
  | .nan s => (0x7FC00000, if s then fInvalid else 0)
  | .inf neg => (if neg then 0 else fp32F.infCode false, 0)
  | .fin neg m e =>
    if m = 0 then (0x3F800000, 0)
    else if magLt 1 9 m e then
      if neg then (0, fUnderflow ||| fInexact) else (fp32F.infCode false, fOverflow ||| fInexact)
    else if 0 ≤ e ∨ m % 2 ^ (-e).toNat = 0 then
      fp32F.round .rne false 1 (splitFix 0 neg m e).1 false
    else
      ziv (fun n => let p := splitFix n neg m e
                    (false, expFix n (p.2 * ln2Fix n / 2 ^ n), p.1)) precisions

/-- log2 x (R142). -/
def sfLog2 (x : FVal) : Nat × Flags :=
  match x with
  | .nan s => (0x7FC00000, if s then fInvalid else 0)
  | .inf neg => if neg then (0x7FC00000, fInvalid) else (fp32F.infCode false, 0)
  | .fin neg m e =>
    if m = 0 then (fp32F.infCode true, fDivZero)
    else if neg then (0x7FC00000, fInvalid)
    else
      let k := Nat.log2 m
      let i : Int := k + e
      if m = 2 ^ k then fp32F.round .rne (i < 0) i.natAbs 0 false
      else
        ziv (fun n =>
          let z : Int := ((m - 2 ^ k : Nat) : Int) * 2 ^ n / (m + 2 ^ k : Nat)
          let y := i * 2 ^ n + 2 * atanhFix n z * 2 ^ n / ln2Fix n
          (y < 0, y.natAbs, 0)) precisions

/-- 1/x (R142). -/
def sfRcp (x : FVal) : Nat × Flags :=
  match x with
  | .nan s => (0x7FC00000, if s then fInvalid else 0)
  | .inf neg => (fp32F.encode neg 0 0, 0)
  | .fin neg m e =>
    if m = 0 then (fp32F.infCode neg, fDivZero)
    else fp32F.round .rne neg (2 ^ 64 / m) (-64 - e) (2 ^ 64 % m != 0)

/-- The integer square root by bits, from bit `k - 1` down. -/
def isqrtBits (x : Nat) : Nat → Nat → Nat
  | 0, r => r
  | k + 1, r => let c := r + 2 ^ k; isqrtBits x k (if c * c ≤ x then c else r)

/-- 1/√x (R142). -/
def sfRsq (x : FVal) : Nat × Flags :=
  match x with
  | .nan s => (0x7FC00000, if s then fInvalid else 0)
  | .inf neg => if neg then (0x7FC00000, fInvalid) else (0, 0)
  | .fin neg m e =>
    if m = 0 then (fp32F.infCode neg, fDivZero)
    else if neg then (0x7FC00000, fInvalid)
    else
      -- x = m' × 2^(2h); 1/√x = √(2^128 / m') × 2^(-64 - h)
      let m' := if e % 2 = 0 then m else 2 * m
      let h := e / 2
      let q := 2 ^ 128 / m'
      let r := isqrtBits q 65 0
      fp32F.round .rne false r (-64 - h) (r * r != q || 2 ^ 128 % m' != 0)

/-- sin of 2πx for a quarter index and a fraction of a turn below 1/4, in n bits. -/
def turnFix (n quarter : Nat) (frac : Int) : Bool × Int :=
  let a := 2 * piFix n * frac / 2 ^ n
  match quarter % 4 with
  | 0 => (false, sinFix n a)
  | 1 => (false, cosFix n a)
  | 2 => (true, sinFix n a)
  | _ => (true, cosFix n a)

/-- |x| mod 1 as a numerator over 2^(-e), for e < 0. -/
def sfTrig (isCos : Bool) (x : FVal) : Nat × Flags :=
  match x with
  | .nan s => (0x7FC00000, if s then fInvalid else 0)
  | .inf _ => (0x7FC00000, fInvalid)
  | .fin neg m e =>
    let one : Nat := 0x3F800000
    let zero := if isCos then (one, 0) else (fp32F.encode neg 0 0, 0)
    if m = 0 ∨ 0 ≤ e then zero
    else
      let d := (-e).toNat
      let f := m % 2 ^ d
      if f = 0 then zero
      else
        let q := f * 4 / 2 ^ d
        let r := f * 4 % 2 ^ d         -- the fraction within the quarter, over 2^d
        let q' := if isCos then q + 1 else q
        let neg' := if isCos then false else neg
        if r = 0 then
          match q' % 4 with
          | 0 => (if isCos then 0 else fp32F.encode neg 0 0, 0)
          | 1 => (if neg' then 0xBF800000 else one, 0)
          | 2 => (if isCos then 0 else fp32F.encode neg 0 0, 0)
          | _ => (if neg' then one else 0xBF800000, 0)
        else
          ziv (fun n =>
            let p := turnFix n q' ((r : Int) * 2 ^ n / (4 * 2 ^ d : Nat))
            (p.1 != neg', p.2, 0)) precisions

/-- tanh x (R142). -/
def sfTanh (x : FVal) : Nat × Flags :=
  match x with
  | .nan s => (0x7FC00000, if s then fInvalid else 0)
  | .inf neg => (if neg then 0xBF800000 else 0x3F800000, 0)
  | .fin neg m e =>
    if m = 0 then (fp32F.encode neg 0 0, 0)
    else if magLt 20 0 m e then (if neg then 0xBF800000 else 0x3F800000, fInexact)
    else
      ziv (fun n =>
        -- e^(2|x|) = 2^i × e^(f ln 2) with 2|x|/ln 2 = i + f
        let y := (splitFix n false m (e + 1))
        let t := (y.1 * 2 ^ n + y.2) * 2 ^ n / ln2Fix n
        let i := (t / 2 ^ n).toNat
        let g := expFix n (t % 2 ^ n * ln2Fix n / 2 ^ n) * 2 ^ i
        (neg, (g - 2 ^ n) * 2 ^ n / (g + 2 ^ n), 0)) precisions

/-- The seven functions by the code of R142. -/
def special (k : Nat) (x : Word) : Word × Flags :=
  let v := f32 x
  let r := match k with
    | 0 => sfExp2 v
    | 1 => sfLog2 v
    | 2 => sfRcp v
    | 3 => sfRsq v
    | 4 => sfTrig false v
    | 5 => sfTrig true v
    | _ => sfTanh v
  (BitVec.ofNat 32 r.1, r.2)

end Sys2Proof.Machine
end

