-- ==== Sys2Proof/Machine/Vector.lean ====
section
/-! DEFINITION. Vector integer, compare, bit-field and float instructions (R134-R139). -/

namespace Sys2Proof.Machine

/-- A lane-wise result of two vector registers, in the lanes of exec (R129). -/
def State.vec2 (s : State) (d a b : Nat) (f : Word → Word → Word) : State :=
  let x := s.rdV a
  let y := s.rdV b
  (s.wrV d fun l => f (x.lane l) (y.lane l)).retire

/-- A lane-wise result of the operands of format VI. -/
def State.vecVi (s : State) (d : Nat) (a : OpA) (b : Short) (f : Word → Word → Word) : State :=
  let x := s.opaInt a
  (s.wrV d fun l => f (x l) (s.shortInt b l)).retire

/-- Shifts of a lane: a count of 32 or more as unsigned empties the word (R134). -/
def vShl (a b : Word) : Word := if 32 ≤ b.toNat then 0 else a <<< b.toNat
def vShr (a b : Word) : Word := if 32 ≤ b.toNat then 0 else a >>> b.toNat
def vSra (a b : Word) : Word := if 32 ≤ b.toNat then a.sshiftRight 31 else a.sshiftRight b.toNat

def mulHi (a b : Int) : Word := BitVec.ofInt 32 (a * b / 2 ^ 32)

def sMin (a b : Word) : Word := if b.slt a then b else a
def sMax (a b : Word) : Word := if a.slt b then b else a
def uMin (a b : Word) : Word := if b.ult a then b else a
def uMax (a b : Word) : Word := if a.ult b then b else a

/-- Applies `f` to each of the `k` fields of `w` bits, with no carry between them (R134). -/
def packed (w k : Nat) (f : Nat → Nat → Nat) (a b : Word) : Word :=
  BitVec.ofNat 32 ((List.range k).foldl (fun acc i => acc + (f (fld a.toNat (w * i) w) (fld b.toNat (w * i) w) % 2 ^ w) * 2 ^ (w * i)) 0)

def execVaddI32 (d a b : Fin 128) (s : State) : Out := .next (s.vec2 d.val a.val b.val fun x y => x + y)
def execVsubI32 (d a b : Fin 128) (s : State) : Out := .next (s.vec2 d.val a.val b.val fun x y => x - y)
def execVmulI32 (d a b : Fin 128) (s : State) : Out := .next (s.vec2 d.val a.val b.val fun x y => x * y)
def execVmulhI32 (d a b : Fin 128) (s : State) : Out := .next (s.vec2 d.val a.val b.val fun x y => mulHi x.toInt y.toInt)
def execVmulhN32 (d a b : Fin 128) (s : State) : Out := .next (s.vec2 d.val a.val b.val fun x y => mulHi x.toNat y.toNat)

/-- VMAD reads vd as a source. -/
def execVmadI32 (d a b : Fin 128) (s : State) : Out :=
  let o := s.rdV d.val
  let x := s.rdV a.val
  let y := s.rdV b.val
  .next (s.wrV d.val fun l => x.lane l * y.lane l + o.lane l).retire
def execVminI32 (d a b : Fin 128) (s : State) : Out := .next (s.vec2 d.val a.val b.val sMin)
def execVmaxI32 (d a b : Fin 128) (s : State) : Out := .next (s.vec2 d.val a.val b.val sMax)
def execVminN32 (d a b : Fin 128) (s : State) : Out := .next (s.vec2 d.val a.val b.val uMin)
def execVmaxN32 (d a b : Fin 128) (s : State) : Out := .next (s.vec2 d.val a.val b.val uMax)
def execVand (d a b : Fin 128) (s : State) : Out := .next (s.vec2 d.val a.val b.val fun x y => x &&& y)
def execVor (d a b : Fin 128) (s : State) : Out := .next (s.vec2 d.val a.val b.val fun x y => x ||| y)
def execVxor (d a b : Fin 128) (s : State) : Out := .next (s.vec2 d.val a.val b.val fun x y => x ^^^ y)
def execVshl (d a b : Fin 128) (s : State) : Out := .next (s.vec2 d.val a.val b.val vShl)
def execVshr (d a b : Fin 128) (s : State) : Out := .next (s.vec2 d.val a.val b.val vShr)
def execVsra (d a b : Fin 128) (s : State) : Out := .next (s.vec2 d.val a.val b.val vSra)

def execVaddI32Vi (d : Fin 128) (a : OpA) (b : Short) (s : State) : Out := .next (s.vecVi d.val a b fun x y => x + y)
def execVsubI32Vi (d : Fin 128) (a : OpA) (b : Short) (s : State) : Out := .next (s.vecVi d.val a b fun x y => x - y)
def execVmulI32Vi (d : Fin 128) (a : OpA) (b : Short) (s : State) : Out := .next (s.vecVi d.val a b fun x y => x * y)
def execVandVi (d : Fin 128) (a : OpA) (b : Short) (s : State) : Out := .next (s.vecVi d.val a b fun x y => x &&& y)
def execVorVi (d : Fin 128) (a : OpA) (b : Short) (s : State) : Out := .next (s.vecVi d.val a b fun x y => x ||| y)
def execVxorVi (d : Fin 128) (a : OpA) (b : Short) (s : State) : Out := .next (s.vecVi d.val a b fun x y => x ^^^ y)
def execVshlVi (d : Fin 128) (a : OpA) (b : Short) (s : State) : Out := .next (s.vecVi d.val a b vShl)
def execVshrVi (d : Fin 128) (a : OpA) (b : Short) (s : State) : Out := .next (s.vecVi d.val a b vShr)
def execVsraVi (d : Fin 128) (a : OpA) (b : Short) (s : State) : Out := .next (s.vecVi d.val a b vSra)

def execVmovI32 (d a : Fin 128) (s : State) : Out :=
  let x := s.rdV a.val
  .next (s.wrV d.val fun l => x.lane l).retire
def execVmovI32Vi (d : Fin 128) (a : OpA) (s : State) : Out :=
  let x := s.opaInt a
  .next (s.wrV d.val x).retire

/-- VSEL writes the lanes of exec whose mask bit is 1; vd is no source (R135). -/
def execVsel (d : Fin 128) (m : Fin 8) (b : Fin 128) (s : State) : Out :=
  let y := s.rdV b.val
  .next (s.wrVIn (s.csp.exec &&& s.rdM m.val) d.val fun l => y.lane l).retire

/-- The field that VBFE extracts under a control word (R136). -/
def bfe (a c : Word) : Word :=
  let o := fld c.toNat 0 5
  let w := min (fld c.toNat 8 6) 32
  let f := a.toNat / 2 ^ o % 2 ^ w
  if bit c.toNat 16 ∧ 0 < w ∧ f.testBit (w - 1) then BitVec.ofNat 32 (f + (2 ^ 32 - 2 ^ w)) else BitVec.ofNat 32 f

/-- VBFI's insertion under a control word (R136). -/
def bfi (d a c : Word) : Word :=
  let o := fld c.toNat 0 5
  let w := min (fld c.toNat 8 6) 32
  let k : Word := BitVec.ofNat 32 ((2 ^ w - 1) * 2 ^ o)
  (d &&& ~~~k) ||| ((a <<< o) &&& k)

def execVbfe (d a b : Fin 128) (s : State) : Out := .next (s.vec2 d.val a.val b.val bfe)
def execVbfi (d a b : Fin 128) (s : State) : Out :=
  let o := s.rdV d.val
  let x := s.rdV a.val
  let y := s.rdV b.val
  .next (s.wrV d.val fun l => bfi (o.lane l) (x.lane l) (y.lane l)).retire

/-- A compare writes the whole mask, 0 outside exec (R137). -/
def State.cmpResult (s : State) (m : Nat) (f : Nat → Bool) : State :=
  let e := s.csp.exec
  (s.wrM m (maskOf fun l => e.getLsbD l && f l) latVector).retire

def execVcmp (m : Fin 8) (c : Fin 16) (a b : Fin 128) (s : State) : Out :=
  let x := s.rdV a.val
  let y := s.rdV b.val
  .next (s.cmpResult m.val fun l => intCond c.val (x.lane l) (y.lane l))
def execVcmpVi (m : Fin 8) (c : Fin 16) (a : OpA) (b : Short) (s : State) : Out :=
  let x := s.opaInt a
  .next (s.cmpResult m.val fun l => intCond c.val (x l) (s.shortInt b l))

def execVaddI16x2 (d a b : Fin 128) (s : State) : Out := .next (s.vec2 d.val a.val b.val (packed 16 2 fun x y => x + y))
def execVsubI16x2 (d a b : Fin 128) (s : State) : Out := .next (s.vec2 d.val a.val b.val (packed 16 2 fun x y => x + 2 ^ 16 - y))
def execVaddI8x4 (d a b : Fin 128) (s : State) : Out := .next (s.vec2 d.val a.val b.val (packed 8 4 fun x y => x + y))
def execVsubI8x4 (d a b : Fin 128) (s : State) : Out := .next (s.vec2 d.val a.val b.val (packed 8 4 fun x y => x + 2 ^ 8 - y))

/-! ## Float (R138, R139) -/

/-- A lane-wise float result of two vector registers, with its flags. -/
def State.vecF2 (s : State) (d a b : Nat) (f : Word → Word → Word × Flags) : State :=
  let x := s.rdV a
  let y := s.rdV b
  (s.wrVF d fun l => f (x.lane l) (y.lane l)).retire

def State.vecFVi (s : State) (d : Nat) (a : OpA) (b : Short) (f : Word → Word → Word × Flags) : State :=
  let x := s.opaFloat a
  (s.wrVF d fun l => f (x l) (s.shortFloat b l)).retire

def execVfadd (d a b : Fin 128) (s : State) : Out := .next (s.vecF2 d.val a.val b.val fAdd)
def execVfsub (d a b : Fin 128) (s : State) : Out := .next (s.vecF2 d.val a.val b.val fSub)
def execVfmul (d a b : Fin 128) (s : State) : Out := .next (s.vecF2 d.val a.val b.val fMul)
def execVfma (d a b : Fin 128) (s : State) : Out :=
  let o := s.rdV d.val
  let x := s.rdV a.val
  let y := s.rdV b.val
  .next (s.wrVF d.val fun l => fFma (x.lane l) (y.lane l) (o.lane l)).retire
def execVfmin (d a b : Fin 128) (s : State) : Out := .next (s.vecF2 d.val a.val b.val (fMinMax true))
def execVfmax (d a b : Fin 128) (s : State) : Out := .next (s.vecF2 d.val a.val b.val (fMinMax false))
def execVfaddVi (d : Fin 128) (a : OpA) (b : Short) (s : State) : Out := .next (s.vecFVi d.val a b fAdd)
def execVfmulVi (d : Fin 128) (a : OpA) (b : Short) (s : State) : Out := .next (s.vecFVi d.val a b fMul)

/-- A float compare: the mask and the flags of the lanes of exec (R139). -/
def State.fcmpResult (s : State) (m : Nat) (f : Nat → Bool × Flags) : State :=
  let e := s.csp.exec
  let xs := lanes.map fun l => if e.getLsbD l then f l else (false, 0)
  let fl := xs.foldl (fun (a : Flags) p => a ||| p.2) 0
  ((s.wrM m (maskOf fun l => (xs.getD l (false, 0)).1) latVector).orFlags fl).retire

def execVfcmp (m : Fin 8) (c : Fin 16) (a b : Fin 128) (s : State) : Out :=
  let x := s.rdV a.val
  let y := s.rdV b.val
  .next (s.fcmpResult m.val fun l => fCmp c.val (x.lane l) (y.lane l))
def execVfcmpVi (m : Fin 8) (c : Fin 16) (a : OpA) (b : Short) (s : State) : Out :=
  let x := s.opaFloat a
  .next (s.fcmpResult m.val fun l => fCmp c.val (x l) (s.shortFloat b l))

/-! ## Special functions (R142) -/

/-- A special function of one vector register. -/
def State.specialResult (s : State) (k d a : Nat) : State :=
  let x := s.rdV a
  (s.wrVF d fun l => special k (x.lane l)).retire

def execVexp2 (d a : Fin 128) (s : State) : Out := .next (s.specialResult 0 d.val a.val)
def execVlog2 (d a : Fin 128) (s : State) : Out := .next (s.specialResult 1 d.val a.val)
def execVrcp (d a : Fin 128) (s : State) : Out := .next (s.specialResult 2 d.val a.val)
def execVrsq (d a : Fin 128) (s : State) : Out := .next (s.specialResult 3 d.val a.val)
def execVsin (d a : Fin 128) (s : State) : Out := .next (s.specialResult 4 d.val a.val)
def execVcos (d a : Fin 128) (s : State) : Out := .next (s.specialResult 5 d.val a.val)
def execVtanh (d a : Fin 128) (s : State) : Out := .next (s.specialResult 6 d.val a.val)

/-! ## Conversion and quantising (R140, R141) -/

/-- VCVT: under srn every active lane makes one RNG call, word 0 rounds (R51, R140). -/
def execVcvt (d a : Fin 128) (c : Fin 16) (r : Fin 8) (s : State) : Out :=
  let x := s.rdV a.val
  let W := s.cw
  let md (l : Nat) : Rnd := if r.val = 4 then rndOf 4 ((W.laneBlock l 0).getD 0 0).toNat else rndOf r.val 0
  let t := s.wrVF d.val fun l => vcvt c.val (md l) (x.lane l)
  .next (if r.val = 4 then t.modW fun W => W.bump s.csp.exec 1 else t).retire

/-- The output format, its width and the rounding code of the split's `%fmt` (R44). -/
def State.ofmt (s : State) : Nat := fld s.csp.fmt.toNat 8 4
def State.rndCode (s : State) : Nat := fld s.csp.fmt.toNat 12 3

/-- The draw that rounds element `j` of a lane (R141): word j mod 4, rotated left by 16 for j ≥ 4. -/
def drawWord (b : List Word) (j : Nat) : Nat :=
  let w := b.getD (j % 4) 0
  (if 4 ≤ j then w.rotateLeft 16 else w).toNat

/-- The scaled value of R53: NaN under the scale 0xFF, otherwise multiplied by 2^(sign × (e - 127)). -/
def scaled (v : FVal) (e : Nat) (sign : Int) : FVal := if e = 0xFF then .nan false else scaleVal v (sign * ((e : Int) - 127))

/-- The vector allocation of the current wave (R127). -/
def State.alloc (s : State) : Nat := s.cw.v.length

/-- VQNT (R141). A signalling NaN element raises invalid, also under a scale 0xFF (R46; DEDUCED, log 87). -/
def execVqnt (d a b : Fin 128) (s : State) : Out :=
  .next (
    let w := outWidth s.ofmt
    let k := 32 / w
    if w = 32 ∨ s.alloc < a.val + k then s.raise cIllegal
    else
      let xs := (List.range k).map fun j => s.rdV (a.val + j)
      let sc := s.rdV b.val
      let W := s.cw
      let o := s.ofmt
      let rc := s.rndCode
      let lane (l : Nat) : Word × Flags :=
        let blk := if rc = 4 then W.laneBlock l 0 else []
        (List.range k).foldl (fun (acc : Word × Flags) j =>
          let v := f32 ((xs.getD j zeroRow).lane l)
          let q := convertOut o (rndOf rc (drawWord blk j)) (scaled v (fld (sc.lane l).toNat 0 8) (-1))
          (acc.1 ||| BitVec.ofNat 32 (q.1 * 2 ^ (j * w)), acc.2 ||| q.2 ||| snanFlag [v])) (0, 0)
      let t := s.wrVF d.val lane
      (if rc = 4 then t.modW fun W => W.bump s.csp.exec 1 else t).retire)

/-- VDQNT (R141): the group of destination registers receives the elements. A signalling NaN element raises invalid, also under a scale
0xFF (R46; DEDUCED, log 87). -/
def execVdqnt (d a b : Fin 128) (s : State) : Out :=
  .next (
    let w := outWidth s.ofmt
    let k := 32 / w
    if w = 32 ∨ s.alloc < d.val + k then s.raise cIllegal
    else
      let x := s.rdV a.val
      let sc := s.rdV b.val
      let W := s.cw
      let o := s.ofmt
      let rc := s.rndCode
      let t := (List.range k).foldl (fun t j =>
        t.wrVF (d.val + j) fun l =>
          let blk := if rc = 4 then W.laneBlock l 0 else []
          let v := outVal o (fld (x.lane l).toNat (j * w) w)
          let q := fp32F.convert (rndOf rc (drawWord blk j)) (scaled v (fld (sc.lane l).toNat 0 8) 1)
          (BitVec.ofNat 32 q.1, q.2 ||| snanFlag [v])) s
      (if rc = 4 then t.modW fun W => W.bump s.csp.exec 1 else t).retire)

/-! ## Random numbers (R153) -/

/-- RNG: four words of one call of each active lane. -/
def execRng (d : Fin 128) (s : State) : Out :=
  let W := s.cw
  let t := (List.range 4).foldl (fun t k => t.wrV (d.val + k) fun l => (W.laneBlock l 0).getD k 0) s
  .next (t.modW fun W => W.bump s.csp.exec 1).retire

/-- The 128-bit value of four registers in lane `l`. -/
def State.quad (s : State) (a l : Nat) : BitVec 128 :=
  BitVec.ofNat 128 ((s.rdVL a l).toNat + 2 ^ 32 * (s.rdVL (a + 1) l).toNat + 2 ^ 64 * (s.rdVL (a + 2) l).toNat +
    2 ^ 96 * (s.rdVL (a + 3) l).toNat)

/-- RNGSKIP: a 128-bit addition with carry. -/
def execRngskip (a : Fin 128) (s : State) : Out :=
  let e := s.csp.exec
  let t := s.closeRegion.modW fun W => { W with
    ctr := Vector.ofFn fun (i : Fin 32) =>
      let c := W.ctr.toList.getD i.val 0
      if e.getLsbD i.val then c + s.quad a.val i.val else c }
  .next t.retire

/-- RNGSET. -/
def execRngset (a b : Fin 128) (s : State) : Out :=
  let e := s.csp.exec
  let t := s.closeRegion.modW fun W => { W with
    key := Vector.ofFn fun (i : Fin 32) =>
      if e.getLsbD i.val then (s.rdVL (a.val + 1) i.val ++ s.rdVL a.val i.val : BitVec 64) else W.key.toList.getD i.val 0
    ctr := Vector.ofFn fun (i : Fin 32) => if e.getLsbD i.val then s.quad b.val i.val else W.ctr.toList.getD i.val 0
    rngPoison := W.rngPoison.filter fun p => !e.getLsbD p.1 }
  .next t.retire

/-! ## Cross-lane (R148, R149) -/

def execVshfl (d a b : Fin 128) (s : State) : Out :=
  let x := s.rdV a.val
  let y := s.rdV b.val
  .next (s.wrV d.val fun l => x.lane ((y.lane l).toNat % 32)).retire

/-- VBCAST: lane n, or the lowest lane of exec. -/
def execVbcast (d a n : Fin 128) (s : State) : Out :=
  let x := s.rdV a.val
  let k := if n.val = 0x40 then (maskLanes s.csp.exec).headD 0 else n.val
  .next (s.wrV d.val fun _ => x.lane k).retire

def execVrot (d a n : Fin 128) (s : State) : Out :=
  let x := s.rdV a.val
  .next (s.wrV d.val fun l => x.lane ((l + n.val) % 32)).retire

def execVbal (d : Fin 128) (m : Fin 8) (s : State) : Out :=
  let k := s.rdM m.val &&& s.csp.exec
  .next (s.wrV d.val fun l => BitVec.ofNat 32 (popcount (k &&& BitVec.ofNat 32 (2 ^ l - 1)))).retire

/-- The start value of an operator of VRED and VSCAN (R149). -/
def redStart (p : Nat) : Word :=
  [0, 0x7FFFFFFF, 0x80000000, 0xFFFFFFFF, 0, 0xFFFFFFFF, 0, 0, 0x80000000, 0x7F800000, 0xFF800000].getD p 0

def redOp (p : Nat) (a b : Word) : Word × Flags :=
  match p with
  | 0 => (a + b, 0)
  | 1 => (sMin a b, 0)
  | 2 => (sMax a b, 0)
  | 3 => (uMin a b, 0)
  | 4 => (uMax a b, 0)
  | 5 => (a &&& b, 0)
  | 6 => (a ||| b, 0)
  | 7 => (a ^^^ b, 0)
  | 8 => fAdd a b
  | 9 => fMinMax true a b
  | _ => fMinMax false a b

/-- The running values over the lanes of exec in ascending order: (lane, value) pairs, the last value, the flags. -/
def redRun (p : Nat) (x : Row) : Word → Flags → List Nat → List (Nat × Word) × Word × Flags
  | acc, fl, [] => ([], acc, fl)
  | acc, fl, l :: r =>
    let q := redOp p acc (x.lane l)
    let t := redRun p x q.1 (fl ||| q.2) r
    ((l, q.1) :: t.1, t.2)

def execVred (d a : Fin 128) (p : Fin 16) (s : State) : Out :=
  let r := redRun p.val (s.rdV a.val) (redStart p.val) 0 (maskLanes s.csp.exec)
  .next ((s.wrV d.val fun _ => r.2.1).orFlags r.2.2).retire

def execVscan (d a : Fin 128) (p : Fin 16) (s : State) : Out :=
  let r := redRun p.val (s.rdV a.val) (redStart p.val) 0 (maskLanes s.csp.exec)
  .next ((s.wrV d.val fun l => Tbl.getD r.1 l 0).orFlags r.2.2).retire

end Sys2Proof.Machine
end

