-- ==== Sys2Proof/Machine/Activation.lean ====
section
/-! DEFINITION. Activation banks (R143-R147) and cross-wave rendezvous (R150). -/

namespace Sys2Proof.Machine

/-- The FP32 word at byte `k` of a bank; a byte never loaded is 0 (R143). -/
def Bank.word (b : Bank) (k : Nat) : Word := BitVec.ofNat 32 (leNat ((List.range 4).map fun i => List.getD b (k + i) 0))

/-- Cycles for which an exchange of the activation banks stalls the issuing wave: none where the core holds the group's (R144). -/
def State.actDelay (s : State) : Nat := if s.cc.actHolder = some s.cur.g then 0 else 2400

/-- The core holds the banks of the current group from now on. -/
def State.actTake (s : State) : State :=
  if s.cc.actHolder = some s.cur.g then s else s.modCore s.cu fun c => { c with actHolder := some s.cur.g }

/-- The core exchanges the banks before the instruction executes: the issuing wave stalls (R144). -/
def State.actExchange (s : State) : State := s.actTake.stallMore s.actDelay

/-- floor of an FP32 value at most 127, at least 0; 0 for a NaN (R145). -/
def segIndex (t : Word) : Nat :=
  match f32 t with
  | .nan _ => 0
  | .inf neg => if neg then 0 else 127
  | .fin neg m e => if neg then 0 else min 127 (if 0 ≤ e then m * 2 ^ e.toNat else m / 2 ^ (-e).toNat)

/-- One lane of VACT (R145). -/
def actLane (b : Bank) (x : Word) : Word × Flags :=
  let t := (fMul (fSub x (Bank.word b 0)).1 (Bank.word b 4)).1
  let i := segIndex t
  fFma (Bank.word b (16 + 8 * i)) x (Bank.word b (20 + 8 * i))

/-- The poisoned 64-bit words of the bank that the wave has selected (R15). -/
def State.bankBad (s : State) : List Nat := if s.cw.actB then s.cg.poisonB else s.cg.poisonA

/-- The 64-bit words of its bank that VACT reads: x0 and the scale, and each lane's segment (R145). -/
def State.bankReads (s : State) (a : Nat) : List Nat :=
  let x := s.rdV a
  let b := if s.cw.actB then s.cg.bankB else s.cg.bankA
  if s.csp.exec = 0 then []
  else 0 :: (maskLanes s.csp.exec).map fun l =>
    2 + segIndex (fMul (fSub (x.lane l) (Bank.word b 0)).1 (Bank.word b 4)).1

/-- VACT (R145). -/
def execVact (d a : Fin 128) (s : State) : Out :=
  let x := s.rdV a.val
  let b := if s.cw.actB then s.cg.bankB else s.cg.bankA
  .next ((s.wrVF d.val fun l => actLane b (x.lane l)).retire).actExchange

/-- ACTLD (R146): 1,040 bytes into the bank that is not current at its issue, also where an ACTSW issues before they come (DESIGN CHOICE,
log 86). -/
def execActld (b : Fin 64) (disp : Word) (q : Fin 2) (s : State) : Out :=
  .next (
    let scr := q.val = 1
    s.checked (s.memCheck scr false 16 1040 .read anyLeaf [(0, s.addr (.base b disp) 0)]) fun ps s =>
      let s := s.closeRegion
      ((s.fresh.addResult
        { id := s.nextId, kind := .actld (!s.cg.curB), counter := .vmc, reqs := reqsOf ps }).retire).actExchange)

/-- ACTSW (R147). -/
def execActsw (s : State) : Out :=
  .next (((s.closeRegion.modG fun G => { G with
    curB := !G.curB
    waves := Tbl.mapVals G.waves fun w => if w.ended then w else { w with actPending := true } }).retire).actExchange)

/-! ## Rendezvous (R150) -/

def Group.slot (x : Group) (k : Nat) : RdvSlot := Tbl.getD x.rdv k {}

def Group.setSlot (x : Group) (k : Nat) (y : RdvSlot) : Group := { x with rdv := Tbl.set x.rdv k y }

/-- The split waits at the slot, behind those that reached issue before it. -/
def State.joinSlot (s : State) (k : Nat) (send : Bool) : State :=
  s.modG fun G =>
    let y := G.slot k
    if y.waiters.contains (s.cur.w, s.cur.sl, send) then G
    else G.setSlot k { y with waiters := y.waiters ++ [(s.cur.w, s.cur.sl, send)] }

/-- A split that stands in a line can be served there: it is not frozen, and its wave may issue (R104, R116). -/
def State.standsReady (s : State) (g w sl : Nat) : Bool :=
  (s.split g w sl).mode != .frozen && (!(s.group g).det || (s.group g).running == w)

/-- A wait of the same kind that reached issue before this split's, and can be served. -/
def State.slotBehind (s : State) (k : Nat) (send : Bool) : Bool :=
  let before := ((s.cg.slot k).waiters).takeWhile fun o => o != (s.cur.w, s.cur.sl, send)
  before.any fun o => o.2.2 == send && s.standsReady s.cur.g o.1 o.2.1

def State.leaveSlot (s : State) (k : Nat) (full : Option Payload) : State :=
  s.modG fun G =>
    let y := G.slot k
    G.setSlot k ⟨full, y.waiters.filter fun o => !(o.1 == s.cur.w && o.2.1 == s.cur.sl)⟩

/-- XSEND: kind 0 deposits all 32 lanes, kind 1 moves the handle. -/
def execXsend (a : Fin 128) (k : Fin 2) (sg : Fin 16) (s : State) : Out :=
  .next (
    if (s.cg.slot sg.val).full.isSome ∨ s.slotBehind sg.val true then s.joinSlot sg.val true
    else
      let s := s.closeRegion
      if k.val = 0 then (s.leaveSlot sg.val (some (.vec (s.rdV a.val)))).retire
      else
        let h := s.cw.handle (a.val % 16)
        ((s.leaveSlot sg.val (some (.handle h))).modW fun W => (W.putH (a.val % 16) .empty).endFwaits (s.cyc + 1)).retire)

/-- XRECV: the vector result is held by the scoreboard; a handle is received into an empty register. -/
def execXrecv (d : Fin 128) (k : Fin 2) (sg : Fin 16) (s : State) : Out :=
  .next (
    if s.slotBehind sg.val false then s.joinSlot sg.val false
    else
      match (s.cg.slot sg.val).full with
      | none => s.joinSlot sg.val false
      | some (.vec r) =>
        if k.val = 1 then s.raise cIllegal
        else
          let s := s.closeRegion
          ((s.leaveSlot sg.val none).fresh.addResult
            { id := s.nextId, kind := .vals, counter := .none, vregs := [d.val], lanes := s.csp.exec
              out := (maskLanes s.csp.exec).map fun l => (.v d.val l, (r.lane l).setWidth 64) }).retire
      | some (.handle h) =>
        if k.val = 0 ∨ s.cw.handle (d.val % 16) ≠ .empty then s.raise cIllegal
        else ((s.closeRegion.leaveSlot sg.val none).modW fun W => W.putH (d.val % 16) h).retire)

end Sys2Proof.Machine
end

