-- ==== Sys2Proof/Machine/Barrier.lean ====
section
/-! DEFINITION. Barriers (R172-R176), the die barrier (R178), die mailboxes (R179-R181), and their arrival steps. -/

namespace Sys2Proof.Machine

/-- The lanes of exec that are members of a barrier. -/
def State.barMembers (s : State) (b : Nat) : Word := s.csp.exec &&& Tbl.getD (s.cg.bar b).member s.cur.w 0

/-- BAR.JOIN (R175): never completes a phase (R173). -/
def execBarJoin (b : Fin 16) (s : State) : Out :=
  .next (
    let s := s.closeRegion
    (s.modG fun G =>
      let y := G.bar b.val
      let m := Tbl.getD y.member s.cur.w 0
      let k := s.csp.exec &&& ~~~m
      { G with bars := Tbl.set G.bars b.val { y with member := Tbl.set y.member s.cur.w (m ||| k), e := y.e + popcount k } }).retire)

/-- BAR.LEAVE (R175). -/
def execBarLeave (b : Fin 16) (s : State) : Out :=
  .next (let s := s.closeRegion; (s.modBars s.cur.g fun G => G.leaveBar b.val s.cur.w s.csp.exec).retire)

/-! ## Arrivals (R173, R174) -/

/-- The arrival step may be taken: the wave's earlier loads have their data and its earlier writes are performed at group
scope (R174). -/
def State.arrivalReady (s : State) (g w : Nat) (a : Arrival) : Bool :=
  s.allPerformed a.writes 1 && (s.wave g w).allLoaded a.loads

/-- The status of BAR.ARV: the phase, bit 32 completed, bit 33 over. -/
def arvStatus (p : Word) (c o : Bool) : DWord :=
  BitVec.ofNat 64 (p.toNat + (if c then 2 ^ 32 else 0) + (if o then 2 ^ 33 else 0))

/-- The arrival step: lanes are counted, the check runs, and BAR.ARV's status is written or BAR.SYNC waits for the phase. -/
def State.arriveStep (s : State) (g : Nat) (a : Arrival) : State :=
  let y := (s.group g).bar a.b
  let p := y.phase
  let G := { s.group g with bars := Tbl.set (s.group g).bars a.b { y with a := min (y.a + a.n) (2 ^ 32 - 1) } }
  let r := G.checkBar a.b
  let t := (s.modBars g fun _ => r.1).modWave g a.w fun W => { W with arrivals := W.arrivals.filter fun x => x.op != a.op }
  if a.sync then
    let t := if r.2.1 then t.acquire g a.w 1 else t
    (((t.modSplit g a.w a.sl fun x => { x with block := if r.2.1 then .none else .bar a.b p.toNat }).switchPoint g).gangNow g)
  else
    (t.modWave g a.w fun W => match a.sd with
      | some d => W.finalS d (arvStatus p r.2.1 r.2.2)
      | none => W).modSplit g a.w a.sl fun x => { x with block := .none }

/-- The arrival of the current split, with the accesses that it releases (R174). -/
def State.arrivalOf (s : State) (b n : Nat) (sd : Option Nat) (sync : Bool) : Arrival :=
  { op := s.nextId, b := b, n := n, sd := sd, sync := sync, w := s.cur.w, sl := s.cur.sl
    writes := s.waveWrites s.cur.g s.cur.w, loads := s.cw.loadIds }

/-- The instruction has issued; its arrival step is taken at once where nothing keeps it waiting (R174). -/
def State.startArrival (s : State) (b n : Nat) (sd : Option Nat) (sync : Bool) : State :=
  let a := s.arrivalOf b n sd sync
  let t := ((s.fresh.modW fun W => { W with arrivals := W.arrivals ++ [a] }).retire).blockOn (.barArrive b a.op)
  if t.arrivalReady s.cur.g s.cur.w a then t.arriveStep s.cur.g a else t

/-- BAR.ARV sd, b (R175). -/
def execBarArv (d : Fin 64) (b : Fin 16) (s : State) : Out :=
  .next (s.closeRegion.startArrival b.val (popcount (s.barMembers b.val)) (some d.val) false)

/-- BAR.ARV sd, b, sa (R175): exec plays no part. -/
def execBarArvCount (d a : Fin 64) (b : Fin 16) (s : State) : Out :=
  .next (
    let v := (s.rdS a.val).toNat
    if 2 ^ 32 ≤ v then s.raise cIllegal else s.closeRegion.startArrival b.val v (some d.val) false)

/-- BAR.WAIT (R175, R176); its release step counts no lane and may follow later (R188). Where it does not block it acquires at issue
(R189). -/
def execBarWait (a : Fin 64) (b : Fin 16) (s : State) : Out :=
  .next (
    if s.inTrap then s.raise cIllegal
    else
      let p := (s.rdS a.val).setWidth 32
      let a := { s.arrivalOf b.val 0 none false with release := true }
      let t := ((s.closeRegion.adoptBank).fresh.modW fun W => { W with arrivals := W.arrivals ++ [a] }).retire
      let t := if (s.cg.bar b.val).phase = p then t.blockOn (.bar b.val p.toNat) else t.acquire s.cur.g s.cur.w 1
      (t.switchPoint s.cur.g).gangNow s.cur.g)

/-- BAR.SYNC (R175, R176). -/
def execBarSync (b : Fin 16) (s : State) : Out :=
  .next (
    if s.inTrap then s.raise cIllegal
    else (s.closeRegion.adoptBank).startArrival b.val (popcount (s.barMembers b.val)) none true)

/-- BARRIER_ARRIVAL: a split's arrival is counted once its condition holds (R174). -/
def execBarrierArrival (g w sl : Nat) (s : State) : Out :=
  .next (
    match (s.wave g w).arrivals.find? fun a => a.sl == sl && s.arrivalReady g w a with
    | some a =>
      if a.release then s.modWave g w fun W => { W with arrivals := W.arrivals.filter fun x => x.op != a.op }
      else s.arriveStep g a
    | none => s)

/-! ## The die barrier (R178) -/

/-- DBAR: the wave blocks; a switch point and the point at which a pending bank is adopted (R176). -/
def execDbar (s : State) : Out :=
  .next (
    if s.inTrap ∨ s.cw.splits.length ≠ 1 ∨ s.csp.exec ≠ s.csp.members then s.raise cIllegal
    else ((((s.closeRegion.adoptBank).retire).blockOn .dbar).switchPoint s.cur.g).gangNow s.cur.g)

/-- Every unexited wave of the group is blocked at DBAR, its loads have their data, and the writes of every wave of the group, of
those that have exited too, are performed at die scope. -/
def State.dbarReady (s : State) (g : Nat) : Bool :=
  let x := s.group g
  x.isPlaced && !x.dbarArrived && !x.liveWaves.isEmpty &&
  (x.liveWaves.all fun w =>
    ((x.wave w).splits.all fun e => e.2.block == .dbar) && !(x.wave w).splits.isEmpty && (x.wave w).loadIds.isEmpty) &&
  x.waves.all fun w => s.allPerformed (s.waveWrites g w.1) 3

/-- DIE_BARRIER_ARRIVAL (R178). -/
def execDieBarrierArrival (g : Nat) (s : State) : Out :=
  .next (
    if s.dbarReady g then
      let k := (s.group g).kernel
      let d := unitDie (s.group g).unit
      let y := s.slice k d
      ((s.modGroup g fun x => { x with dbarArrived := true }).setSlice k d
        { y with arrived := y.arrived ++ [g] }).checkSlice k d
    else s)

/-! ## Die mailboxes (R179-R181) -/

/-- MBX.SEND: sd is held by the scoreboard until the dispatchers answer. -/
def execMbxSend (d a b : Fin 64) (x : Fin 8) (s : State) : Out :=
  .next (
    let s := s.closeRegion
    let id := s.nextId
    let m : MbxMsg := ⟨id, s.cg.kernel, (s.rdS a.val).toNat, x.val, s.rdS b.val, s.cur.g, s.cur.w, s.cur.sl,
      s.waveWrites s.cur.g s.cur.w, s.cw.accessIds, s.cctx⟩
    let t := { s.fresh with disp := { s.disp with mbxMsgs := s.disp.mbxMsgs ++ [m] } }
    (t.addResult { id := id, kind := .mbx d.val id, counter := .smc, sregs := [d.val], region := s.regionNow }).retire)

def Kernel.active (k : Kernel) : Bool :=
  match k.st with
  | .running => true
  | .retiring => true
  | .armed => false
  | .queued => false
  | .complete => false
  | .failing => false
  | .failed => false

/-- The dispatchers answer an outstanding LAUNCH or MBX.SEND: its result is known, and its count falls (R20). -/
def State.answer (s : State) (g w id : Nat) (out : List (Dest × DWord)) : State :=
  s.modWave g w fun W =>
    let n := (W.results.filter fun r => r.id == id && r.counter == .smc).length
    ({ W with results := W.results.map fun r => if r.id = id then { r with out := out, counter := .none } else r } : Wave).addCount
      .smc (-(n : Int))

/-- The message of a core reaches the dispatcher of its mailbox's die, over the bridges where that is another one (R269, R278). -/
def State.mailReaches (s : State) (m : MbxMsg) : Bool := 7 < m.die || s.bridgeOk (s.group m.group).unit (64 * m.die)

/-- MAILBOX_MESSAGE_ACCEPTANCE: the message enters the queue or is refused, once every access that the wave issued before it
is performed at module scope; messages of one split to one slot in issue order (R180). A message of a context that is no longer the
kernel's enters no mailbox (R63). -/
def execMailboxMessageAcceptance (id : Nat) (s : State) : Out :=
  .next (
    match s.disp.mbxMsgs.find? fun m => m.id == id with
    | none => s
    | some m =>
      let first := s.disp.mbxMsgs.all fun o =>
        !(o.group == m.group && o.wave == m.wave && o.sl == m.sl && o.die == m.die && o.slot == m.slot && o.id < m.id)
      if first && s.mailReaches m && s.allPerformed m.writes 4 && (s.wave m.group m.wave).allLoaded m.loads then
        let k := s.kernel m.kernel
        let key := 8 * m.die + m.slot
        let q := Tbl.getD k.mbx key []
        let t := { s with disp := { s.disp with mbxMsgs := s.disp.mbxMsgs.filter fun o => o.id != id } }
        let d : Nat := match (s.wave m.group m.wave).results.find? fun r => r.id == id with
          | some r => r.sregs.headD 0
          | none => 0
        if 7 < m.die ∨ !k.pkt.dies.testBit (m.die / 4) then t.answer m.group m.wave id [(.s d, BitVec.ofInt 64 (-3))]
        else if 16 ≤ q.length then t.answer m.group m.wave id [(.s d, BitVec.ofInt 64 (-1))]
        else
          let t := if k.active && k.ctx == m.ctx then t.modKernel m.kernel fun k => { k with mbx := Tbl.set k.mbx key (q ++ [m.value]) } else t
          t.answer m.group m.wave id [(.s d, 0)]
      else s)

/-- MBX.WAIT: the whole group stops until it is served; a switch point (R181). -/
def execMbxWait (d : Fin 64) (x : Fin 8) (s : State) : Out :=
  .next (
    if s.inTrap then s.raise cIllegal
    else
      let c := s.cyc
      let t := (s.closeRegion.retire).blockOn .mbx
      (t.modG fun G => { G with mbxWaits := G.mbxWaits ++ [(c, s.cur.w, s.cur.sl, d.val, x.val)] }).switchPoint s.cur.g)

/-- The waits at a slot of a kernel's mailbox on a die, those of saved groups too (R181): (order, linear group number, group, wave, split, sd). -/
def State.mailWaits (s : State) (k die slot : Nat) : List (Nat × Nat × Nat × Nat × Nat × Nat) :=
  s.groups.flatMap fun e =>
    if e.2.kernel = k ∧ unitDie e.2.unit = die then
      (e.2.mbxWaits.filter fun x => x.2.2.2.2 == slot).map fun x => (x.1, e.2.lin, e.1, x.2.1, x.2.2.1, x.2.2.2.1)
    else []

/-- MAILBOX_WAIT_SERVED: the oldest wait at the slot takes the oldest message; among waits of one cycle the lower group number
goes first (R181). -/
def execMailboxWaitServed (k die slot : Nat) (s : State) : Out :=
  .next (
    let K := s.kernel k
    let key := 8 * die + slot
    match Tbl.getD K.mbx key [] with
    | [] => s
    | m :: r =>
      if !K.active then s
      else
        match s.mailWaits k die slot with
        | [] => s
        | x :: xs =>
          let b := xs.foldl (fun b y => if y.1 < b.1 ∨ (y.1 = b.1 ∧ y.2.1 < b.2.1) then y else b) x
          let (_, _, g, w, sl, d) := b
          let t := s.modKernel k fun K => { K with mbx := Tbl.set K.mbx key r }
          let t := t.modWave g w fun W => W.finalS d m
          let t := t.modGroup g fun G => { G with
            mbxWaits := G.mbxWaits.filter fun o => !(o.2.1 == w && o.2.2.1 == sl) }
          ((t.modSplit g w sl fun p => { p with block := .none }).acquire g w 4))

end Sys2Proof.Machine
end

