-- ==== Sys2Proof/Machine/System.lean ====
section
/-! DEFINITION. System instructions: TRAP and RETT (R120, R121), CTX.* and EXIT.K and HALT (R66, R67), LAUNCH (R82), FQ.POP,
FQ.DONE, TLBINV and SNAP (R266-R270), CAPRD and NOTE.* (R300-R302). -/

namespace Sys2Proof.Machine

/-- A privileged instruction raises PROT without the right (R36). -/
def State.privileged (s : State) (k : State → State) : State := if (s.ctx s.cctx).priv then k s else s.raise cProt

/-- The current wave's scalar is written before the split's next instruction issues. -/
def State.setFinal (s : State) (d : Nat) (v : Int) : State := s.modW fun W => W.finalS d (BitVec.ofInt 64 v)

/-! ## TRAP and RETT (R120, R121) -/

/-- TRAP (R120). -/
def execTrap (im : SImm) (s : State) : Out :=
  .next (s.raise cTrap ((simmVal im).toNat % 2 ^ 32))

/-- The interrupted code of a trap frame, resumed with the handler's lanes: at the faulting word, after it, or at a header. -/
def Split.resume (x : Split) (f : TrapFrame) (mode : Nat) (a : DWord) : Split :=
  let y := { x with ctx := f.ctx, fmt := f.fmt, mode := .active, exec := x.members, wait := {}, readySince := none }
  if mode = 0 then { y with pc := f.pc, entering := f.entering }
  else if mode = 2 then { y with pc := a, entering := .checked }
  else if f.entering = .no then { y with entering := .no }.past f.len
  else { y with pc := f.pc + BitVec.ofNat 64 (4 * f.len), entering := .fall }

/-- RETT (R121). -/
def execRett (m : Fin 4) (s : State) : Out :=
  .next (
    match s.cw.trap with
    | none => s.raise cIllegal
    | some f =>
      if !s.inTrap || f.tokens != [] || m.val == 3 ||
          1 < (s.cw.splits.filter fun e => e.2.mode == .trap).length then s.raise cIllegal
      else
        let a := s.rdS 62
        let go (s : State) : State :=
          (s.applyStall.modW fun W => W.endTrap f).modSp fun x => x.resume f m.val a
        if m.val = 2 then s.checkHeader a go else go s)

/-! ## Contexts (R66, R67) -/

/-- CTX.NEW: the region closes before the descriptor is read (R123, R125). -/
def execCtxNew (d a : Fin 64) (s : State) : Out :=
  .next (s.privileged fun s =>
    let x := (s.rdS a.val).toNat
    if x % 64 ≠ 0 then s.raise cAlign 0 x
    else s.closeRegion.loadVa x 64 true fun v s =>
      let r := s.newContext (natLE 64 v)
      (r.1.setFinal d.val r.2).retire)

/-- −3, −4 or −5 as they apply to a context number (R66). -/
def State.ctxBad (s : State) (c : Nat) : Option Int :=
  if 63 < c then some (-3) else if c = s.cctx then some (-4) else if s.ctxFree c then some (-5) else none

/-- CTX.SW: the row of R61, if the state permits it. -/
def execCtxSw (d a : Fin 64) (x : Fin 8) (s : State) : Out :=
  .next (s.privileged fun s =>
    let c := (s.rdS a.val).toNat
    let s := s.closeRegion
    match s.ctxBad c with
    | some v => (s.setFinal d.val v).retire
    | none =>
      let t := (s.setFinal d.val (s.ctx c).st.code).retire
      if x.val = 0 then t.suspendCtx c else t.resumeCtx c)

/-- CTX.END: the status is written when the context becomes free; a second end returns the status of the first (R62). -/
def execCtxEnd (d a : Fin 64) (s : State) : Out :=
  .next (s.privileged fun s =>
    let c := (s.rdS a.val).toNat
    let s := s.closeRegion
    match s.ctxBad c with
    | some v => (s.setFinal d.val v).retire
    | none => (s.retire.blockOn (.ctxEnd d.val c)).endCtx c)

/-- EXIT.K (R67, R273). -/
def execExitK (a : Fin 64) (c : Fin 256) (s : State) : Out :=
  .next (s.privileged fun s =>
    let k := (s.rdS a.val).toNat
    s.closeRegion.retire.exitKernel k c.val)

/-- HALT: the group is pre-empted after this instruction, with its gang (R67, R85). -/
def execHalt (s : State) : Out :=
  .next (s.privileged fun s =>
    let G := s.cg
    let t := (s.closeRegion.retire).modG fun G => { G with halted := true }
    let t := { t with groups := Tbl.mapVals t.groups fun x =>
      if x.kernel = G.kernel ∧ x.gang = G.gang ∧ x.isPlaced then { x with preempt := .now } else x }
    (t.openNotice s.cctx 0x81 s.cu).takeFree fun v t => t.postMgmt 0x81 s.cu (v.toNat % 2 ^ 32))

/-! ## LAUNCH (R82) -/

/-- The wave's stores, drains and MXSTs that the start of a launched kernel waits for. -/
def State.launchWaits (s : State) : List Nat :=
  s.waveWrites s.cur.g s.cur.w ++
  ((s.cc.mxq.filter fun o => o.group == s.cur.g && o.wave == s.cur.w && (o.kind == 3 || o.kind == 5 || o.kind == 6)).map MxOp.id) ++
  ((s.cc.drains.filter fun o => o.group == s.cur.g && o.wave == s.cur.w).map Drain.id)

/-- A launch's result, known from now on. -/
def State.launchResult (s : State) (d : Nat) (v : Option Int) : State :=
  (s.addResult { id := s.nextId, kind := .launch d s.nextId, counter := .smc, sregs := [d], region := s.regionNow
                 out := match v with
                   | some v => [(.s d, BitVec.ofInt 64 v)]
                   | none => [] }).retire

/-- LAUNCH: the region closes before the packet is read (R123, R125). -/
def execLaunch (d a b : Fin 64) (s : State) : Out :=
  .next (
    let x := (s.rdS a.val).toNat
    let q := (s.rdS b.val).toNat
    if x % 64 ≠ 0 then s.raise cAlign 0 x
    else if 256 ≤ q ∨ (s.queue q).ctx ≠ some s.cctx then (s.closeRegion.launchResult d.val (some (-3))).fresh
    else s.closeRegion.loadVa x 64 true fun v s =>
      let m : LaunchMsg := ⟨s.nextId, s.cctx, q, natLE 64 v, s.cur.g, s.cur.w, s.launchWaits⟩
      let t := (s.launchResult d.val none).fresh
      { t with disp := { t.disp with launches := t.disp.launches ++ [m] } })

/-! ## The fault queue (R266, R267) -/

/-- The words of an entry (R264). -/
def FqEntry.toWords (e : FqEntry) (c slot : Nat) : List Nat :=
  [e.page, e.kernel,
   e.kind + 256 * cPage + 65536 * (if e.kind = 4 then 0xFF else e.level) + (if e.malformed then 2 ^ 24 else 0) + 2 ^ 32 * e.count,
   c + 256 * slot + 65536 * e.unit]

/-- The oldest queued entry of a context. -/
def Context.oldestFq (x : Context) : Option (Nat × FqEntry) :=
  (x.fq.filter fun e => !e.2.popped).foldl (fun (b : Option (Nat × FqEntry)) e =>
    match b with
    | none => some e
    | some o => if e.2.order < o.2.order then some e else b) none

/-- FQ.POP. -/
def execFqPop (d a : Fin 64) (s : State) : Out :=
  .next (
    if d.val = 0 ∨ d.val % 4 ≠ 0 then s.raise cIllegal
    else s.privileged fun s =>
      let c := (s.rdS a.val).toNat
      let s := s.closeRegion
      let r : List Nat × State :=
        if 63 < c ∨ s.ctxFree c then ([0, 0, 0xFF, 0], s)
        else
          match (s.ctx c).oldestFq with
          | none => ([0, 0, 0, 0], s)
          | some e => (e.2.toWords c e.1, s.modCtx c fun x => { x with fq := Tbl.set x.fq e.1 { e.2 with popped := true } })
      (r.2.fresh.addResult
        { id := r.2.nextId, kind := .vals, counter := .smc, sregs := (List.range 4).map fun i => d.val + i
          region := r.2.regionNow
          out := (List.range 4).map fun i => (.s (d.val + i), BitVec.ofNat 64 (r.1.getD i 0)) }).retire)

/-- A physical address moved to the page that now translates its old page. -/
def movePa (m : List (Nat × Nat)) (pa : Nat) : Nat :=
  match m.find? fun e => e.1 == pa / 65536 * 65536 with
  | some e => e.2 + pa % 65536
  | none => pa

def movePlace (m : List (Nat × Nat)) (p : Place) : Place :=
  match p with
  | .global pa => .global (movePa m pa)
  | .scratch g o => .scratch g o

/-- New walks for the pages of a held write: the moves (old page, new page), the pages anew, and the first failure. -/
inductive Moves where
  | ok (m : List (Nat × Nat)) (vas : List (Nat × Nat))
  | page (va level : Nat) (malformed : Bool)
  | prot (va pa : Nat)
  deriving DecidableEq, Repr

def State.moves (s : State) (c : Nat) : List (Nat × Nat) → Moves
  | [] => .ok [] []
  | (v, p) :: r =>
    match s.walk c v with
    | .page lv mf => .page v lv mf
    | .leaf l =>
      if !l.w then .prot v p
      else
        match s.moves c r with
        | .ok m vs => .ok ((p, l.pa + (v - l.va)) :: m) ((v, l.pa + (v - l.va)) :: vs)
        | .page v lv mf => .page v lv mf
        | .prot v p => .prot v p

def Payld.move (m : List (Nat × Nat)) (p : Payld) : Payld :=
  match p with
  | .bytes cs => .bytes (cs.map fun c => (movePa m c.1, c.2))
  | .atomic op ty ls => .atomic op ty (ls.map fun l => (l.1, movePa m l.2.1, l.2.2))
  | .contrib ls => .contrib ls
  | .msg m => .msg m

/-- The address that gives a write its home. -/
def Payld.first (p : Payld) : Nat :=
  match p with
  | .bytes cs => (cs.head?.map Prod.fst).getD 0
  | .atomic _ _ ls => (ls.head?.map fun l => l.2.1).getD 0
  | .contrib ls => (ls.head?.map Prod.fst).getD 0
  | .msg _ => 0

def State.modWrite (s : State) (id : Nat) (f : GWrite → GWrite) : State :=
  s.modMem fun m => { m with writes := m.writes.map fun x => if x.id = id then f x else x }

def State.dropWrite (s : State) (id : Nat) : State :=
  s.modMem fun m => { m with writes := m.writes.filter fun x => x.id != id }

/-- A held write is performed nowhere: every line of it is dropped. The operation of an engine that is under way notes the lowest one
(R332, log 14). -/
def State.dropHeld (s : State) (x : GWrite) : State :=
  match (x.covers.map lineOf).foldl lowest none with
  | none => s.dropWrite x.id
  | some l =>
    let t := s.dropWrite x.id
    if x.engine && s.engineLive x.group x.op then t.noteDropped x.group x.op l else t.tellDropped { x with dropped := lowest x.dropped l }

/-- The walks of a replay read their tables, and meet the stored errors there (R13). -/
def State.replayTouch (s : State) (c : Nat) (vas : List (Nat × Nat)) : State := vas.foldl (fun t v => t.walkTouch c v.1) s

/-- A die reaches every table of these pages (R269, R278). -/
def State.walksOk (s : State) (d c : Nat) (vas : List (Nat × Nat)) : Bool := vas.all fun v => s.walkOk d c v.1

/-- Where a moved write stands on its path to the home it has now. -/
def Stage.toHome (x : Stage) (home : Nat) : Stage := if remoteHome home then .module else if 4 ≤ x.rank then .die else x

/-- Replays a held write's translation (R267, R270), once its die reaches the tables (R269, R278); one whose leaf no longer permits it is
dropped (R332, log 14). -/
def State.replayWrite (s : State) (id : Nat) : State :=
  match s.memory.writes.find? fun x => x.id == id with
  | none => s
  | some x =>
    if !s.walksOk (unitDie x.unit) x.ctx x.vas then s.modWrite id fun y => { y with again := true }
    else
      let m := s.moves x.ctx x.vas
      let s := s.replayTouch x.ctx x.vas
      match m with
      | .ok m vs =>
        let p := x.payld.move m
        s.modWrite id fun y => { y with
          payld := p, vas := vs, home := homeOf p.first, held := false, again := false, stage := y.stage.toHome (homeOf p.first) }
      | .page v lv mf =>
        let r := s.fqRaise x.ctx v 2 lv mf (s.group x.group).kernel x.unit (.write id)
        r.1.modWrite id fun y => { y with held := r.2.isSome, again := false }
      | .prot _ _ => s.dropHeld x

/-- The pages of an engine operation of a group. -/
def State.enginePages (s : State) (g id : Nat) : List (Nat × Nat) :=
  let u := (s.group g).unit
  ((s.group g).tapOps.filter fun o => o.id == id).flatMap TapOp.vas ++
  ((s.core u).mxq.filter fun o => o.id == id).flatMap MxOp.vas ++
  ((s.core u).drains.filter fun o => o.id == id).flatMap Drain.vas

/-- An engine operation goes on, with its places moved (R267). -/
def State.releaseEngine (s : State) (g id : Nat) (m vs : List (Nat × Nat)) : State :=
  let u := (s.group g).unit
  (s.modGroup g fun x => { x with
    copies := x.copies.map fun c => if c.id = id then { c with paged := false } else c
    tapOps := x.tapOps.map fun o =>
      if o.id = id then { o with paged := false, vas := vs, places := o.places.map (movePlace m) } else o }).modCore u
    fun c => { c with
      mxq := c.mxq.map fun o =>
        if o.id = id then { o with paged := false, vas := vs, places := o.places.map (movePlace m) } else o
      drains := c.drains.map fun o =>
        if o.id = id then { o with paged := false, vas := vs, steps := o.steps.map fun st => st.map fun p => (movePlace m p.1, p.2) }
        else o }

/-- An engine operation replays with new walks; where its die's bridges do not reach the tables it stays held, and replays later (R267,
R269). -/
def State.replayEngine (s : State) (g id : Nat) : State :=
  let c := s.ctxOf g
  let old := s.enginePages g id
  if !s.walksOk (unitDie (s.group g).unit) c old then s
  else
    let m := s.moves c old
    let s := s.replayTouch c old
    match m with
    | .ok m vs => s.releaseEngine g id m vs
    | .page v lv mf =>
      let r := s.fqRaise c v 2 lv mf (s.group g).kernel (s.group g).unit (.copy g id)
      if r.2.isSome then r.1 else s.releaseEngine g id [] old
    | .prot _ _ => s.releaseEngine g id [] old

/-- A held engine operation whose entry is closed replays (R269). -/
def State.retryEngine (s : State) (g id : Nat) : State :=
  if (s.ctx (s.ctxOf g)).fq.any fun e => e.2.waiters.contains (.copy g id) then s else s.replayEngine g id

/-- Where a version's virtual slot lies now; where nothing translates it, as before. -/
def State.slotNow (s : State) (c : Nat) (v : Version) : Nat :=
  match s.walk c v.va with
  | .leaf l => l.pa + (v.va - l.va)
  | .page _ _ => v.slot

/-- A pending version of a record. -/
def State.pendingVersion (s : State) (unit id slot : Nat) : Option Version :=
  (s.memory.pending.find? fun e => e.1 == unit && e.2.1 == id && e.2.2.slot == slot).map fun e => e.2.2

def State.modVersion (s : State) (unit id slot : Nat) (f : Version → Version) : State :=
  s.modMem fun m => { m with pending := m.pending.map fun (e : Nat × Nat × Version) =>
    if e.1 = unit ∧ e.2.1 = id ∧ e.2.2.slot = slot then (e.1, e.2.1, f e.2.2) else e }

/-- A pending version of a record moves to the frame that now translates it, or waits on a new entry (R267, R270). -/
def State.replayVersion (s : State) (unit id slot : Nat) : State :=
  match s.pendingVersion unit id slot with
  | none => s
  | some v =>
    if !s.walksOk (unitDie (unit % 512)) v.ctx [(v.va, v.slot)] then s
    else
      let t := s.walkTouch v.ctx v.va
      match s.walk v.ctx v.va with
      | .leaf _ => t.modVersion unit id slot fun y => { y with slot := s.slotNow v.ctx v, held := false }
      | .page lv mf =>
        let r := t.fqRaise v.ctx v.va 2 lv mf v.kernel (unit % 512) (.version unit id slot)
        r.1.modVersion unit id slot fun y => { y with held := r.2.isSome }

/-- A die forgets a page of a context: the next access walks anew (R267). -/
def State.forget (s : State) (d c va : Nat) : State := s.modDie d fun x => { x with tlb := x.tlb.filter fun l => !l.covers c va }

/-- A pending version is dropped. -/
def State.dropVersion (s : State) (unit id slot : Nat) : State :=
  s.modMem fun m => { m with pending := m.pending.filter fun e => !(e.1 == unit && e.2.1 == id && e.2.2.slot == slot) }

/-- Replays one access that waits on a page, with a new walk. -/
def State.replay (s : State) (page : Nat) (w : Waiter) : State :=
  let anew (g : Nat) : State := s.forget (unitDie (s.group g).unit) (s.ctxOf g) page
  match w with
  | .split g v sl => (anew g).wake g v sl
  | .copy g id => (anew g).replayEngine g id
  | .write id =>
    match s.memory.writes.find? fun x => x.id == id with
    | some x => (s.replayWrite id).settleFences x.group x.wave
    | none => s
  | .version u id slot => s.replayVersion u id slot

/-- The kernel of a waiting access. -/
def State.waiterKernel (s : State) (w : Waiter) : Nat :=
  match w with
  | .split g _ _ => (s.group g).kernel
  | .copy g _ => (s.group g).kernel
  | .write id =>
    match s.memory.writes.find? fun x => x.id == id with
    | some x => (s.group x.group).kernel
    | none => 0
  | .version u id slot =>
    match s.pendingVersion u id slot with
    | some v => v.kernel
    | none => 0

/-- Ends a waiting access's kernel with EXHAUSTED; a held write is performed nowhere (log 14). -/
def State.failWaiter (s : State) (w : Waiter) : State :=
  let t := s.exitKernel (s.waiterKernel w) cExhausted
  match w with
  | .write id =>
    match t.memory.writes.find? fun x => x.id == id with
    | some x => (t.dropWrite id).tellDropped x
    | none => t
  | .split _ _ _ => t
  | .copy _ _ => t
  | .version u id slot => t.dropVersion u id slot

/-- FQ.DONE's condition holds: the entry closes (R267). -/
def State.fqClose (s : State) (sa : Nat) (fail : Bool) : State :=
  let c := sa % 256
  let k := sa / 256 % 256
  match Tbl.get? (s.ctx c).fq k with
  | none => s
  | some e =>
    let t := s.modCtx c fun x => { x with fq := Tbl.del x.fq k }
    e.waiters.foldl (fun t w => if fail then t.failWaiter w else t.replay e.page w) t

/-- The wave's operations numbered below `n` are performed at module scope; a held write counts as performed (R268). -/
def State.opsDone (s : State) (g w n : Nat) : Bool :=
  s.memory.writes.all fun x => !(x.group == g && x.wave == w && !x.engine && x.op < n) || x.performedAt 4 || x.held

/-- An invalidation's scope (R268). -/
def invalScope (a b x : Nat) : Option Nat × Option Nat :=
  if x = 0 then (some a, some b) else if x = 1 then (some a, none) else (none, none)

/-- FQ.DONE and TLBINV go on once the wave's earlier writes are performed at module scope. -/
def State.settleSystem (s : State) (g w : Nat) : State :=
  (s.wave g w).splits.foldl (fun t e =>
    match e.2.block with
    | .fqDone d sa fail n =>
      if t.opsDone g w n then
        ((t.modWave g w fun W => W.finalS d 0).modSplit g w e.1 fun p => { p with block := .none }).fqClose sa fail
      else t
    | .tlbSend d a b x n =>
      if t.opsDone g w n then
        let id := t.nextId
        (t.sendInval (invalScope a b x).1 (invalScope a b x).2).modSplit g w e.1 fun p => { p with block := .tlbinv d id }
      else t
    | .none => t | .fwait _ _ => t | .dusk _ => t | .bar _ _ => t | .barArrive _ _ => t | .dbar => t | .mbx => t
    | .ctxEnd _ _ => t | .tlbinv _ _ => t | .snap _ _ => t | .page _ _ => t | .pageFull => t) s

/-- What a wave waits for may hold after one of its writes has moved. -/
def State.settleWave (s : State) (g w : Nat) : State := (s.settleFences g w).settleSystem g w

/-- FQ.DONE. -/
def execFqDone (d a : Fin 64) (x : Fin 8) (s : State) : Out :=
  .next (s.privileged fun s =>
    let v := (s.rdS a.val).toNat
    let c := v % 256
    let s := s.closeRegion
    if 63 < c ∨ s.ctxFree c then (s.setFinal d.val (-3)).retire
    else
      match Tbl.get? (s.ctx c).fq (v / 256 % 256) with
      | some e =>
        if e.popped then
          (s.retire.blockOn (.fqDone d.val (v % 65536) (x.val == 1) s.nextId)).settleSystem s.cur.g s.cur.w
        else (s.setFinal d.val (-1)).retire
      | none => (s.setFinal d.val (-1)).retire)

/-- TLBINV. -/
def execTlbinv (d a b : Fin 64) (x : Fin 8) (s : State) : Out :=
  .next (s.privileged fun s =>
    let c := (s.rdS a.val).toNat
    let v := (s.rdS b.val).toNat
    let s := s.closeRegion
    if x.val < 2 ∧ (63 < c ∨ s.ctxFree c) then (s.setFinal d.val (-3)).retire
    else (s.retire.blockOn (.tlbSend d.val c v x.val s.nextId)).settleSystem s.cur.g s.cur.w)

/-! ## SNAP (R270) -/

/-- The valid leaves under a table, level by level. -/
def State.leavesFrom (s : State) (c : Nat) : Nat → Nat → List (Nat × Nat × Nat × Nat × Nat) → List Leaf
  | _, _, [] => []
  | table, va, (lv, lo, wd, nextSize, size) :: rest =>
    (List.range (2 ^ wd)).flatMap fun i =>
      let a := table + 8 * i
      let v := va + i * 2 ^ lo
      if s.linePoisoned (lineOf a) then []
      else
        let e := leNat (s.bytesAt a 8)
        let addr := fld e 8 44 * 256
        if !bit e 0 ∨ fld e 52 12 ≠ 0 then []
        else if bit e 1 then
          if size = 0 ∨ addr % size ≠ 0 ∨ !frameOk addr (fld e 6 2) then []
          else [⟨c, v, size, s.norm addr, bit e 2, bit e 3, bit e 4, bit e 5⟩]
        else if lv = 0 ∨ fld e 2 6 ≠ 0 ∨ addr % nextSize ≠ 0 ∨ addr / 2 ^ 48 = 8 then []
        else s.leavesFrom c addr v rest

/-- The lines of the tables that SNAP's walk reads, level by level. -/
def State.tableLines (s : State) : Nat → List (Nat × Nat × Nat × Nat × Nat) → List Nat
  | _, [] => []
  | table, (lv, _, wd, nextSize, _) :: rest =>
    (((List.range (2 ^ wd)).map fun i => lineOf (table + 8 * i)).eraseDups) ++
    (List.range (2 ^ wd)).flatMap fun i =>
      let a := table + 8 * i
      let e := leNat (s.bytesAt a 8)
      let addr := fld e 8 44 * 256
      if s.linePoisoned (lineOf a) || !bit e 0 || bit e 1 || lv == 0 || fld e 52 12 != 0 || fld e 2 6 != 0 || addr % nextSize != 0 ||
          addr / 2 ^ 48 == 8 then []
      else s.tableLines addr rest

/-- SNAP's walk reaches every table it reads (R269, R278). -/
def State.snapWalkOk (s : State) : Bool :=
  (!(s.die (unitDie s.cu)).fenced && s.dies.all fun d => !d.2.relocking) ||
  (s.tableLines (s.ctx s.cctx).root walkLevels).all fun l => s.bridgeOk s.cu (homeOf l)

/-- SNAP's walk meets the stored errors of the lines it reads (R13). -/
def State.snapTouch (s : State) : State :=
  if s.memory.errs.isEmpty then s
  else ((s.tableLines (s.ctx s.cctx).root walkLevels).eraseDups).foldl State.touchLine s

/-- The requests of a SNAP to homes of other modules enter the module queue for their ordered flows (R270). -/
def State.askFar (s : State) (id t : Nat) (fs : List (Nat × Nat)) : State :=
  (fs.filter fun f => remoteHome (homeOf f.1)).foldl (fun u f => u.addWrites
    { id := 0, op := u.nextId, ctx := s.cctx, group := s.cur.g, wave := s.cur.w, unit := s.cu, home := 0, stage := .module
      payld := .bytes [], engine := true } [(homeOf f.1, .msg (.snapshot id t f.1 f.2))]) s

/-- The homes of other modules withdraw a snapshot, or release it (R270). -/
def State.withdrawFar (s : State) (c id : Nat) (n : Snapshot) : State :=
  ((n.frames.map fun f => homeOf f.1).filter remoteHome |>.map fun h => h / 512 * 512).eraseDups.foldl (fun u h => u.addWrites
    { id := 0, op := u.nextId, ctx := c, group := 0, wave := 0, unit := 0, home := 0, stage := .module, payld := .bytes []
      engine := true } [(h, .msg (.withdraw id))]) s

/-- The writable frames of a context. -/
def State.writableFrames (s : State) (c : Nat) : List (Nat × Nat) :=
  ((s.leavesFrom c (s.ctx c).root 0 walkLevels).filter Leaf.w).map fun l => (l.pa, l.size)

/-- SNAP: the frames' homes are asked; the status is written when all have answered. -/
def execSnap (d a : Fin 64) (s : State) : Out :=
  .next (
    let t := (s.rdS a.val).toNat
    let s := s.closeRegion
    if t ≤ s.time.hi + 20000 ∨ s.time.hi + 1000000000 < t then (s.setFinal d.val (-2)).retire
    else
      match (List.range 4).find? fun k => !Tbl.has (s.ctx s.cctx).snaps k with
      | none => (s.setFinal d.val (-1)).retire
      | some id =>
        let fs := s.writableFrames s.cctx
        let s := (s.snapTouch).askFar id t fs
        let n : Snapshot :=
          { t := t, frames := fs, asked := fs, complete := fs.isEmpty
            issuer := if fs.isEmpty then none else some (s.cur.g, s.cur.w, s.cur.sl, d.val) }
        let u := (s.modCtx s.cctx fun x => { x with snaps := Tbl.set x.snaps id n }).retire
        if fs.isEmpty then u.setFinal d.val id else u.blockOn (.snap d.val id))

/-! ## CAPRD, NOTE.GET, NOTE.CNT (R300-R302) -/

/-- A unit number that names a unit (R8, R289). -/
def isLeaseUnit (n : Nat) : Bool :=
  isUnit n || (0x200 ≤ n && n < 0x224) || (0x400 ≤ n && n < 0x600) || (0x600 ≤ n && n < 0x620)

/-- What CAPRD reads (R301). -/
def State.capacity (s : State) (c v x : Nat) : Nat :=
  let cores (p : LUnit → Bool) : Nat :=
    if 7 < v then 0
    else (List.range 64).foldl (fun n i =>
      if (s.partition c).contains (64 * v + i) && p (s.unit (64 * v + i)) then n + 2 ^ i else n) 0
  match x with
  | 0 => cores LUnit.inService
  | 1 => cores LUnit.leased
  | 2 => cores fun u => u.st == .retired
  | 3 => (List.range 36).foldl (fun n i => if s.laneGroupUp i then n + 2 ^ i else n) 0
  | _ =>
    if 65536 ≤ v ∨ !isLeaseUnit v then 2 ^ 64 - 1
    else
      let u := s.unit v
      u.score + (if u.st = .retired then 65536 else 0) + (if u.leased then 131072 else 0)

/-- A result on SMC whose values are taken now. -/
def State.smcVals (s : State) (out : List (Nat × Nat)) : State :=
  (s.fresh.addResult
    { id := s.nextId, kind := .vals, counter := .smc, sregs := out.map Prod.fst, region := s.regionNow
      out := out.map fun p => (.s p.1, BitVec.ofNat 64 p.2) }).retire

/-- CAPRD. -/
def execCaprd (d a : Fin 64) (x : Fin 8) (s : State) : Out :=
  .next (s.smcVals [(d.val, s.capacity s.cctx (s.rdS a.val).toNat x.val)])

/-- NOTE.GET: the entry is taken when the result is written; committing (R123). -/
def execNoteGet (d : Fin 64) (s : State) : Out :=
  .next (
    if d.val = 0 ∨ d.val % 2 = 1 then s.raise cIllegal
    else
      let s := s.closeRegion
      (s.fresh.addResult { id := s.nextId, kind := .noteGet d.val, counter := .smc, sregs := [d.val, d.val + 1]
                           region := s.regionNow }).retire)

/-- NOTE.CNT; with x = 1 it clears the lost count and is committing (R123). -/
def execNoteCnt (d : Fin 64) (x : Fin 8) (s : State) : Out :=
  .next (
    let s := if x.val = 1 then s.closeRegion else s
    let c := s.ctx s.cctx
    let t := s.smcVals [(d.val, c.lost + 2 ^ 32 * c.unread)]
    if x.val = 1 then t.modCtx s.cctx fun y => { y with lost := 0 } else t)

end Sys2Proof.Machine
end

