-- ==== Sys2Proof/Machine/Lantern.lean ====
section
/-! DEFINITION. The steps of the Lantern machine (R186-R193): READ, ADVANCE, PERFORM, DELIVER, FILL, DROP; the write-back of a
corrected line (R13); the writing of results (R20, R26, R242, R249, R302). -/

namespace Sys2Proof.Machine

/-! ## Bank units (R157, R185) -/

def Req.unread (q : Req) : Bool := q.got.isNone

/-- The unit whose bank holds a place. -/
def State.bankOf (s : State) (p : Place) : Option Nat :=
  match p with
  | .global _ => none
  | .scratch g _ => some (s.group g).unit

/-- No earlier access stands before access `id` of a wave on core `u` at the bank of core `b`: on its own bank every earlier
access of the core, on another the wave's own earlier window accesses (R185). -/
def State.bankClear (s : State) (g w id b : Nat) : Bool :=
  let u := (s.group g).unit
  let near := u == b
  (s.groups.all fun e =>
    if near then e.2.unit != u || e.2.waves.all fun v => v.2.results.all fun r =>
      id ≤ r.id || r.reqs.all fun q => !(q.unread && s.bankOf q.place == some b)
    else e.1 != g || (e.2.wave w).results.all fun r =>
      id ≤ r.id || r.reqs.all fun q => !(q.unread && s.bankOf q.place == some b)) &&
  s.memory.writes.all fun x =>
    id ≤ x.op || x.engine ||
    (match x.scratchOf with
     | none => true
     | some h => (s.group h).unit != b || (if near then x.unit != u else !(x.group == g && x.wave == w)))

/-! ## READ (R186) -/

def GWrite.isPlain (x : GWrite) : Bool :=
  match x.payld with
  | .bytes _ => true
  | .atomic _ _ _ => false
  | .contrib _ => false
  | .msg _ => false

/-- The byte that a plain write gives an address. -/
def GWrite.byte (x : GWrite) (pa : Nat) : Option Byte :=
  match x.payld with
  | .bytes cs => (cs.reverse.find? fun c => c.1 == pa).map Prod.snd
  | .atomic _ _ _ => none
  | .contrib _ => none
  | .msg _ => none

/-- The write stands at a place on the path of reads by wave `w` of group `g` (R186); rank 0 is looked at first. -/
def State.onPath (s : State) (g w : Nat) (x : GWrite) : Option Nat :=
  let G := s.group g
  let H := s.group x.group
  let c := s.ctxOf g
  match x.stage with
  | .store => if x.group = g ∧ x.wave = w then some 0 else none
  | .group => if x.group = g then some 1 else none
  | .gang => if H.kernel = G.kernel ∧ H.gang = G.gang then some 2 else none
  | .die => if unitDie x.unit = unitDie G.unit ∧ x.ctx = c then some 3 else none
  | .module => if x.ctx = c && !x.engine then some 4 else none
  | .flow => none

/-- The newest write to a byte at the first place of the path that holds one. -/
def State.pathWrite (s : State) (g w pa : Nat) : Option GWrite :=
  let ws := s.memory.writes.filter fun x => x.scratchOf.isNone && x.isPlain && (x.byte pa).isSome
  (List.range 5).findSome? fun k => (ws.reverse.find? fun x => s.onPath g w x == some k)

/-- The wave reads nothing older than this write (R187, R190): its own, or one that it has read or acquired (log 61). -/
def GWrite.binds (x : GWrite) (g w : Nat) : Bool := (x.group == g && !x.engine && x.wave == w) || x.seen.contains (g, w)

/-- A write stands ahead of another on one path, and comes to the home of their lines before it (R185, R187, R193). -/
def State.goesBefore (s : State) (y x : GWrite) : Bool :=
  unitDie y.unit == unitDie x.unit && y.ctx == x.ctx && (!remoteHome x.home || y.isOrdered == x.isOrdered) &&
  (x.stage.rank < y.stage.rank ||
    (x.stage.rank == y.stage.rank && (s.memory.writes.takeWhile fun z => z.id != x.id).any fun z => z.id == y.id))

/-- A load of the wave finds the byte at its home, and not on its path, in the core's view or in LDK's cache (R161, R186). -/
def State.goesHome (s : State) (g w : Nat) (ldk : Bool) (pa : Nat) : Bool :=
  let c := s.core (s.group g).unit
  if ldk then !Tbl.has c.kcache (lineOf pa) else (s.pathWrite g w pa).isNone && !Tbl.has c.view (lineOf pa)

/-- A global byte may be read now: no unperformed atomic of the wave targets it (R186), and what the path gives is no older than a
write that binds the wave (R187, R190). -/
def State.mayRead (s : State) (g w pa : Nat) : Bool :=
  let mine := s.memory.writes.filter fun x => x.touches (.global pa) && x.binds g w
  (mine.all fun x => x.isPlain || !(x.group == g && x.wave == w)) &&
  (match s.pathWrite g w pa with
   | some x => mine.all fun y => y.id == x.id || s.goesBefore y x
   | none => mine.isEmpty)

/-- A byte as a load of the wave finds it, with its poison. -/
def State.loadByte (s : State) (g w : Nat) (ldk : Bool) (pa : Nat) : Byte × Bool :=
  let u := (s.group g).unit
  let l := lineOf pa
  let home : Byte × Bool := if s.linePoisoned l then (0, true) else (s.byteAt pa, false)
  if ldk then
    match Tbl.get? (s.core u).kcache l with
    | some b => (b.getD (pa - l) 0, false)
    | none => home
  else
    match s.pathWrite g w pa with
    | some x => ((x.byte pa).getD 0, x.poison)
    | none =>
      match Tbl.get? (s.core u).view l with
      | some [] => (0, true)
      | some b => (b.getD (pa - l) 0, false)
      | none => home

/-- The home reads a line for a load: the line meets its stored errors, once (R13); LDK's cache takes it. -/
def State.homeRead (s : State) (u : Nat) (ldk : Bool) (l : Nat) : State :=
  if !s.admits l then s
  else
    let t := s.touchLine l
    if !ldk || t.linePoisoned l then t else t.modCore u fun c => { c with kcache := Tbl.set c.kcache l (t.bytesAt l 64) }

/-- What reading these bytes leaves behind: the reader is noted at the writes it read; the lines read at their home are read there. -/
def State.readTrace (s : State) (g w : Nat) (ldk : Bool) (pas : List Nat) : State :=
  let from' := if ldk then [] else (pas.filterMap (s.pathWrite g w)).map GWrite.id
  let t := if from'.isEmpty then s
    else s.modMem fun m => { m with writes := m.writes.map fun x => if from'.contains x.id then x.noteSeen g w else x }
  (((pas.filter (s.goesHome g w ldk)).map lineOf).eraseDups).foldl (fun t l => t.homeRead (s.group g).unit ldk l) t

/-- Earlier results of the wave. -/
def Wave.earlier (x : Wave) (id : Nat) : List Result := x.results.takeWhile fun r => r.id != id

/-- The scope at which a result acquires when it is written (R163, R189, R302). -/
def ResKind.acquireScope (k : ResKind) : Option Nat :=
  match k with
  | .atomic _ _ a => if a = 0 then none else if a = 1 then some 4 else some 2
  | .noteGet _ => some 4
  | .load _ => none | .ldk _ => none | .vals => none | .tnow _ _ => none | .ldat _ _ _ => none
  | .actld _ => none | .launch _ _ => none | .mbx _ _ => none

def ResKind.acquires (k : ResKind) : Bool := k.acquireScope.isSome

def ResKind.isAtomic (k : ResKind) : Bool :=
  match k with
  | .atomic _ _ _ => true
  | .load _ => false | .ldk _ => false | .vals => false | .tnow _ _ => false | .noteGet _ => false | .ldat _ _ _ => false
  | .actld _ => false | .launch _ _ => false | .mbx _ _ => false

def ResKind.isLdk (k : ResKind) : Bool :=
  match k with
  | .ldk _ => true
  | .load _ => false | .atomic _ _ _ => false | .vals => false | .tnow _ _ => false | .noteGet _ => false
  | .ldat _ _ _ => false | .actld _ => false | .launch _ _ => false | .mbx _ _ => false

/-! ## Records at their homes (R244, R248, R249) -/

/-- Stamp, writer and payload of one line of a slot, where it is visible. -/
def State.slotLine (s : State) (l : Nat) : Option (Nat × Nat × List Byte) :=
  let b := s.bytesAt l 64
  let ctl := fieldAt8 b 56
  if bit ctl 16 then some (fieldAt8 b 48, ctl % 32768, b.take 48) else none
where
  fieldAt8 (b : List Byte) (o : Nat) : Nat := leNat ((b.drop o).take 8)

/-- (stamp, writer) pairs in the order of R244. -/
def stampLt (a b : Nat × Nat) : Bool := a.1 < b.1 || (a.1 == b.1 && a.2 < b.2)

/-- The greatest visible version of a slot with stamp ≤ t: its line. -/
def State.visibleAt (s : State) (slot t : Nat) : Option (Nat × Nat × Nat) :=
  ((List.range 4).filterMap fun i =>
    match s.slotLine (slot + 64 * i) with
    | some (st, w, _) => if st ≤ t then some (slot + 64 * i, st, w) else none
    | none => none).foldl (fun (b : Option (Nat × Nat × Nat)) x =>
      match b with
      | none => some x
      | some y => if stampLt y.2 x.2 then some x else b) none

/-- The frontier of another module on the ordered flow of one of its contexts has come, and is past `t` (R248). -/
def State.frontierOf (s : State) (m c t : Nat) : Bool := Tbl.has s.memory.settled (64 * m + c) && t ≤ Tbl.getD s.memory.settled (64 * m + c) 0

/-- A home is settled at `t`: every version of this module's holds with stamp ≤ t has reached its home there, the module's lo is
past t, and so is the frontier of every other module of the pod, on each of its ordered flows (R248, log 65). -/
def State.settledAt (s : State) (home t : Nat) : Bool :=
  t < s.time.lo && (s.pod.members.all fun m => m == s.mod || (List.range 64).all fun c => s.frontierOf m c t) &&
  s.cores.all fun c => c.2.hold.all fun h => h.vers.all fun v => v.sent || t < v.stamp || homeOf v.slot != home

/-- No pending version of the record with stamp ≤ t exceeds its greatest visible one. -/
def State.noPending (s : State) (slot t : Nat) : Bool :=
  s.memory.pending.all fun e =>
    let v := e.2.2
    v.slot != slot || t < v.stamp ||
    (match s.visibleAt slot t with
     | some (_, st, w) => stampLt (v.stamp, v.writer) (st, w)
     | none => false)

/-- The lines that an LDAT of a record reads at its home: the four of its slot, for their stamps. -/
def State.ldatLines (s : State) (pa : Nat) : List Nat :=
  ((List.range 4).map fun i => pa / 256 * 256 + 64 * i).filter s.admits

/-- LDAT reads a lane's word: bit 32 says that no version was found. -/
def State.ldatWord (s : State) (pa t : Nat) : DWord × Bool :=
  if !s.admits pa then (0, true) else
  let slot := pa / 256 * 256
  match s.visibleAt slot t with
  | some (l, _, _) => (BitVec.ofNat 64 (leNat (s.bytesAt (l + pa % 256) 4)), s.linePoisoned l)
  | none => (BitVec.ofNat 64 (2 ^ 32), (List.range 4).any fun i => s.linePoisoned (slot + 64 * i))

/-- Changes a result of a wave. -/
def State.modResult (s : State) (g w id : Nat) (f : Result → Result) : State :=
  s.modWave g w fun W => { W with results := W.results.map fun r => if r.id = id then f r else r }

/-- READ of an LDAT: every record of it at one home, once. Where no up link reaches the home's module, every lane reads poison
(R12, R262). -/
def State.readRecords (s : State) (g w id home v t : Nat) (r : Result) : State :=
  let mine := r.pas.filter fun p => homeOf p.2 == home
  if mine.isEmpty ||
      (s.admits (mine.head?.map Prod.snd |>.getD 0) &&
        (!(mine.all fun p => s.settledAt home t && s.noPending (p.2 / 256 * 256) t) ||
          (remoteHome home && s.readsHeld (s.ctxOf g) (mine.map Prod.snd)))) then s
  else
    let xs := mine.map fun p => (p.1, s.ldatWord p.2 t)
    let s := if remoteHome home then s.countReads (s.ctxOf g) [mine.head?.map Prod.snd |>.getD 0] else s
    ((mine.flatMap fun p => s.ldatLines p.2).eraseDups.foldl State.touchLine s).modResult g w id fun r => { r with
      pas := r.pas.filter fun p => homeOf p.2 != home
      out := r.out ++ xs.map fun x => (.v v x.1, x.2.1)
      poisoned := r.poisoned || xs.any fun x => x.2.2 }

/-- The global addresses among byte requests. -/
def globalPas (qs : List Req) : List Nat :=
  qs.filterMap fun q =>
    match q.place with
    | .global pa => some pa
    | .scratch _ _ => none

/-- The bytes of a load that lie at one home may be read there now. -/
def State.readOk (s : State) (g w id home : Nat) (ldk : Bool) (mine : List Req) : Bool :=
  match mine with
  | [] => false
  | q :: _ =>
    match q.place with
    | .scratch h _ => s.bankClear g w id (s.group h).unit
    | .global _ =>
      let pas := globalPas mine
      s.bridgeOk (s.group g).unit home && (pas.all fun pa => ldk || s.mayRead g w pa) &&
      !(remoteHome home && s.readsHeld (s.ctxOf g) (pas.filter (s.goesHome g w ldk)))

/-- READ: the bytes of a pending load that lie at one home are read in one step (R186, R191). -/
def execRead (g w id home : Nat) (s : State) : Out :=
  .next (
    let W := s.wave g w
    match W.results.find? fun r => r.id == id with
    | none => s
    | some r =>
      match r.kind with
      | .ldat v _ t => if s.bridgeOk (s.group g).unit home then s.readRecords g w id home v t r else s
      | .load _ | .ldk _ | .actld _ | .atomic _ _ _ | .vals | .tnow _ _ | .noteGet _ | .launch _ _ | .mbx _ _ =>
        let mine := r.reqs.filter fun q => q.unread && placeHome q.place == home
        let early := W.earlier id
        let blocked := mine.isEmpty || r.kind.isAtomic || (early.any fun e => e.kind.acquires) ||
          (early.any fun e => e.reqs.any fun q => q.unread && mine.any fun m => m.place == q.place)
        let ldk := r.kind.isLdk
        if blocked || !s.readOk g w id home ldk mine then s
        else
          let val (q : Req) : Req :=
            match q.place with
            | .global pa => let x := s.loadByte g w ldk pa; { q with got := some x.1, poison := x.2 }
            | .scratch h o => { q with got := some (s.scratchRead h o), poison := s.scratchPoisoned h o }
          let pas := globalPas mine
          let t := (if remoteHome home then s.countReads (s.ctxOf g) (pas.filter (s.goesHome g w ldk)) else s).readTrace g w ldk pas
          (t.modResult g w id fun r => { r with
            reqs := r.reqs.map fun q => if q.unread && placeHome q.place == home then val q else q }).settleFences g w)

/-! ## ADVANCE (R186, R187) -/

/-- The write moves behind the others of its new place. -/
def State.moveTo (s : State) (x : GWrite) : State :=
  s.modMem fun m => { m with writes := (m.writes.filter fun y => y.id != x.id) ++ [x] }

/-- A write leaves the list: the counter falls with the last counted write of its operation. -/
def State.uncount (s : State) (x : GWrite) : State :=
  if x.counted && s.memory.writes.all (fun y => !(y.op == x.op && y.counted && y.id != x.id)) then
    s.modWave x.group x.wave fun W => W.addCount .vmc (-1)
  else s

/-- A write is performed: one of a flow is acknowledged by the receiver's reorder buffer. -/
def State.finishWrite (s : State) (x : GWrite) : State :=
  let t := (s.uncount x).dropWrite x.id
  match x.seq with
  | some _ =>
    let k := x.flowKey
    t.setFlow k { t.flow k with unacked := (t.flow k).unacked - 1 }
  | none => t

/-- The round count of a line is kept by its window's number, below 16, and the line (R286). -/
def countKey (win line : Nat) : Nat := 16 * line + win % 16
def windowOfKey (k : Nat) : Nat := k % 16

/-- The key of a line's round count: of the member's window there. -/
def State.countKeyAt (s : State) (l : Nat) : Nat := countKey ((s.winAt l).elim 0 Prod.fst) l

/-- A contribution enters its flow: it carries its line's round count, which rises; its context uses the window (R286). -/
def State.enterRound (s : State) (x : GWrite) : State × GWrite :=
  match x.payld with
  | .contrib ((l, b) :: _) =>
    let n := Tbl.getD s.pod.counts (s.countKeyAt l) 0
    let users := match s.winAt l with
      | some w => if s.pod.users.contains (w.1, x.ctx) then s.pod.users else s.pod.users ++ [(w.1, x.ctx)]
      | none => s.pod.users
    let t : State := { s with pod := { s.pod with counts := Tbl.set s.pod.counts (s.countKeyAt l) ((n + 1) % 2 ^ 32), users := users } }
    (t.uncount x, { x with round := n, counted := false, engine := true, payld := .contrib [(l, b)] })
  | .contrib [] => (s, x)
  | .bytes _ => (s, x)
  | .atomic _ _ _ => (s, x)
  | .msg _ => (s, x)

/-- A message leaves the module queue for its flow in its channel's turn (R282, R284). -/
def State.sendWrite (s : State) (x : GWrite) : State :=
  let k := x.flowKey
  if !s.atPortOf x then s
  else
    let r := s.flowLink k
    match r.1.turnOf r.2 x with
    | none => r.1
    | some t =>
      let f := t.flow k
      let e := (((t.setFlow k { f.count with unacked := f.unacked + 1, versions := f.versions || x.isMsg }).sendFlits r.2 (t.flits x))).enterRound x
      e.1.moveTo { e.2 with stage := .flow, seq := some f.next }

/-- A response leaves in its channel's turn, in flits of 64 bytes of one link that carries traffic: which, the manual leaves open (R280,
R284, log 15). -/
def State.sendResponse (s : State) (id : Nat) : State :=
  match s.pod.responses.find? fun x => x.id == id with
  | none => s
  | some x =>
    match x.link, s.carrying with
    | none, [] => s
    | none, ls =>
      let l := ls.getD ((Config.freeValue s.freeNo).toNat % ls.length) 0
      { s with
        freeNo := s.freeNo + 1
        pod := { s.pod with responses := s.pod.responses.map fun y => if y.id = id then { y with link := some l } else y } }
    | some l, _ =>
      match s.turnFor l x.ctx id false with
      | none => s
      | some t =>
        ({ t with
          pod := { t.pod with responses := t.pod.responses.filter fun y => y.id != id }
          host := { t.host with out := .response x.peer x.ctx x.seq x.bytes x.poison :: t.host.out } } : State).sendFlits l
            (ceilDiv x.bytes.length 64)

/-- ADVANCE: of a write, or of a response that waits for its channel's turn (R284). -/
def execAdvance (id : Nat) (s : State) : Out :=
  .next (
    match s.memory.writes.find? fun x => x.id == id with
    | none => s.sendResponse id
    | some x =>
      if x.held || x.scratchOf.isSome || !s.mayMove x then s
      else
        let out (s : State) : State := if remoteHome x.home ∧ s.bridgeOk x.unit x.home then s.moveTo { x with stage := .module } else s
        let moved := match x.stage with
          | .store => s.moveTo { x with stage := .group }
          | .group => s.moveTo { x with stage := .gang }
          | .gang => s.moveTo { x with stage := .die }
          | .die => out s
          | .module => s.sendWrite x
          | .flow => s
        moved.settleWave x.group x.wave)

/-! ## PERFORM (R162, R186-R188, R270) -/

/-- The new value of an atomic (R162): 0-6 as the functions, 7 fadd, 8 CAS. -/
def atomicNew (op ty old v new : Nat) : Nat :=
  let bits := if ty < 2 then 32 else 64
  let sg := ty = 0 ∨ ty = 2
  let lt (a b : Nat) : Bool := if sg then sfld a bits < sfld b bits else a < b
  match op with
  | 0 => (old + v) % 2 ^ bits
  | 1 => if lt v old then v else old
  | 2 => if lt old v then v else old
  | 3 => old &&& v
  | 4 => old ||| v
  | 5 => old ^^^ v
  | 6 => v
  | 7 => (fAdd (BitVec.ofNat 32 old) (BitVec.ofNat 32 v)).1.toNat
  | _ => if old = v then new else old

/-- Fills a lane's bytes of an atomic's result. -/
def State.fillAtomic (s : State) (g w : Nat) (res : Option Nat) (lane old n : Nat) (poison : Bool) : State :=
  match res with
  | none => s
  | some id => s.modResult g w id fun r => { r with
      reqs := r.reqs.map fun q =>
        if q.lane = lane then { q with got := some ((natLE n old).getD q.k 0), poison := poison } else q }

/-- Applies an atomic's lanes in ascending order at their home or bank. -/
def State.applyAtomic (s : State) (x : GWrite) (op ty : Nat) (ls : List (Nat × Nat × Nat × Nat)) : State :=
  let n := if ty < 2 then 4 else 8
  ls.foldl (fun t l =>
    let (lane, a, v, new) := l
    match x.scratchOf with
    | none =>
      let t := t.touchLine (lineOf a)
      let old := leNat (t.bytesAt a n)
      if t.linePoisoned (lineOf a) then t.fillAtomic x.group x.wave x.result lane old n true
      else (t.putCells (cellsFrom a (natLE n (atomicNew op ty old v new)))).fillAtomic x.group x.wave x.result lane old n false
    | some h =>
      let old := leNat ((List.range n).map fun i => t.scratchRead h (a + i))
      if (List.range n).any fun i => t.scratchPoisoned h (a + i) then t.fillAtomic x.group x.wave x.result lane old n true
      else (t.scratchWrite h (cellsFrom a (natLE n (atomicNew op ty old v new)))).fillAtomic x.group x.wave x.result lane old n false) s

/-- The issuing core's copy of a line is updated with what its home holds, the 128-byte block that holds it whole (R186, R191). The
copies that the write's wave, or a wave that may read nothing older, would find on another core are dropped (R187, R190). -/
def State.updateViews (s : State) (x : GWrite) (ls : List Nat) : State :=
  let fresh (l : Nat) : List Byte := if s.linePoisoned l then [] else s.bytesAt l 64
  let t := s.modCore x.unit fun c => { c with
    view := c.view.map fun e => (e.1, if ls.any fun l => l / 128 == e.1 / 128 then fresh e.1 else e.2) }
  (((x.group :: x.seen.map Prod.fst).map fun g => (s.group g).unit).eraseDups.filter fun u => u != x.unit).foldl
    (fun t u => t.dropLines u ls) t

/-- The condition of a release marker holds (R163, R182, R188). -/
def State.markerMet (s : State) (x : GWrite) : Bool :=
  !x.rel || (s.allPerformed x.before (if x.podRel then 5 else if x.scratchOf.isSome then 2 else 4) &&
    (s.wave x.group x.wave).allLoaded x.loads)

/-- The write stands at the end of its path, and delivery keeps its flow's order; on the unordered flow, that of one line
(R193). The writes of a flow stand in the order in which they entered it. One to a module that no up link reaches ends where it
stands (R12, R332). -/
def State.atEnd (s : State) (x : GWrite) : Bool :=
  match x.stage with
  | .die => !remoteHome x.home && !x.isContrib && s.bridgeOk x.unit x.home
  | .flow =>
    if s.canSend x then
      (s.memory.writes.takeWhile fun y => y.id != x.id).all fun y =>
        !(y.stage == .flow && y.isOrdered == x.isOrdered && y.home / 512 == x.home / 512 && y.ctx == x.ctx &&
          (x.isOrdered || y.covers.any fun b => x.covers.any fun a => lineOf a == lineOf b))
    else !x.isContrib && !x.isMsg
  | .store => false
  | .group => false
  | .gang => false
  | .module => !s.canSend x && !x.isContrib && !x.isMsg

/-- The lines of a write that no memory admits. -/
def State.unadmitted (s : State) (x : GWrite) : List Nat :=
  ((x.covers.map lineOf).eraseDups).filter fun l => !s.admits l

/-- The write with the lines that no memory admits noted: they are dropped. One of an engine is noted at its operation, while that is
under way (R332). -/
def State.noteUnadmitted (s : State) (x : GWrite) : State × GWrite :=
  (s.unadmitted x).foldl (fun (p : State × GWrite) l =>
    if x.engine && s.engineLive x.group x.op then (p.1.noteDropped x.group x.op l, p.2) else (p.1, { p.2 with dropped := lowest p.2.dropped l })) (s, x)

/-- A held write waits on an entry of its context's fault queue. -/
def State.isQueued (s : State) (x : GWrite) : Bool :=
  (s.ctx x.ctx).fq.any fun e => e.2.waiters.contains (.write x.id)

/-- The held write raises a fault of kind 4 and counts as accepted (R270): a message of a flow is acknowledged (R282). With every entry in
use it is held and faults again. -/
def State.holdWrite (s : State) (x : GWrite) (pa : Nat) : State :=
  let va := match x.vas.find? fun p => p.2 == pa / 65536 * 65536 with
    | some p => p.1
    | none => 0
  let r := s.fqRaise x.ctx va 4 0xFF false (s.group x.group).kernel x.unit (.write x.id)
  let t := match x.seq with
    | some _ => r.1.setFlow x.flowKey { r.1.flow x.flowKey with unacked := (r.1.flow x.flowKey).unacked - 1 }
    | none => r.1
  (t.uncount x).modWrite x.id fun y => { y with held := true, counted := false, seq := none }

/-- A writer's number (R243): 512 × module + unit. -/
def State.writerNo (s : State) (u : Nat) : Nat := 512 * s.mod + u

/-- A message of a dusk hold, or of a context's SNAP, comes to its receiver, the module of a home (R245, R248, R270). -/
def State.takeMsg (s : State) (receiver c : Nat) (m : FlowMsg) : State :=
  let ours (u id h : Nat) (e : Nat × Nat × Version) : Bool := e.1 == s.writerNo u && e.2.1 == id && homeOf e.2.2.slot == h
  match m with
  | .versions u id h =>
    match (s.core u).hold.find? fun e => e.id == id with
    | none => s
    | some e =>
      let mine := e.vers.filter fun v => homeOf v.slot == h && !v.sent
      (s.modCore u fun c => { c with hold := c.hold.map fun e =>
        if e.id = id then { e with vers := e.vers.map fun v => if homeOf v.slot = h then { v with sent := true } else v } else e }).modMem
        fun m => { m with pending := m.pending ++ mine.map fun v => (s.writerNo u, id, { v with sent := true }) }
  | .release u id h =>
    s.modMem fun m => { m with pending := m.pending.map fun e => if ours u id h e then (e.1, e.2.1, { e.2.2 with acked := true }) else e }
  | .removal u id h => s.modMem fun m => { m with pending := m.pending.filter fun e => !ours u id h e }
  | .frontier lo => { s with host := { s.host with out := .frontier receiver lo :: s.host.out } }
  | .snapshot id t f n => { s with host := { s.host with out := .snapshot receiver c id t f n :: s.host.out } }
  | .withdraw id => { s with host := { s.host with out := .withdraw receiver c id :: s.host.out } }

/-- A contribution comes to its plane's switch. -/
def State.atSwitch (s : State) (x : GWrite) (ls : List (Nat × List Byte)) : State :=
  ls.foldl (fun t e => { t with host := { t.host with
    out := .contribution (homeModule x.home - 64) e.1 x.round x.ctx e.2 x.poison :: t.host.out } }) s

/-- PERFORM: the write is applied at its home slice or bank unit; a held one whose replay had to wait for a bridge replays (R267, R269). -/
def execPerform (id : Nat) (s : State) : Out :=
  .next (
    match s.memory.writes.find? fun x => x.id == id with
    | none => s
    | some x =>
      let done (t : State) (x : GWrite) : State := ((t.finishWrite x).tellDropped x).settleWave x.group x.wave
      match x.scratchOf with
      | some h =>
        if !s.bankClear x.group x.wave x.op (s.group h).unit || !s.mayMove x || !s.markerMet x then s
        else
          match x.payld with
          | .bytes cs => done (s.scratchWrite h cs) x
          | .atomic op ty ls => done (s.applyAtomic x op ty ls) x
          | .contrib _ => done s x
          | .msg _ => done s x
      | none =>
        if x.held && x.again && !s.isQueued x then (s.replayWrite id).settleWave x.group x.wave
        else if (x.held && s.isQueued x) || !s.atEnd x || !s.mayMove x || !s.markerMet x then s
        else
          match x.covers.find? s.frozenAt with
          | some pa => (s.holdWrite x pa).settleWave x.group x.wave
          | none =>
            let ls := (x.covers.map lineOf).eraseDups
            let bad := s.unadmitted x
            let n := s.noteUnadmitted x
            match x.payld with
            | .bytes cs =>
              let good := cs.filter fun c => !bad.contains (lineOf c.1)
              let t := n.1.applyCells good
              let t := if x.poison then t.poisonLines (linesOf good) else t
              done (if x.engine then t else t.updateViews x ls) n.2
            | .atomic op ty xs => done ((n.1.applyAtomic x op ty xs).updateViews x ls) n.2
            | .contrib ls => done (s.atSwitch x ls) x
            | .msg m => done (s.takeMsg (homeModule x.home) x.ctx m) x)

/-! ## DELIVER (R193) -/

/-- The messages of another module name this module's lines without their pod bits (R12). -/
def State.normMsg (s : State) (m : RemoteMsg) : RemoteMsg := { m with
  bytes := m.bytes.map fun c => (s.norm c.1, c.2)
  lanes := m.lanes.map fun l => (l.1, s.norm l.2.1, l.2.2)
  reads := m.reads.map s.norm }

/-- The lines a message touches. -/
def msgLines (m : RemoteMsg) : List Nat :=
  ((m.bytes.map fun c => lineOf c.1) ++ (m.lanes.map fun l => lineOf l.2.1) ++ m.reads.map lineOf).eraseDups

/-- The bridge from DX to a home of this module carries flits (R278). -/
def State.dxOk (s : State) (home : Nat) : Bool := 512 ≤ home || !(s.die (home / 64)).relocking

/-- A message waits where it stands: a line of it lies beyond a bridge that is stalled (R278). -/
def State.msgWaits (s : State) (m : RemoteMsg) : Bool :=
  ((msgLines m).any fun l => !s.dxOk (homeOf l)) ||
  (match m.hold with
   | .versions _ _ home _ => !s.dxOk home
   | .none => false
   | .release _ _ => false
   | .removal _ _ => false
   | .frontier _ => false
   | .snapshot _ _ f _ => !s.dxOk (homeOf (s.norm f))
   | .withdraw _ => false
   | .frozen _ _ _ => false
   | .frozenVersion _ _ _ => false)

/-- A lane's old value of a remote atomic goes back with the others, and which bytes are poisoned: such a lane changes nothing
(R14, R162, R193). -/
def State.remoteLane (m : RemoteMsg) (p : State × List Byte × List Nat) (l : Nat × Nat × Nat × Nat) : State × List Byte × List Nat :=
  let n := if m.ty < 2 then 4 else 8
  let t := p.1.touchLine (lineOf l.2.1)
  let old := leNat (t.bytesAt l.2.1 n)
  if t.linePoisoned (lineOf l.2.1) then
    (t, p.2.1 ++ natLE n old, p.2.2 ++ (List.range n).map fun i => p.2.1.length + i)
  else (t.putCells (cellsFrom l.2.1 (natLE n (atomicNew m.op m.ty old l.2.2.1 l.2.2.2))), p.2.1 ++ natLE n old, p.2.2)

/-- A response to another module waits for its channel's turn: that of the tenant of this module's context of the same number (R284;
DESIGN CHOICE, log 63). -/
def State.respond (s : State) (peer ctx seq : Nat) (bs : List Byte) (poison : List Nat) : State :=
  if bs.isEmpty then s
  else { s.fresh with pod := { s.pod with responses := s.pod.responses ++ [{ id := s.nextId, peer := peer, ctx := ctx, seq := seq, bytes := bs, poison := poison }] } }

/-- Versions of another module are pending at their home, whole, and its acknowledgement goes back; none comes behind a frontier of its
flow that its stamp does not exceed (R245, R248). Those for a home on a third module are followed too, for this module's reads of it. -/
def State.takeVersions (s : State) (unit id home : Nat) (far : List RemoteVersion) : State :=
  let src := unit / 512
  let vs := (far.filter fun v => homeOf (s.norm v.slot) == home && Tbl.getD s.memory.settled (64 * src + v.ctx) 0 < v.stamp).map
    fun (v : RemoteVersion) =>
      ({ slot := s.norm v.slot / 256 * 256, words := v.words, stamp := v.stamp, writer := unit % 32768, tx := v.tx, poison := v.poison
         peerCtx := v.ctx, sent := true } : Version)
  if s.memory.pending.any fun e => e.1 == unit && e.2.1 == id && homeOf e.2.2.slot == home then s
  else
    let t := s.modMem fun m => { m with pending := m.pending ++ vs.map fun v => (unit, id, v) }
    if remoteHome home || vs.isEmpty then t
    else ({ t with host := { t.host with out := .acknowledgement src unit id home :: t.host.out } } : State).putFlits 1

/-- The writer's number names a core of another module (R243). -/
def State.isFar (s : State) (u : Nat) : Bool := u / 512 != s.mod

/-- Versions pending at homes are released: each may become visible. The homes of other modules take a release from their ordered
flow, unless the whole entry is another module's (R245). -/
def State.releasePending (s : State) (u id : Nat) : State :=
  s.modMem fun m => { m with pending := m.pending.map fun (e : Nat × Nat × Version) =>
    if e.1 = u ∧ e.2.1 = id ∧ (s.isFar u ∨ !remoteHome (homeOf e.2.2.slot)) then (e.1, e.2.1, { e.2.2 with acked := true }) else e }

/-- Homes remove an entry's versions. -/
def State.removePending (s : State) (u id : Nat) : State :=
  s.modMem fun m => { m with pending := m.pending.filter fun e => !(e.1 == u && e.2.1 == id) }

/-- A frontier of another module on the ordered flow of a context: the versions of that flow with a stamp up to this lo have all come
(R248). -/
def State.takeFrontier (s : State) (src ctx lo : Nat) : State :=
  s.modMem fun m => { m with settled := Tbl.set m.settled (64 * src + ctx) (max lo (Tbl.getD m.settled (64 * src + ctx) 0)) }

/-- The home of a frame takes the request of another module's SNAP: it accepts while its lo < T, and its answer goes back (R270). -/
def State.takeSnap (s : State) (peer ctx id t frame size : Nat) : State :=
  let ok := s.time.lo < t
  let u := if ok then s.modMem fun m => { m with farSnaps := m.farSnaps ++ [⟨peer, ctx, id, t, s.norm frame, size⟩] } else s
  ({ u with host := { u.host with out := .snapAnswer peer ctx id frame ok :: u.host.out } } : State).putFlits 1

/-- The homes withdraw a snapshot of another module, or release it (R270). -/
def State.dropSnap (s : State) (peer ctx id : Nat) : State :=
  s.modMem fun m => { m with farSnaps := m.farSnaps.filter fun n => !(n.peer == peer && n.ctx == ctx && n.id == id) }

/-- Another module reports that a write of this one, number `seq` of a flow of its context, stands at a frozen frame there: it is held
and faults (R270, log 92). -/
def State.takeFrozen (s : State) (peer ctx : Nat) (ordered : Bool) (seq addr : Nat) : State :=
  match s.memory.writes.find? fun x => x.seq == some seq && x.flowKey == flowKey peer ctx ordered && !x.isContrib && !x.isMsg with
  | none => s
  | some x =>
    let pa := (x.covers.find? fun a => a % 2 ^ 41 == addr % 2 ^ 41).getD (x.covers.headD 0)
    (s.holdWrite x pa).settleWave x.group x.wave

/-- A released version is held at a frozen frame, and faults in its context (R270). With every entry in use it waits, and faults again. -/
def State.holdVersion (s : State) (u id : Nat) (v : Version) : State :=
  let r := s.fqRaise v.ctx v.va 4 0xFF false v.kernel (u % 512) (.version u id v.slot)
  if r.2.isSome then r.1.modVersion u id v.slot fun y => { y with held := true } else s

/-- Another module reports that a version of this one stands at a frozen frame there (R270, log 92). -/
def State.takeFrozenVersion (s : State) (peer u id slot : Nat) : State :=
  match s.memory.pending.find? fun e => e.1 == u && e.2.1 == id && e.2.2.slot % 2 ^ 41 == slot % 2 ^ 41 &&
      remoteHome (homeOf e.2.2.slot) && homeModule (homeOf e.2.2.slot) == peer && e.2.2.acked && !e.2.2.held with
  | none => s
  | some e => if 64 ≤ e.2.2.ctx then s else s.holdVersion u id e.2.2

/-- A message of another module's dusk hold or SNAP is delivered, or its report of a frozen frame. -/
def State.takeHold (s : State) (peer ctx : Nat) (h : HoldMsg) : State :=
  match h with
  | .none => s
  | .versions u id home vs => if s.isFar u then s.takeVersions u id home vs else s
  | .release u id => if s.isFar u then s.releasePending u id else s
  | .removal u id => if s.isFar u then s.removePending u id else s
  | .frontier lo => s.takeFrontier peer (ctx % 64) lo
  | .snapshot id t f n => s.takeSnap peer ctx id t f n
  | .withdraw id => s.dropSnap peer ctx id
  | .frozen ordered seq addr => s.takeFrozen peer ctx ordered seq addr
  | .frozenVersion u id slot => if s.isFar u then s else s.takeFrozenVersion peer u id slot

/-- The first address of a message's write that lies in a frozen frame. -/
def State.stuckAt (s : State) (m : RemoteMsg) : Option Nat :=
  ((m.bytes.map Prod.fst) ++ m.lanes.map fun l => l.2.1).find? s.frozenAt

/-- A message's write stands at a frozen frame: it is accepted and not performed. The home here reports it to the module whose write it
is, which holds it and replays it through the new leaf (R270, log 92). -/
def State.reportFrozen (s : State) (peer ctx seq : Nat) (ordered : Bool) (pa : Nat) : State :=
  if remoteHome (homeOf pa) || peer == s.mod then s
  else ({ s with host := { s.host with out := .frozen peer ctx ordered seq pa :: s.host.out } } : State).putFlits 1

/-- A message of another module is delivered at its home slices: a store's bytes are written, poisoned where the message is; an atomic
applies and answers its old values; a load's bytes are answered, poisoned where a line is; a dusk hold's message is taken. -/
def State.takeRemote (s : State) (peer ctx seq : Nat) (ordered : Bool) (m : RemoteMsg) : State :=
  match s.stuckAt m with
  | some pa => s.reportFrozen peer ctx seq ordered pa
  | none =>
    let cells := m.bytes.filter fun c => s.admits c.1
    let t := s.applyCells cells
    let t := if m.poison then t.poisonLines (linesOf cells) else t
    let a := (m.lanes.filter fun l => s.admits l.2.1).foldl (State.remoteLane m) (t, [], [])
    let ls := (m.reads.map lineOf).eraseDups
    let t := ls.foldl State.touchLine a.1
    (t.takeHold peer ctx m.hold).respond peer ctx seq (a.2.1 ++ m.reads.map t.byteAt)
      (a.2.2 ++ ((List.range m.reads.length).filter fun i => t.linePoisoned (lineOf (m.reads.getD i 0))).map fun i => a.2.1.length + i)

/-- The number expected passes the messages of an unordered flow that have been delivered (R283). -/
def Flow.settle : Nat → Flow → Flow
  | 0, f => f
  | n + 1, f =>
    if f.early.contains f.expect then
      Flow.settle n { f with early := f.early.filter fun x => x != f.expect, expect := (f.expect + 1) % 2 ^ 32 }
    else f

/-- Messages of an ordered flow are delivered while the next one is there and does not wait (R283). -/
def deliverKept (peer ctx : Nat) : Nat → State → Flow → State × Flow
  | 0, s, f => (s, f)
  | n + 1, s, f =>
    match f.kept.find? fun e => e.1 == f.expect with
    | some e =>
      if s.msgWaits e.2 then (s, f)
      else deliverKept peer ctx n (s.takeRemote peer ctx e.1 true e.2)
        { f with expect := (f.expect + 1) % 2 ^ 32, kept := f.kept.filter fun x => x.1 != e.1 }
    | none => (s, f)

/-- A message's number, relative to the number expected (R283). -/
def Flow.ahead (f : Flow) (seq : Nat) : Nat := (seq % 2 ^ 32 + 2 ^ 32 - f.expect % 2 ^ 32) % 2 ^ 32

/-- A kept message of an unordered flow may be delivered: every earlier one has come, so that its lines are known, and none of them
that is still kept touches a line of it (R193, R283). -/
def Flow.mayPass (f : Flow) (seq : Nat) (m : RemoteMsg) : Bool :=
  ((f.kept.map Prod.fst ++ f.early).filter fun k => f.ahead k < f.ahead seq).eraseDups.length == f.ahead seq &&
  f.kept.all fun e => f.ahead seq ≤ f.ahead e.1 || !(msgLines e.2).any fun l => (msgLines m).contains l

/-- The module whose lines a message names: the sender's own writes, or another's, come to it in this way too, for this module's reads
of remote lines. -/
def State.msgModule (s : State) (m : RemoteMsg) : Nat :=
  match msgLines m with
  | l :: _ => (podModule l).getD s.mod
  | [] => s.mod

/-- The receiver's flow of a peer's context, for the module whose lines the messages name. -/
def State.inFlow (s : State) (dest peer ctx : Nat) (ordered : Bool) : Nat :=
  65536 * (if dest = s.mod then 1 else dest + 2) + flowKey peer ctx ordered

/-- `n` messages of an ordered flow come in their turn, as events of their own: the number expected passes them, and those that the
buffer keeps behind them are delivered (R193, R245). -/
def State.comeInTurn (s : State) (peer ctx k n : Nat) : State :=
  let f := s.flow k
  let r := deliverKept peer ctx f.kept.length s { f with expect := (f.expect + n) % 2 ^ 32 }
  r.1.setFlow k r.2

/-- DELIVER: a message of another module comes to the reorder buffer of the receiver. One that R283 calls a duplicate is dropped. The
ordered flow delivers in sequence. On the unordered flow the first hand-over of a message leaves it in the buffer, and a later
one delivers it, in any order that passes none to the same line (R193; DEDUCED, log 32). -/
def execDeliver (peer ctx : Nat) (ordered : Bool) (seq : Nat) (msg : RemoteMsg) (s : State) : Out :=
  .next (
    let s := s.hearModule peer
    let msg := s.normMsg msg
    let dest := s.msgModule msg
    if dest = peer then if s.msgWaits msg then s else s.takeRemote peer ctx seq ordered msg
    else
      let k := s.inFlow dest peer ctx ordered
      let f := s.flow k
      let seq := seq % 2 ^ 32
      if 4095 < f.ahead seq || f.early.contains seq then s
      else
        let kept := f.kept.find? fun e => e.1 == seq
        let f := if kept.isSome then f else { f with kept := f.kept ++ [(seq, msg)] }
        if ordered then
          let r := deliverKept peer ctx f.kept.length s f
          r.1.setFlow k r.2
        else
          match kept with
          | none => s.setFlow k f
          | some e =>
            if s.msgWaits e.2 || !f.mayPass seq e.2 then s
            else (s.takeRemote peer ctx seq ordered e.2).setFlow k
              (Flow.settle (f.early.length + 1) { f with kept := f.kept.filter fun x => x.1 != seq, early := f.early ++ [seq] }))

/-! ## FILL and DROP (R186) -/

/-- A core's view takes a copy of a line. -/
def State.copyLine (s : State) (u l : Nat) : State :=
  if !s.admits l then s
  else
    let t := s.touchLine l
    t.modCore u fun c => { c with view := Tbl.set c.view l (if t.linePoisoned l then [] else t.bytesAt l 64) }

/-- FILL: copies are taken of the aligned 128-byte block that holds the line, as it stands at its home, so that it is seen whole
(R191). -/
def execFill (unit line : Nat) (s : State) : Out :=
  .next (
    let l := line / 128 * 128
    if !isUnit unit || !s.bridgeOk unit (homeOf l) then s else (s.copyLine unit l).copyLine unit (l + 64))

def execDrop (unit line : Nat) (s : State) : Out := .next (s.dropLines unit [lineOf line])

/-- CORRECTED_WRITE_BACK: a corrected line is written back, and its stored errors end (R13). -/
def execCorrectedWriteBack (line : Nat) (s : State) : Out :=
  .next (
    if s.memory.writeBacks.contains line then
      s.modMem fun m => { m with errs := Tbl.del m.errs line, writeBacks := m.writeBacks.filter fun l => l != line }
    else s)

/-! ## RESULT_WRITE (R20, R26) -/

/-- A load's bytes of lane `l`, from byte `o`. -/
def Result.word (r : Result) (l o : Nat) : Word :=
  BitVec.ofNat 32 (leNat ((List.range 4).map fun i =>
    ((r.reqs.find? fun q => q.lane == l && q.k == o + i).bind Req.got).getD 0))

/-- The register writes of a result that has everything. -/
def Wave.writeOut (x : Wave) (d : Dest) (v : DWord) : Wave :=
  match d with
  | .v r l => { x.putV r l (v.setWidth 32) with vPoison := x.vPoison.filter fun p => p != (r, l) }
  | .s r => x.putS r v
  | .m r => x.putM r (v.setWidth 32)
  | .h _ => x

/-- The word registers of a load or atomic, `k` words a lane from `v`. -/
def Result.loadOut (r : Result) (v k : Nat) : List (Dest × DWord) :=
  (maskLanes r.lanes).flatMap fun l => (List.range k).map fun j => (.v (v + j) l, (r.word l (4 * j)).setWidth 64)

/-- Everything the result waits for is there. -/
def Result.ready (r : Result) : Bool :=
  match r.kind with
  | .load _ | .ldk _ | .atomic _ _ _ | .actld _ => r.hasData
  | .vals | .tnow _ _ | .noteGet _ => true
  | .ldat _ _ _ => r.pas.isEmpty
  | .launch _ _ | .mbx _ _ => !r.out.isEmpty

def Result.hasPoison (r : Result) : Bool := r.poisoned || r.reqs.any fun q => q.poison

/-- NOTE.GET takes the entry at the read index: its two words, and whether it is poisoned (R302). -/
def State.takeNotice (s : State) (c : Nat) (d : Nat) : State × List (Dest × DWord) × Bool :=
  let x := s.ctx c
  if x.unread = 0 then (s, [(.s d, 0), (.s (d + 1), 0)], false)
  else
    let t := s.modCtx c fun y => { y with rd := (y.rd + 1) % 256, unread := y.unread - 1 }
    match s.walkBytes c (x.notices + 16 * x.rd) 16 .read with
    | some pas =>
      let t := (((pas.map lineOf).eraseDups).foldl State.touchLine (t.walkTouch c (x.notices + 16 * x.rd)))
      let b := pas.map s.byteAt
      (t, [(.s d, BitVec.ofNat 64 (leNat (b.take 8))), (.s (d + 1), BitVec.ofNat 64 (leNat (b.drop 8)))],
        pas.any fun p => s.linePoisoned (lineOf p))
    | none =>
      let t := t.walkTouch c (x.notices + 16 * x.rd)
      let v := Config.freeValue s.freeNo
      ({ t with freeNo := s.freeNo + 1 }, [(.s d, v.setWidth 64), (.s (d + 1), (v >>> 64).setWidth 64)], false)

/-- What a result writes, and whether a copy of the view is to be dropped and poison consumed. -/
def State.resultOut (s : State) (g : Nat) (r : Result) : State × List (Dest × DWord) × Bool :=
  match r.kind with
  | .load v => (s, r.loadOut v r.vregs.length, r.hasPoison)
  | .ldk v => (s, r.loadOut v r.vregs.length, r.hasPoison)
  | .atomic v w _ => (s, r.loadOut v (w / 4), r.hasPoison)
  | .vals => (s, r.out, r.poisoned)
  | .tnow d a => (s, [(.s d, BitVec.ofNat 64 s.time.lo), (.s a, BitVec.ofNat 64 s.time.hi)], false)
  | .noteGet d => s.takeNotice (s.ctxOf g) d
  | .ldat _ md _ =>
    let flags := maskOf fun l => r.out.any fun o =>
      match o.1 with
      | .v _ k => k == l && o.2.getLsbD 32
      | .s _ => false
      | .m _ => false
      | .h _ => false
    (s, r.out ++ [(.m md, flags.setWidth 64)], r.hasPoison)
  | .actld _ => (s, [], r.hasPoison)
  | .launch _ _ => (s, r.out, false)
  | .mbx _ _ => (s, r.out, false)

def State.bankWrite (s : State) (g : Nat) (r : Result) : State :=
  match r.kind with
  | .actld b =>
    let bytes := (List.range 1040).map fun k => ((r.reqs.find? fun q => q.k == k).bind Req.got).getD 0
    s.modGroup g fun x => if b then { x with bankB := bytes } else { x with bankA := bytes }
  | .load _ | .ldk _ | .atomic _ _ _ | .vals | .tnow _ _ | .noteGet _ | .ldat _ _ _ | .launch _ _ | .mbx _ _ => s

def ResKind.isTnow (k : ResKind) : Bool :=
  match k with
  | .tnow _ _ => true
  | .load _ | .ldk _ | .atomic _ _ _ | .vals | .noteGet _ | .ldat _ _ _ | .actld _ | .launch _ _ | .mbx _ _ => false

def ResKind.isNoteGet (k : ResKind) : Bool :=
  match k with
  | .noteGet _ => true
  | .load _ | .ldk _ | .atomic _ _ _ | .vals | .tnow _ _ | .ldat _ _ _ | .actld _ | .launch _ _ | .mbx _ _ => false

/-- An older result comes first: of a TAPQ those of the split's earlier ones (R232), of a NOTE.GET those of the context's earlier ones,
which are served in the order in which they issued (R302), of a TNOW those of the module's earlier ones (R242). -/
def State.resultBehind (s : State) (g w : Nat) (r : Result) : Bool :=
  (((s.wave g w).earlier r.id).any fun e => r.tapq.isSome && e.tapq == r.tapq) ||
  (r.kind.isNoteGet && s.groups.any fun h => s.ctxOf h.1 == s.ctxOf g && h.2.waves.any fun x => x.2.results.any fun e =>
    e.kind.isNoteGet && e.id < r.id) ||
  (r.kind.isTnow && s.groups.any fun h => h.2.waves.any fun x => x.2.results.any fun e => e.kind.isTnow && e.id < r.id)

/-- NOTE.GET's die reaches the tables and the entry (R269, R278). -/
def State.noticeReached (s : State) (g : Nat) (r : Result) : Bool :=
  let c := s.ctxOf g
  let x := s.ctx c
  let u := (s.group g).unit
  !r.kind.isNoteGet || x.unread == 0 ||
    (s.walkOk (unitDie u) c (x.notices + 16 * x.rd) &&
     (match s.walkBytes c (x.notices + 16 * x.rd) 16 .read with
      | some pas => pas.all fun p => s.bridgeOk u (homeOf p)
      | none => true))

/-- RESULT_WRITE: the registers are written, the counter falls, an acquire is taken; poison is consumed (R14, R124, R126). -/
def execResultWrite (g w id : Nat) (s : State) : Out :=
  .next (
    match (s.wave g w).results.find? fun r => r.id == id with
    | none => s
    | some r =>
      if !r.ready || s.resultBehind g w r || !s.noticeReached g r then s
      else
        let o := s.resultOut g r
        let t := o.1.modWave g w fun W =>
          { W.addCount r.counter (-1) with results := W.results.filter fun x => x.id != id }
        if o.2.2 then (t.consumePoison g w r.region).settleFences g w
        else
          let t := (t.modWave g w fun W => o.2.1.foldl (fun W p => W.writeOut p.1 p.2) W).bankWrite g r
          let t := match r.kind.acquireScope with
            | some k => t.acquire g w k
            | none => t
          t.settleWave g w)

end Sys2Proof.Machine
end

