-- ==== Sys2Proof/Machine/Stamp.lean ====
section
/-! DEFINITION. TNOW (R242), PUB (R243-R246), LDAT (R248, R249), DUSK (R250), stamped transactions (R251). -/

namespace Sys2Proof.Machine

/-- TNOW: both values are taken at the write of its result (R242). -/
def execTnow (d a : Fin 64) (s : State) : Out :=
  .next (
    if d = a ∧ d.val ≠ 0 then s.raise cIllegal
    else
      (s.fresh.addResult { id := s.nextId, kind := .tnow d.val a.val, counter := .smc
                           sregs := [d.val, a.val].filter fun r => r != 0, region := s.regionNow }).retire)

/-! ## Records (R243, R244) -/

/-- Step 3 of R333 for PUB and LDAT: ALIGN, then PROT for a slot offset of 48 or more, of the lowest lane that fails. -/
def checkSlots : List (Nat × Nat) → Option (Nat × Nat)
  | [] => none
  | (_, a) :: r =>
    if a % 4 ≠ 0 then some (cAlign, a) else if 48 ≤ a % 256 then some (cProt, a) else checkSlots r

/-- A leaf that PUB may write and LDAT read: stamped (R243); PUB writes no line of a reduce window (R262, R286). -/
def State.stampedOk (s : State) (write : Bool) (l : Leaf) (pa _ : Nat) : Bool :=
  l.stamped && (!write || (!s.remoteWin pa && (s.winAt pa).isNone))

/-- Steps 3 to 5 of R333 for PUB and LDAT. -/
def State.stampCheck (s : State) (write : Bool) (las : List (Nat × Nat)) : Checked :=
  match checkSlots las with
  | some (c, a) => .fault c a []
  | none =>
    match s.checkPages false (fun _ => 4) (if write then .write else .read) (s.stampedOk write) las with
    | .ok ps ls =>
      match s.checkLocks false write (fun _ => 4) ps with
      | some x => .fault cRange x ls
      | none => .ok ps ls
    | .fault c a ls => .fault c a ls
    | .page v k lv m ls => .page v k lv m ls
    | .refused => .refused

def State.openTx (s : State) : Option Tx :=
  match s.cw.tx with
  | some i => s.txs.find? fun t => t.id == i
  | none => none

/-- A transaction would exceed 64 PUBs or 64 versions (R246). -/
def Tx.full (t : Tx) (las : List (Nat × Nat)) : Bool :=
  !las.isEmpty && (64 ≤ t.pubs || 64 < t.vers.length + ((las.map fun p => p.2 / 256).eraseDups).length)

/-- PUB's checks, in the order of R333. -/
def State.pubCheck (s : State) (ad : Addr) : Checked :=
  let las := s.laneAddrs ad
  let ill := match s.openTx with
    | some t => t.full las
    | none => false
  if ill then .fault cIllegal 0 []
  else
    match s.stampCheck true las with
    | .ok ps ls =>
      if s.cw.tx.isNone && (s.ctx s.cctx).penmax < s.time.pen then .fault cPenumbra 0 ls else .ok ps ls
    | .fault c a ls => .fault c a ls
    | .page v k lv m ls => .page v k lv m ls
    | .refused => .refused

/-- A dusk hold holds 64 entries (R245). -/
def State.holdFull (s : State) : Bool := 64 ≤ s.cc.hold.length

/-- PUB waits at issue (R246). -/
def State.pubWaits (s : State) (h : Nat) : Bool := (s.cw.handle h).isPending || (s.cw.tx.isNone && s.holdFull)

/-- The writer of a version (R243). -/
def State.writer (s : State) : Nat := 512 * s.mod + s.cu

/-- One version for each record addressed: each word the value of the highest lane that addressed it, others 0 (R244). -/
def State.formVersions (s : State) (v : Nat) (ps : List (Nat × Nat × List Place)) : List Version :=
  let las := ps.filterMap fun p =>
    match p.2.2 with
    | .global pa :: _ => some (p.1, pa)
    | _ => none
  ((las.map fun p => p.2 / 256 * 256).eraseDups).map fun sl =>
    let mine := las.filter fun p => p.2 / 256 * 256 == sl
    let va := (((ps.filter fun p => p.2.2.head? == (mine.head?.map fun q => Place.global q.2)).map fun p => p.2.1).headD 0)
    { slot := sl
      va := va / 256 * 256
      words := (List.range 12).map fun k =>
        match mine.reverse.find? fun p => p.2 == sl + 4 * k with
        | some p => s.rdVL v p.1
        | none => 0
      writer := s.writer
      ctx := s.cctx
      kernel := s.cg.kernel
      poison := mine.any fun p => s.cw.vPoison.contains (v, p.1) }

/-- The lines of a version's slot. -/
def slotLines (v : Version) : List Nat := (List.range 4).map fun i => v.slot + 64 * i

/-- The stamp of an entry that enters the hold now (R246, R251). -/
def State.newStamp (s : State) : Nat := max s.time.hi (s.cc.lastStamp + 1)

/-- The homes of other modules to which an entry's versions go. -/
def Hold.farHomes (h : Hold) : List Nat := ((h.vers.map fun v => homeOf v.slot).eraseDups).filter remoteHome

/-- Messages of an entry to the homes of other modules enter the module queue for their ordered flows (R245). -/
def State.sendHold (s : State) (u : Nat) (h : Hold) (m : Nat → Nat → Nat → FlowMsg) : State :=
  h.farHomes.foldl (fun t k => t.addWrites
    { id := 0, op := h.id, ctx := h.ctx, group := h.group, wave := h.wave, unit := u, home := k, stage := .module, payld := .bytes []
      engine := true } [(k, .msg (m u h.id k))]) s

/-- An entry enters the hold of the current core (R245). -/
def State.enterHold (s : State) (handles : List Nat) (vers : List Version) (tx : Bool) : State :=
  let st := s.newStamp
  let e : Hold :=
    { id := s.nextId, ctx := s.cctx, group := s.cur.g, wave := s.cur.w, stamp := st, tx := tx, handles := handles
      vers := vers.map fun v => { v with stamp := st, tx := tx } }
  (s.fresh.modCore s.cu fun c => { c with hold := c.hold ++ [e], lastStamp := st }).sendHold s.cu e .versions

/-- PUB (R246). -/
def execPub (v : Fin 128) (ad : Addr) (h : Fin 16) (s : State) : Out :=
  .next (
    s.checked (s.pubCheck ad) fun ps s =>
      if s.pubWaits h.val then s
      else
        let s := s.closeRegion
        if s.csp.exec = 0 then (s.modW fun W => W.putH h.val (.done [])).retire
        else
          let op := s.nextId
          let vers := s.formVersions v.val ps
          let t := s.fresh.modW fun W => W.putH h.val (.pending op)
          match s.openTx with
          | some x =>
            { t with txs := t.txs.map fun (y : Tx) => if y.id = x.id then { y with
                pubs := y.pubs + 1
                handles := y.handles ++ [op]
                vers := y.vers ++ vers } else y : State }.retire
          | none => (t.enterHold [op] vers false).retire)

/-! ## LDAT (R248, R249) -/

/-- LDAT's checks: FUTURE of the lowest active lane's address, then steps 3 to 5 of R333. -/
def State.ldatCheck (s : State) (ad : Addr) (t : Nat) : Checked :=
  let las := s.laneAddrs ad
  if 1000000 + s.time.lo < t then .fault cFuture ((las.map Prod.snd).headD 0) [] else s.stampCheck false las

/-- LDAT: blocks at issue while t ≥ lo; its lanes' records are read at their homes by READ. -/
def execLdat (v : Fin 128) (ad : Addr) (st : Fin 64) (md : Fin 8) (s : State) : Out :=
  .next (
    let t := (s.rdS st.val).toNat
    s.checked (s.ldatCheck ad t) fun ps s =>
      if s.time.lo ≤ t then s
      else
        let pas := ps.filterMap fun p =>
          match p.2.2 with
          | .global pa :: _ => some (p.1, pa)
          | _ => none
        (s.fresh.addResult { id := s.nextId, kind := .ldat v.val md.val t, counter := .vmc, vregs := [v.val], mregs := [md.val]
                             lanes := s.csp.exec, pas := pas, region := s.regionNow }).retire)

/-! ## DUSK (R250) -/

/-- Entries of a wave that are held, on any core, and are numbered below `n`. -/
def State.heldBelow (s : State) (g w n : Nat) : Bool :=
  s.cores.any fun c => c.2.hold.any fun e => e.group == g && e.wave == w && e.id < n

/-- DUSK. -/
def execDusk (s : State) : Out :=
  .next (if s.heldBelow s.cur.g s.cur.w s.nextId then s.retire.blockOn (.dusk s.nextId) else s.retire)

/-- Splits whose DUSK is over go on. -/
def State.endDusks (s : State) (g w : Nat) : State :=
  (s.wave g w).splits.foldl (fun t e =>
    match e.2.block with
    | .dusk n => if t.heldBelow g w n then t else t.modSplit g w e.1 fun p => { p with block := .none }
    | .none => t | .fwait _ _ => t | .bar _ _ => t | .barArrive _ _ => t | .dbar => t | .mbx => t | .ctxEnd _ _ => t
    | .fqDone _ _ _ _ => t | .tlbinv _ _ => t | .tlbSend _ _ _ _ _ => t | .snap _ _ => t | .page _ _ => t | .pageFull => t) s

/-! ## Stamped transactions (R251) -/

/-- Every handle of a transaction resolves, and it closes. -/
def State.closeTx (s : State) (x : Tx) (r : Handle) : State :=
  let t := x.handles.foldl (fun t o => t.resolve x.group o r) s
  ({ t with txs := t.txs.filter fun y => y.id != x.id }).modWave x.group x.wave fun W => { W with tx := none }

/-- PUBTX.B: waits until h is not pending, then opens a transaction. -/
def execPubtxB (h : Fin 16) (s : State) : Out :=
  .next (
    if s.cw.tx.isSome then s.raise cIllegal
    else if (s.cw.handle h.val).isPending then s
    else
      let s := s.closeRegion
      let id := s.nextId
      let x : Tx := { id := id, ctx := s.cctx, group := s.cur.g, wave := s.cur.w, handles := [id] }
      let t : State := { s.fresh with txs := s.txs ++ [x] }
      (t.modW fun (W : Wave) => { W.putH h.val (.pending id) with tx := some id }).retire)

/-- PUBTX.C. -/
def execPubtxC (s : State) : Out :=
  .next (
    match s.openTx with
    | none => s.raise cIllegal
    | some x =>
      if (s.ctx s.cctx).penmax < s.time.pen then s.raise cPenumbra s.time.pen
      else if x.pubs = 0 then (s.closeRegion.closeTx x (.done [])).retire
      else if s.holdFull then s
      else
        let t := s.closeRegion.enterHold x.handles x.vers true
        let t : State := { t with txs := t.txs.filter fun y => y.id != x.id }
        (t.modW fun W => { W with tx := none }).retire)

/-- PUBTX.A. -/
def execPubtxA (s : State) : Out :=
  .next (
    match s.openTx with
    | none => s.closeRegion.retire
    | some x => (s.closeRegion.closeTx x (.cancelled [])).retire)

end Sys2Proof.Machine
end

