-- ==== Sys2Proof/Machine/Dusk.lean ====
section
/-! DEFINITION. The dusk hold and its versions (R244, R245), frontiers (R248), snapshots at their homes (R270), invalidations at
the dies (R268, R269). -/

namespace Sys2Proof.Machine

/-! ## Entries of a hold -/

/-- A core reaches a home: over the bridges, and over the fabric where it lies on another module. -/
def State.reachable (s : State) (u home : Nat) : Bool := s.bridgeOk u home && (!remoteHome home || s.reaches (homeModule home))

/-- A core has lost every path to a home: its bridges are fenced, or no up link reaches the module (R245, R281). -/
def State.lost (s : State) (u home : Nat) : Bool :=
  ((s.die (unitDie u)).fenced && !(home < 512 && home / 64 == unitDie u)) || (remoteHome home && !s.reaches (homeModule home))

def State.holdEntry (s : State) (u id : Nat) : Option Hold := (s.core u).hold.find? fun h => h.id == id

/-- Homes of this module remove an entry's versions; those of other modules receive a removal, behind the versions on their ordered
flow. Versions that have not left are not sent (R245). -/
def State.removeEntry (s : State) (u : Nat) (h : Hold) : State :=
  let t := s.modMem fun m => { m with
    pending := m.pending.filter fun e => !(e.1 == s.writerNo u && e.2.1 == h.id && !remoteHome (homeOf e.2.2.slot))
    writes := m.writes.filter fun x => !(x.stage.isModule && (match x.payld with
      | .msg (.versions v i _) => v == u && i == h.id
      | .msg _ => false
      | .bytes _ => false
      | .atomic _ _ _ => false
      | .contrib _ => false)) }
  t.sendHold u h .removal

/-- Changes the versions of an entry that lie at a home. -/
def State.modVersions (s : State) (u id home : Nat) (f : Version → Version) : State :=
  s.modCore u fun c => { c with hold := c.hold.map fun h =>
    if h.id = id then { h with vers := h.vers.map fun v => if homeOf v.slot = home then f v else v } else h }

/-- An entry leaves the hold and its handles resolve. -/
def State.freeEntry (s : State) (u : Nat) (h : Hold) (r : Handle) : State :=
  let t := s.modCore u fun c => { c with hold := c.hold.filter fun e => e.id != h.id }
  (h.handles.foldl (fun t o => t.resolve h.group o r) t).endDusks h.group h.wave

/-- The ordered flows on which the messages of another module's entry come, each with how many come there: one for each home of this
module, or of a third one, at which it has versions. -/
def State.entryFlows (s : State) (u id : Nat) : List (Nat × Nat) :=
  let mine := s.memory.pending.filter fun e => e.1 == u && e.2.1 == id
  let ctx := (mine.head?.map fun e => e.2.2.peerCtx).getD 0
  let owner (e : Nat × Nat × Version) : Nat := (podModule e.2.2.slot).getD s.mod
  (((mine.map owner).eraseDups).filter fun d => d != u / 512).map fun d =>
    (s.inFlow d (u / 512) ctx true, ((mine.filter fun e => owner e == d).map fun e => homeOf e.2.2.slot).eraseDups.length)

/-- No message that the buffer keeps stands among the next `n` numbers of a flow. -/
def State.turnFree (s : State) (k n : Nat) : Bool := (s.flow k).kept.all fun e => n ≤ (s.flow k).ahead e.1

/-- The messages of another module's entry come in turn on the ordered flows of its context (R193, R245), where no other message is
next. -/
def State.holdInTurn (s : State) (u id : Nat) (f : State → State) : State :=
  let fs := s.entryFlows u id
  if (s.memory.pending.any fun e => e.1 == u && e.2.1 == id) && fs.all fun k => s.turnFree k.1 k.2 then
    fs.foldl (fun t k => t.comeInTurn (u / 512) (((s.memory.pending.find? fun e => e.1 == u && e.2.1 == id).map fun e => e.2.2.peerCtx).getD 0)
      k.1 k.2) (f s)
  else s

/-- VERSION_ARRIVAL: a home keeps the versions of an entry pending, and acknowledges. The unit is the writer's number of R243; the
versions of another module, in `far`, come in turn on their ordered flow. -/
def execVersionArrival (unit id home : Nat) (far : List RemoteVersion) (s : State) : Out :=
  .next (
    if s.isFar unit then
      let c := (far.head?.map RemoteVersion.ctx).getD 0
      let dest := if remoteHome home then homeModule home else s.mod
      let k := s.inFlow dest (unit / 512) c true
      if !s.dxOk home || (s.memory.pending.any fun e => e.1 == unit && e.2.1 == id && homeOf e.2.2.slot == home) then s
      else if dest = unit / 512 then s.takeVersions unit id home far
      else if s.turnFree k 1 then (s.takeVersions unit id home far).comeInTurn (unit / 512) c k 1
      else s
    else
      let u := unit % 512
      match s.holdEntry u id with
      | none => s
      | some h =>
        if (h.vers.all fun v => homeOf v.slot != home || v.sent) || !s.reachable u home then s
        else if remoteHome home then
          match s.memory.writes.find? fun x => x.payld == .msg (.versions u id home) with
          | some x => if x.stage == .flow && s.atEnd x then (s.takeMsg (homeModule home) x.ctx (.versions u id home)).finishWrite x else s
          | none => s
        else s.takeMsg s.mod h.ctx (.versions u id home))

/-- HOME_ACKNOWLEDGEMENT. -/
def execHomeAcknowledgement (unit id home : Nat) (s : State) : Out :=
  .next (
    if !s.isFar unit && s.reachable (unit % 512) home then
      s.modVersions (unit % 512) id home fun v => { v with acked := v.acked || v.sent }
    else s)

/-- DUSK_RELEASE: every home has acknowledged and lo > stamp. A release from another module is a message. -/
def execDuskRelease (unit id : Nat) (s : State) : Out :=
  .next (
    if s.isFar unit then s.holdInTurn unit id fun t => t.releasePending unit id
    else
      let u := unit % 512
      match s.holdEntry u id with
      | none => s
      | some h =>
        if h.stamp < s.time.lo && h.vers.all Version.acked then
          ((s.releasePending unit id).sendHold u h .release).freeEntry u h (.done (h.vers.flatMap slotLines))
        else s)

/-! ## Versions enter their records (R244) -/

/-- The 64 bytes of a line that holds a version (R243). -/
def Version.line (v : Version) : List Byte :=
  (v.words.flatMap fun w => natLE 4 w.toNat) ++ natLE 8 v.stamp ++
  natLE 8 (v.writer % 32768 + 2 ^ 16 + (if v.tx then 2 ^ 17 else 0))

/-- A version enters the record at `slot`, in an empty line or in place of the least version it exceeds. Which empty line, the
manual leaves open (log 11). -/
def State.enterRecord (s : State) (slot : Nat) (v : Version) : State :=
  let ls := (List.range 4).map fun i => slot + 64 * i
  let empty := ls.filter fun l => (s.slotLine l).isNone
  let put (s : State) (l : Nat) : State :=
    let t := s.applyCells (cellsFrom l v.line)
    if v.poison then t.poisonLines [l] else t
  if empty.isEmpty then
    let least := ls.foldl (fun (b : Option (Nat × Nat × Nat)) l =>
      match s.slotLine l, b with
      | some (st, w, _), some x => if stampLt (st, w) x.2 then some (l, st, w) else b
      | some (st, w, _), none => some (l, st, w)
      | none, _ => b) none
    match least with
    | some (l, st, w) => if stampLt (st, w) (v.stamp, v.writer) then put s l else s
    | none => s
  else s.takeFree fun f s => put s (empty.getD (f.toNat % empty.length) (empty.headD slot))

/-- The least cut time of the snapshots that have frozen a byte's frame (R270). -/
def State.frozenT (s : State) (pa : Nat) : Option Nat :=
  (s.frozenCuts pa).foldl (fun (b : Option Nat) t => some (match b with | some x => min x t | none => t)) none

/-- An accepted snapshot that has not frozen a byte's frame yet will not hold a version of this stamp (R96). -/
def State.cutsOff (s : State) (pa stamp : Nat) : Bool :=
  (s.ctxs.any fun c => c.2.snaps.any fun e =>
    let n := e.2
    !n.refused && s.time.lo < n.t && n.t < stamp && (n.frames.any fun f => f.1 ≤ pa && pa < f.1 + f.2 &&
      !n.asked.any fun a => a.1 == f.1)) ||
  s.memory.farSnaps.any fun n => n.holds pa && s.time.lo < n.t && n.t < stamp

/-- One released version becomes visible, or is held at a frozen frame; where the cut of an accepted snapshot lies before its stamp and
its home's lo has not reached that cut, it waits for the freeze (R96, R270). Of a context that is ending it waits until its frame is
frozen no longer (R61; log 42). One of another module is reported to it, which holds and replays it (log 92). -/
def State.makeVisible (s : State) (u id : Nat) (v : Version) : State :=
  match s.frozenT v.slot with
  | none => if s.cutsOff v.slot v.stamp then s else (s.enterRecord v.slot v).dropVersion u id v.slot
  | some t =>
    if v.stamp ≤ t then
      let new := if v.ctx < 64 then s.slotNow v.ctx v else v.slot
      let w := (s.enterRecord v.slot v).dropVersion u id v.slot
      if new = v.slot then w else w.enterRecord new v
    else if 64 ≤ v.ctx then
      let w := s.dropVersion u id v.slot
      if remoteHome (homeOf v.slot) then w
      else ({ w with host := { w.host with out := .frozenVersion (u / 512) u id v.slot :: w.host.out } } : State).putFlits 1
    else if (s.ctx v.ctx).st = .ending then s
    else s.holdVersion u id v

/-- A held version waits on an entry of its context's fault queue. -/
def State.versionQueued (s : State) (u id : Nat) (v : Version) : Bool :=
  (s.ctx v.ctx).fq.any fun e => e.2.waiters.contains (.version u id v.slot)

/-- VERSION_VISIBLE: the release has come to a home, over the bridges where its writer's core is of this module (R245, R252). A held
version whose replay had to wait for a bridge replays (R267, R269). -/
def execVersionVisible (id home : Nat) (s : State) : Out :=
  .next (
    (s.memory.pending.filter fun e => e.2.1 == id && homeOf e.2.2.slot == home && e.2.2.acked &&
        (!e.2.2.held || !s.versionQueued e.1 id e.2.2) &&
        (if s.isFar e.1 then s.dxOk home else remoteHome home || s.bridgeOk (e.1 % 512) home)).foldl
      (fun t e => if e.2.2.held then t.replayVersion e.1 id e.2.2.slot else t.makeVisible e.1 id e.2.2) s)

/-! ## Failed and discarded entries (R245) -/

/-- A held entry fails: homes that acknowledged remove its versions, its handles fail with TIMEOUT. -/
def State.failEntry (s : State) (u : Nat) (h : Hold) : State :=
  (s.removeEntry u h).freeEntry u h (.failed cTimeout [])

/-- HOME_UNREACHABLE: a home becomes unreachable before it has acknowledged. That of another module is unreachable from now on: the
event reports that its module has no up link left, whether or not an entry waits for it (R281, log 49). Of another module's entry its removal comes. -/
def execHomeUnreachable (unit id home : Nat) (s : State) : Out :=
  .next (
    if s.isFar unit then s.holdInTurn unit id fun t => t.removePending unit id
    else
      let u := unit % 512
      let s := if remoteHome home then s.loseModule (homeModule home) else s
      match s.holdEntry u id with
      | none => s
      | some h => if (h.vers.any fun v => homeOf v.slot == home && !v.acked) && s.lost u home then s.failEntry u h else s)

/-- DARK_DISCARD: the clock has been dark for 1 ms and lo ≤ stamp. Of another module's entry its removal comes. -/
def execDarkDiscard (unit id : Nat) (s : State) : Out :=
  .next (
    if s.isFar unit then s.holdInTurn unit id fun t => t.removePending unit id
    else
    let u := unit % 512
    match s.holdEntry u id with
    | none => s
    | some h =>
      if s.time.tclk.isDark && s.timerLen 1000000 ≤ h.darkFor && s.time.lo ≤ h.stamp then
        ((s.removeEntry u h).freeEntry u h (.failed cDark [])).postNotice h.ctx cDark u (h.stamp % 2 ^ 32)
      else s)

/-! ## Frontiers (R248) -/

/-- FRONTIER_SEND: the module's lo leaves for every other module of the pod on the ordered flow of each context, all of which may carry
versions, and behind those that it carries (R248; DEDUCED, log 65). -/
def execFrontierSend (s : State) : Out :=
  .next (
    (s.pod.members.filter fun m => m != s.mod).foldl (fun t m =>
      (List.range 64).foldl (fun t c => t.addWrites
          { id := 0, op := t.nextId, ctx := c, group := 0, wave := 0, unit := 0, home := 0, stage := .module, payld := .bytes []
            engine := true } [(512 * (m + 1), .msg (.frontier s.time.lo))]) t) s)

/-- FRONTIER_ARRIVAL: a sender's frontiers have come on all its ordered flows: its versions with a stamp up to its lo have all come. -/
def execFrontierArrival (src : Fin 64) (lo : Nat) (s : State) : Out :=
  .next ((List.range 64).foldl (fun t c => t.takeFrontier src.val c lo) (s.hearModule src.val))

/-! ## Snapshots (R96, R270) -/

/-- SNAP's split receives its status. -/
def State.endSnap (s : State) (n : Snapshot) (v : Int) : State :=
  match n.issuer with
  | none => s
  | some (g, w, sl, d) =>
    match (s.split g w sl).block with
    | .snap _ _ => (s.modWave g w fun W => W.finalS d (BitVec.ofInt 64 v)).modSplit g w sl fun p => { p with block := .none }
    | .none | .fwait _ _ | .dusk _ | .bar _ _ | .barArrive _ _ | .dbar | .mbx | .ctxEnd _ _ | .fqDone _ _ _ _ | .tlbinv _ _
    | .tlbSend _ _ _ _ _ | .page _ _ | .pageFull => s

/-- A core's request reaches a frame's home: over the bridges, and to another module when its message has been delivered there. -/
def State.askReaches (s : State) (c snap frame : Nat) (n : Snapshot) : Bool :=
  (match n.issuer with
   | some i => s.bridgeOk (s.group i.1).unit (homeOf frame)
   | none => true) &&
  !(remoteHome (homeOf frame) && s.memory.writes.any fun x => x.ctx == c &&
    match x.payld with
    | .msg (.snapshot id _ f _) => id == snap && f == frame
    | .msg _ => false
    | .bytes _ => false
    | .atomic _ _ _ => false
    | .contrib _ => false)

/-- SNAPSHOT_REQUEST: the home of a frame accepts while its lo < T, and refuses otherwise. With the last answer the snapshot
stands, or every home withdraws. A home of another module answers from there: the number and 4 says that it refuses. -/
def execSnapshotRequest (c snap frame : Nat) (s : State) : Out :=
  .next (
    let far := remoteHome (homeOf frame)
    let k := if far then snap % 4 else snap
    match Tbl.get? (s.ctx c).snaps k with
    | none => s
    | some n =>
      if (n.asked.any fun f => f.1 == frame) && s.askReaches c k frame n then
        let no : Bool := if far then 4 ≤ snap else n.t ≤ s.time.lo
        let n := { n with asked := n.asked.filter fun f => f.1 != frame, refused := n.refused || no }
        let keep (n : Snapshot) : State := s.modCtx c fun x => { x with snaps := Tbl.set x.snaps k n }
        if !n.asked.isEmpty then keep n
        else if n.refused then
          ((s.modCtx c fun x => { x with snaps := Tbl.del x.snaps k }).withdrawFar c k n).endSnap n (-4)
        else (keep { n with complete := true, issuer := none }).endSnap n k
      else s)

/-- SNAPSHOT_FREEZE: lo has reached T; the accepted frames freeze. -/
def execSnapshotFreeze (c snap : Nat) (s : State) : Out :=
  .next (
    match Tbl.get? (s.ctx c).snaps snap with
    | none => s
    | some n =>
      if n.t ≤ s.time.lo then
        s.modCtx c fun x => { x with snaps := Tbl.set x.snaps snap { n with
          frozen := if n.refused then [] else (n.frames.filter fun f => !(n.asked.any fun a => a.1 == f.1)).map Prod.fst } }
      else s)

/-! ## Invalidations at the dies (R268, R269) -/

/-- An atomic whose writes are all held counts as performed, without its result (R268). -/
def State.atomicHeld (s : State) (id : Nat) : Bool :=
  let ws := s.memory.writes.filter fun x => x.result == some id
  !ws.isEmpty && ws.all GWrite.held

/-- An access of an invalidation's list is settled: a load has its data or is gone, a write is performed or held. -/
def State.accessesDone (s : State) (v : Inval) (d : Nat) : Bool :=
  (v.results.all fun r => r.1 != d ||
    (s.group r.2.1).waves.all fun w => w.2.results.all fun q => q.id != r.2.2 || (q.hasData && q.pas.isEmpty) || s.atomicHeld q.id) &&
  v.writes.all fun w => w.1 != d ||
    ((s.memory.writes.all fun x => x.id != w.2 || x.held || x.sentContrib) &&
     (s.groups.all fun g => g.2.tapOps.all fun o => o.id != w.2 || o.paged) &&
     (s.cores.all fun c => (c.2.mxq.all fun o => o.id != w.2 || o.paged) && c.2.drains.all fun o => o.id != w.2 || o.paged))

/-- The splits that wait for an invalidation receive its status. -/
def State.endInval (s : State) (v : Inval) : State :=
  s.groups.foldl (fun t g => g.2.waves.foldl (fun t w => w.2.splits.foldl (fun t p =>
    match p.2.block with
    | .tlbinv d op =>
      if op = v.id then
        (t.modWave g.1 w.1 fun W => W.finalS d (if v.forced then 1 else 0)).modSplit g.1 w.1 p.1 fun p => { p with block := .none }
      else t
    | .none | .fwait _ _ | .dusk _ | .bar _ _ | .barArrive _ _ | .dbar | .mbx | .ctxEnd _ _ | .fqDone _ _ _ _
    | .tlbSend _ _ _ _ _ | .snap _ _ | .page _ _ | .pageFull => t) t) t) s

/-- A die counts as acknowledged in an invalidation; with the last one it ends. -/
def State.ackInval (s : State) (id d : Nat) (forced : Bool) : State :=
  match s.invals.find? fun v => v.id == id with
  | none => s
  | some v =>
    if v.dies.contains d then
      let v := { v with dies := v.dies.filter fun x => x != d, forced := v.forced || forced }
      if v.dies.isEmpty then ({ s with invals := s.invals.filter fun x => x.id != id } : State).endInval v
      else { s with invals := s.invals.map fun x => if x.id = id then v else x }
    else s

/-- INVALIDATION_ACKNOWLEDGEMENT. -/
def execInvalidationAcknowledgement (id die : Nat) (s : State) : Out :=
  .next (
    match s.invals.find? fun v => v.id == id with
    | none => s
    | some v => if s.accessesDone v die then s.ackInval id die false else s)

/-- A die that enters reset may lose stores that have not left it; which, the manual leaves open (R271, log 51). A lost store counts
as over. -/
def State.loseStores (s : State) (die : Nat) : State :=
  s.takeFree fun f s =>
    let out := (s.memory.writes.filter fun x => x.isPlain && !x.engine && x.scratchOf.isNone && !x.held && unitDie x.unit == die &&
      x.stage.rank ≤ 3).zipIdx.filter fun p => f.getLsbD (p.2 % 128)
    out.foldl (fun t p =>
      match t.memory.writes.find? fun x => x.id == p.1.id with
      | some x => ((t.finishWrite x).tellDropped x).settleWave x.group x.wave
      | none => t) s

/-- RESET_ENTRY_MESSAGE: a die enters reset, which clears its translation cache; it counts as acknowledged (R269). -/
def execResetEntryMessage (die : Nat) (s : State) : Out :=
  .next (
    if die < 8 then
      (s.invals.map Inval.id).foldl (fun t i => t.ackInval i die true) ((s.modDie die fun x => { x with tlb := [] }).loseStores die)
    else s)

/-- A die is fenced: one notice to the management cores (R60, R269, R278). -/
def State.fenceDie (s : State) (d : Nat) : State :=
  if (s.die d).fenced then s
  else (s.modDie d fun x => { x with fenced := true }).postMgmt 0x84 (0xFF00 + d) d

/-- DIE_FENCE: neither an acknowledgement nor a reset-entry message has come within 100 µs. -/
def execDieFence (die : Nat) (s : State) : Out :=
  .next (
    let late := s.invals.filter fun v => v.dies.contains die && s.passed v.since 100000
    if late.isEmpty then s
    else (late.map Inval.id).foldl (fun t i => t.ackInval i die true) (s.fenceDie die))

end Sys2Proof.Machine
end

