-- ==== Sys2Proof/Machine/Links.lean ====
section
/-! DEFINITION. Die bridges and clocks (R10, R278), fabric links (R279-R281), deficit round robin (R284) and reductions at the
switch (R287). -/

namespace Sys2Proof.Machine

/-! ## Bridges and clocks (R10, R278) -/

/-- The die beyond a bridge (R16): 0-7 are the ring's bridges with traffic towards increasing position, 8-15 the same bridges with
traffic towards decreasing position, 16-23 the bridges from DX to the dies, 24-31 the same bridges towards DX, beyond which no compute
die lies: their own die counts (DEDUCED, log 20). -/
def bridgeDie (b : Nat) : Nat := if b < 8 then ring.getD ((b + 1) % 8) 0 else if b < 16 then ring.getD (b - 8) 0 else b % 8

/-- Resends that have failed one after the other on a bridge. -/
def State.resends (s : State) (b : Nat) : Nat := Tbl.getD s.bridges b 0

/-- FLIT_CRC_FAIL: a flit of a bridge fails its CRC and is resent; `again` says that it is a resend of the flit that failed last.
16 consecutive resends that fail fence the die beyond the bridge. -/
def execFlitCrcFail (bridge : Nat) (again : Bool) (s : State) : Out :=
  .next (
    if 32 ≤ bridge ∨ (s.die (bridgeDie bridge)).fenced then s
    else
      let n := if again then s.resends bridge + 1 else 0
      if 16 ≤ n then s.fenceDie (bridgeDie bridge) else { s with bridges := Tbl.set s.bridges bridge n })

/-- FREQUENCY_STEP (R10). -/
def State.stepClock (s : State) (d mhz : Nat) : State :=
  if (s.die d).mhz = mhz then s else s.modDie d fun x => { x with mhz := mhz, relocking := true }

def execFrequencyStep (die : Nat) (mhz : Nat) (s : State) : Out :=
  .next (if die < 8 ∧ (mhz = 1200 ∨ mhz = 1500 ∨ mhz = 1900) then s.stepClock die mhz else s)

/-- CLOCK_RELOCK: the bridges of the die carry flits again. -/
def execClockRelock (die : Nat) (s : State) : Out := .next (if die < 8 then s.modDie die fun x => { x with relocking := false } else s)

/-- DIE_RESET_COMPLETE: a fenced die's bridges are up again. -/
def execDieResetComplete (die : Nat) (s : State) : Out :=
  .next (
    if die < 8 then
      ({ s with bridges := s.bridges.filter fun e => bridgeDie e.1 != die } : State).modDie die fun x =>
        { x with fenced := false, tlb := [] }
    else s)

/-! ## Fabric links (R279, R280) -/

def State.link (s : State) (l : Nat) : Link := Tbl.getD s.pod.links l {}
def State.setLink (s : State) (l : Nat) (x : Link) : State :=
  { s with pod := { s.pod with links := Tbl.set s.pod.links l x } }

/-- The lane groups of a link that are neither under lease nor retired. -/
def State.groupsUp (s : State) (l : Nat) : Nat :=
  ((List.range 2).filter fun g => (s.unit (0x200 + 2 * l + g)).inService).length

/-- The state of a link that carries traffic on the lane groups it has. -/
def State.linkUp (s : State) (l : Nat) : LinkSt := if s.groupsUp l = 2 then .up else .degraded

/-- Both lane groups of a link are retired: it does not train (R293). -/
def State.lanesRetired (s : State) (l : Nat) : Bool :=
  (List.range 2).all fun g => (s.unit (0x200 + 2 * l + g)).st == .retired

/-- LINK_TRAINING: training completes; the switch reports the port, which fixes `%mod` (R17). -/
def State.trainLink (s : State) (l port : Nat) : State :=
  if 18 ≤ l ∨ 192 ≤ port ∨ s.lanesRetired l then s
  else
    match (s.link l).st with
    | .training =>
      let t := s.setLink l { st := s.linkUp l, port := port, retriesSampled := (s.link l).retriesSampled }
      { t with mod := port / 3 }
    | .up => s | .degraded => s | .retrying _ => s | .down => s

def execLinkTraining (link port : Nat) (s : State) : Out := .next (s.trainLink link port)

/-- A resend of every unacknowledged flit (R280). -/
def Link.resend (x : Link) (now : Nat) (k : Nat) (fromUp : Bool) : Link :=
  { x with st := .retrying fromUp, retry := k, since := now, retriesSampled := x.retriesSampled + 1 }

/-- ACK_TIMEOUT: a flit has waited 2 µs; a retry sequence starts. -/
def execAckTimeout (link : Nat) (s : State) : Out :=
  .next (
    let x := s.link link
    if !x.unacked.any fun f => s.passed f.2 2000 then s
    else
      match x.st with
      | .up => s.setLink link (x.resend s.now 1 true)
      | .degraded => s.setLink link (x.resend s.now 1 false)
      | .training => s | .retrying _ => s | .down => s)

/-- How long retry `k` waits, in ns. -/
def retryWait (k : Nat) : Nat := min (2 ^ k) 64 * 1000

/-! ## Failover (R281) -/

/-- The link to which a flow of link `l` moves: another up or degraded link of its plane, or else the lowest-numbered up link of the
next plane that has one. Which of two in its own plane, the manual leaves open: the lower (log 15). -/
def State.failoverLink (s : State) (l : Nat) : Option Nat :=
  let same := (List.range 3).map fun j => 3 * (l / 3) + j
  let others := (List.range 5).flatMap fun i => (List.range 3).map fun j => 3 * ((l / 3 + i + 1) % 6) + j
  (same.find? fun k => k != l && ((s.link k).st == .up || (s.link k).st == .degraded)).or
    (others.find? fun k => (s.link k).st == .up)

/-- A transaction has a home that has not prepared, on a path over a link. -/
def State.crosses (s : State) (h : Hold) (l : Nat) : Bool :=
  h.tx && h.vers.any fun v => !v.acked && remoteHome (homeOf v.slot) &&
    (s.flow (flowKey (homeModule (homeOf v.slot)) h.ctx true)).link == some l

/-- Entries of holds that meet a condition fail. -/
def State.failEntries (s : State) (p : Hold → Bool) : State :=
  s.cores.foldl (fun t c => (c.2.hold.filter p).foldl (fun t h => t.failEntry c.1 h) t) s

/-- A link goes down: transactions that cross it abort, its flows move to another link, entries whose homes no link reaches
fail, and the management cores receive a notice. -/
def State.linkDown (s : State) (l : Nat) : State :=
  let x := s.link l
  let t := s.setLink l { x with st := .down, retry := 0, unacked := [] }
  let t := t.failEntries fun h => t.crosses h l
  let dest := t.failoverLink l
  let t := t.modMem fun m => { m with flows := Tbl.mapVals m.flows fun f => if f.link = some l then { f with link := dest } else f }
  let t := { t with pod := { t.pod with responses := t.pod.responses.map fun r => if r.link = some l then { r with link := dest } else r } }
  let t : State := match dest with
    | some k => t.sendFlits k x.unacked.length
    | none => t
  let t := if t.anyLink then t
    else t.failEntries fun h => h.vers.any fun v => !v.acked && remoteHome (homeOf v.slot)
  t.postMgmt 0x85 0xFFFF l

/-- RETRY_TIMEOUT: a retry's wait ends; the next one begins, or after the eighth the link is down. -/
def execRetryTimeout (link : Nat) (s : State) : Out :=
  .next (
    let x := s.link link
    match x.st with
    | .retrying b =>
      if !s.passed x.since (retryWait x.retry) then s
      else if x.retry < 8 then s.setLink link (x.resend s.now (x.retry + 1) b)
      else s.linkDown link
    | .training => s | .up => s | .degraded => s | .down => s)

/-- LINK_ACKNOWLEDGEMENT: the flits up to a number are acknowledged. It ends a retry sequence: the link is in the state it left again,
and the flits that remain wait from 2 µs (R279, R280, log 20). -/
def execLinkAcknowledgement (link upto : Nat) (s : State) : Out :=
  .next (
    let x := s.link link
    let left := x.unacked.filter fun f => upto < f.1
    if left.length = x.unacked.length then s
    else
      match x.st with
      | .retrying back => s.setLink link { x with
          st := if back then .up else .degraded, retry := 0, since := s.now, unacked := left.map fun f => (f.1, s.now) }
      | .training | .up | .degraded | .down => s.setLink link { x with unacked := left })

/-- The lane groups of a link have changed: with both retired it goes down, with one it is degraded (R293, R299). -/
def State.settleLanes (s : State) (l : Nat) : State :=
  if s.lanesRetired l then
    match (s.link l).st with
    | .down => s
    | .training => s.setLink l { s.link l with st := .down }
    | .up | .degraded | .retrying _ => s.linkDown l
  else if s.groupsUp l = 2 then s
  else
    match (s.link l).st with
    | .up => s.setLink l { s.link l with st := .degraded }
    | .retrying _ => s.setLink l { s.link l with st := .retrying false }
    | .down | .training | .degraded => s

/-- LINK_RETRAINING: a down link trains again, unless both its lane groups are retired (R293). -/
def execLinkRetraining (link : Nat) (s : State) : Out :=
  .next (
    let x := s.link link
    match x.st with
    | .down => if s.lanesRetired link then s else s.setLink link { x with st := .training }
    | .training => s | .up => s | .degraded => s | .retrying _ => s)

/-- FLIT_RECEIPT: the next flit in order is taken; any other number is a duplicate and is dropped. -/
def execFlitReceipt (link seq : Nat) (s : State) : Out :=
  .next (
    let x := s.link link
    if x.carries ∧ seq = x.recvSeq then s.setLink link { x with recvSeq := seq + 1 } else s)

/-! ## Reductions (R287) -/

/-- A line of the window's members, and their ranks. -/
def Window.ranks (w : Window) : List Nat := (List.range 64).filter fun m => w.members.testBit m

/-- Elements of a line: (width in bytes, count). -/
def redShape (type : Nat) : Nat × Nat := if type = 1 then (8, 8) else (4, 16)

/-- The combination of the members' elements, in rank order. -/
def reduceElem (type : Nat) (xs : List Nat) : Nat :=
  if type = 2 then
    match xs with
    | [] => 0
    | x :: r => r.foldl (fun acc y => (fAdd (BitVec.ofNat 32 acc) (BitVec.ofNat 32 y)).1.toNat) x
  else
    let w := if type = 1 then 64 else 32
    let sum := (xs.map fun x => sfld x w).foldl (· + ·) (0 : Int)
    let top : Int := 2 ^ (w - 1)
    ((max (-top) (min sum (top - 1))) % 2 ^ w).toNat

/-- The combined line of a round. -/
def reducedLine (w : Window) (r : Round) : List Byte :=
  let sh := redShape w.type
  (List.range sh.2).flatMap fun i =>
    natLE sh.1 (reduceElem w.type (w.ranks.map fun m => fieldAt (Tbl.getD r.got m []) (sh.1 * i) sh.1))

/-- The window of a member's line: windows of other members may lie at the same addresses (R285). -/
def State.windowOf (s : State) (src line : Nat) : Option (Nat × Window) :=
  s.pod.windows.find? fun e => e.2.members.testBit src && e.2.base ≤ line && line < e.2.base + e.2.pages * 65536

def State.modPod (s : State) (f : Pod → Pod) : State := { s with pod := f s.pod }

/-- A round of a window's line. -/
def Round.isOf (r : Round) (win line round : Nat) : Bool := r.win == win && r.line == line && r.round == round

def State.modRound (s : State) (win line round : Nat) (f : Round → Round) : State :=
  s.modPod fun p => { p with rounds := p.rounds.map fun r => if r.isOf win line round then f r else r }

def State.roundOf (s : State) (win line round : Nat) : Option Round := s.pod.rounds.find? fun r => r.isOf win line round

/-- Bytes of partial rounds that a plane's switch holds. -/
def State.switchBytes (s : State) (plane : Nat) : Nat :=
  (s.pod.rounds.filter fun r =>
    (match Tbl.get? s.pod.windows r.win with
     | some w => w.plane == plane
     | none => false)).foldl (fun n r => n + 64 * r.got.length) 0

/-- The detail of a reduction's notices: bits [37:6] of the line's address. -/
def lineDetail (line : Nat) : Nat := fld line 6 32

/-- A round is abandoned. Each context of this module that contributed to the window receives a notice of kind 0x10. -/
def State.abandonRound (s : State) (r : Round) : State :=
  let t := s.modRound r.win r.line r.round fun r => { r with abandoned := true, got := [] }
  (s.pod.users.filter fun u => u.1 == r.win).foldl (fun t u => t.postNotice u.2 cTimeout 0xFFFF (lineDetail r.line)) t

/-- The ordered flow on which a plane's switch sends its combined writes to this module (R193, R287). -/
def planeFlow (p : Nat) : Nat := flowKey (64 + p) 64 true

/-- A round with every member's contribution forms: the combined line leaves for the members on the switch's ordered flow, with its
number there (R193, R287), poisoned where a contribution was (R14). -/
def State.formRound (s : State) (w : Window) (r : Round) : State :=
  let t := s.modPod fun p => { p with rounds := p.rounds.filter fun x => !x.isOf r.win r.line r.round }
  if w.members.testBit s.mod then
    let k := planeFlow w.plane
    let n := (t.flow k).next
    (t.setFlow k (t.flow k).count).modPod fun p => { p with formed := p.formed ++ [(w.plane, n, r.line, reducedLine w r, r.poison)] }
  else t

/-- A round with one more contribution. -/
def Round.take (r : Round) (x : Contribution) : Round := { r with got := Tbl.set r.got x.src x.bytes, poison := r.poison || x.poison }

/-- A contribution joins its round at the switch. One for an abandoned round is dropped, with a notice of kind 0x83 to its context. A
round whose first contribution came 256 µs ago is abandoned first. One that finds no room in 8 MiB waits on its flow. -/
def State.joinRound (s : State) (k : Nat) (w : Window) (x : Contribution) : State :=
  let s := match s.roundOf k x.line x.round with
    | some r => if !r.abandoned && s.passed r.since 256000 then s.abandonRound r else s
    | none => s
  let full := 8388608 < s.switchBytes w.plane + 64
  let wait : State := s.modPod fun p => { p with waiting := p.waiting ++ [x] }
  match s.roundOf k x.line x.round with
  | none =>
    if full then wait
    else
      let r : Round := { win := k, line := x.line, round := x.round, since := s.now }
      s.modPod fun p => { p with rounds := p.rounds ++ [r.take x] }
  | some r =>
    if r.abandoned then (if x.src = s.mod then s.postNotice x.ctx 0x83 0xFFFF (lineDetail x.line) else s)
    else if Tbl.has r.got x.src then s
    else if full then wait
    else if w.ranks.all fun m => Tbl.has (r.take x).got m then s.formRound w (r.take x)
    else s.modRound k x.line x.round fun _ => r.take x

/-- A contribution of this module's is of a context that has ended or ends: it is dropped (R61, R287). -/
def State.ofEnded (s : State) (x : Contribution) : Bool :=
  x.src == s.mod && !((s.ctx x.ctx).isLive || (s.ctx x.ctx).st == .suspended)

/-- A contribution that waits stands on the same ordered flow: of the same sender, context and plane (R193, R286). -/
def State.waitsOnFlow (s : State) (x : Contribution) (w : Window) : Bool :=
  s.pod.waiting.any fun y => y.src == x.src && y.ctx == x.ctx && (s.windowOf y.src y.line).any fun v => v.2.plane == w.plane

/-- A contribution of an ordered flow does not pass one that waits there. -/
def State.joinOrWait (s : State) (x : Contribution) : State :=
  match s.windowOf x.src x.line with
  | none => s
  | some (k, w) =>
    if x.bytes.length ≠ 64 ∨ s.ofEnded x then s
    else if s.waitsOnFlow x w then s.modPod fun p => { p with waiting := p.waiting ++ [x] }
    else s.joinRound k w x

/-- Room has come at a switch: the contributions that wait join, oldest first. -/
def State.admitWaiting (s : State) : State :=
  s.pod.waiting.foldl State.joinOrWait (s.modPod fun p => { p with waiting := [] })

/-- CONTRIBUTION_ARRIVAL at the switch of the window's plane. -/
def execContributionArrival (src : Fin 64) (ctx line round : Nat) (data : ContributedLine) (s : State) : Out :=
  .next (s.joinOrWait { src := src.val, ctx := ctx, line := lineOf line, round := round, bytes := data.bytes, poison := data.poison }).admitWaiting

/-- ROUND_ABANDON: 256 µs after its first contribution the round has not formed. -/
def execRoundAbandon (line round : Nat) (s : State) : Out :=
  .next (
    match s.pod.rounds.find? fun r => r.line == lineOf line && r.round == round && !r.abandoned && s.passed r.since 256000 with
    | none => s
    | some r => (s.abandonRound r).admitWaiting)

/-- COMBINED_WRITE: the switch's write of a formed round is performed at the line's home slice, in the sequence of the plane's ordered
flow (R193, R283, R287); a frozen frame and a bridge that is stalled hold it up (R270, R278). -/
def execCombinedWrite (line : Nat) (bytes : List Byte) (s : State) : Out :=
  .next (
    let line := lineOf line
    match s.pod.formed.find? fun e => e.2.2.1 == line && e.2.2.2.1 == bytes && e.2.1 == (s.flow (planeFlow e.1)).expect with
    | none => s
    | some e =>
      if !inClass line ∨ s.frozenAt line ∨ !s.dxOk (homeOf line) then s
      else
        let k := planeFlow e.1
        let t := (s.modPod fun p => { p with formed := p.formed.erase e }).applyCells (cellsFrom line bytes)
        let t := if e.2.2.2.2 then t.poisonLines [line] else t
        t.setFlow k { t.flow k with expect := ((t.flow k).expect + 1) % 2 ^ 32 })

end Sys2Proof.Machine
end

