-- ==== Sys2Proof/Machine/Placement.lean ====
section
/-! DEFINITION. The dispatcher: acceptance of LAUNCH (R82, R334), dependences (R73, R77-R79), placement (R74, R89), the choice of
R75, completion and failure of kernels (R83), the end of a context (R61), pre-emption points (R85-R87). -/

namespace Sys2Proof.Machine

/-! ## Bitmaps and dependences (R73, R77, R78) -/

/-- Bitmaps of final kernels that no unplaced consumer names go back to the pool. -/
def State.freeBitmaps (s : State) : State :=
  (s.disp.kernels.filter fun e => e.2.st.isFinal && e.2.poolBytes != 0).foldl (fun (t : State) e =>
    if t.disp.kernels.any fun c => c.2.pkt.hasProducer && c.2.pkt.producer == e.1 && c.2.unplaced then t
    else
      let u := t.modKernel e.1 fun k => { k with poolBytes := 0 }
      { u with disp := { u.disp with pool := u.disp.pool - e.2.poolBytes } }) s

/-! ## Room on cores (R74, R97, R127, R156) -/

/-- What a group takes: its waves, registers per wave, scratchpad with the spill area, whether it is deterministic. -/
structure Need where
  waves : Nat
  regs : Nat
  scratch : Nat
  det : Bool
  deriving DecidableEq, Repr

def roundUp (n k : Nat) : Nat := ceilDiv n k * k

/-- Free wave slots of a scheduler. -/
def State.freeSlots (s : State) (u k : Nat) : List Nat :=
  let used := s.groups.flatMap fun e =>
    if e.2.isPlaced && e.2.unit == u then (e.2.waves.filter fun w => !w.2.ended).map fun w => w.2.wslot else []
  ((List.range 16).map fun j => k + 4 * j).filter fun x => !used.contains x

def State.rowsUsed (s : State) (u : Nat) : Nat :=
  s.groups.foldl (fun n e =>
    if e.2.isPlaced && e.2.unit == u then
      e.2.waves.foldl (fun n w => if w.2.ended then n else n + w.2.v.length + 8) n
    else n) 0

/-- Scratchpad in use on a core: an allocation is free for other groups when its group has ended, though a gang mate may still
reach it (DESIGN CHOICE, log 73). -/
def State.scratchUsed (s : State) (u : Nat) : Nat :=
  s.groups.foldl (fun n e => if e.2.isPlaced && e.2.unit == u then n + roundUp e.2.scratchSize 512 + 512 else n) 0

/-- The scheduler of a deterministic group: most free slots, then the lowest number. -/
def State.detScheduler (s : State) (u : Nat) : Nat :=
  (List.range 4).foldl (fun b k => if (s.freeSlots u b).length < (s.freeSlots u k).length then k else b) 0

/-- Slots for waves numbered as in `ws`; none where a scheduler has too few. -/
def State.slotsFor (s : State) (u : Nat) (det : Bool) (ws : List Nat) : Option (List (Nat × Nat)) :=
  let sched (w : Nat) : Nat := if det then s.detScheduler u else w % 4
  let pick (w : Nat) : Option (Nat × Nat) :=
    let before := ws.takeWhile fun x => x != w
    ((s.freeSlots u (sched w))[(before.filter fun x => sched x == sched w).length]?).map fun z => (w, z)
  if ws.all fun w => (pick w).isSome then some (ws.filterMap pick) else none

/-- A core takes a group with these waves. -/
def State.coreTakes (s : State) (c : Nat) (dies u : Nat) (regs scratch : Nat) (det : Bool) (ws : List Nat) : Bool :=
  isUnit u && (s.placeCores c).contains u && dies.testBit (unitDie u / 4) && (s.unit u).inService &&
  (s.slotsFor u det ws).isSome && s.rowsUsed u + ws.length * (regs + 8) ≤ 4096 &&
  s.scratchUsed u + roundUp scratch 512 + 512 ≤ 262144

/-- The first unit of the first place for a gang: die, quad and position in order. -/
def State.findPlace (s : State) (c dies n : Nat) (takes : Nat → Nat → Bool) : Option Nat :=
  ((List.range 8).flatMap fun d => (List.range (dieCores d / 4)).flatMap fun q => (List.range (5 - n)).map fun i => 64 * d + 4 * q + i).find?
    fun u => dies.testBit (unitDie u / 4) && (s.placeCores c).contains u && (List.range n).all fun i => takes i (u + i)

/-! ## New gangs -/

/-- A wave at its start (R5, R72, R100, R128, R151). -/
def newWave (K : Kernel) (i : Image) (adopted : Option Nat) (lin w slot cyc : Nat) : Wave :=
  { started := cyc
    wslot := slot
    v := List.replicate i.regs zeroRow
    s := ((Vector.replicate 64 0).setIfInBounds 1 (BitVec.ofNat 64 (i.base + i.dataOff))).setIfInBounds 2 (BitVec.ofNat 64 K.pkt.args)
    ctr := Vector.ofFn fun l => BitVec.ofNat 128 ((32 * (i.waves * lin + w) + l.val) * 2 ^ 64)
    nextIssue := cyc
    adopted := adopted
    splits := [(0, { pc := BitVec.ofNat 64 (i.base + i.codeOff + 4 * i.entry), members := 0xFFFFFFFF, exec := 0xFFFFFFFF })] }

/-- An idle core has counted cycles like the others when a group comes to it (log 1): it stands at the start of a cycle, in which no
decoder has chosen and no split has a claim (R115). -/
def State.catchUp (s : State) (u : Nat) : State :=
  if s.groups.any fun e => e.2.isPlaced && e.2.unit == u then s
  else s.modCore u fun c => { c with
    cyc := s.cores.foldl (fun m e => max m e.2.cyc) c.cyc
    pos := 0
    first := none
    claims := [] }

/-- A new group starts on a core (R74, R97, R98, R172, R178). Its placement is an acquire at module scope: its waves read nothing older
than the writes that its start waited for (R73, R78, R82, R189). -/
def State.startGroup (s : State) (k j inGang lin u : Nat) : State :=
  let s := s.catchUp u
  let K := s.kernel k
  let i := K.newImg.getD K.img
  let adopted := match K.newImg with
    | some _ => K.install
    | none => none
  let det := (s.ctx K.ctx).det || i.det
  let ws := List.range i.waves
  let slots := (s.slotsFor u det ws).getD []
  let cyc := (s.core u).cyc
  let G : Group :=
    { kernel := k, gx := lin % K.pkt.ngx, gy := lin / K.pkt.ngx, lin := lin, gang := j, inGang := inGang
      place := .placed, unit := u, det := det, running := 0, ranThisRound := [0]
      scratchSize := i.scratch
      bars := [(0, { member := ws.map fun w => (w, 0xFFFFFFFF), e := 32 * i.waves })]
      waves := ws.map fun w => (w, newWave K i adopted lin w (Tbl.getD slots w 0) cyc) }
  let id := s.nextId
  let d := unitDie u
  let t := (s.fresh.setGroup id G).modCore u fun c => { c with kcache := [], view := [] }
  ws.foldl (fun t w => t.note id w (s.startSees K lin)) (t.setSlice k d { t.slice k d with groups := (t.slice k d).groups ++ [id] })

/-- A gang of a kernel is placed: the kernel runs, and leaves the queue with its last gang (R69, R83). -/
def State.placeGang (s : State) (k j u : Nat) : State :=
  let K := s.kernel k
  let ls := K.gangOf j
  let t := (ls.zipIdx).foldl (fun t p => t.startGroup k j p.2 p.1 (u + p.2)) s
  let rec' : List Nat := K.beyond ++ [j]
  let n := (List.range (K.gangs + 1)).find? fun i => K.nextGang ≤ i && !rec'.contains i
  let next := n.getD K.gangs
  let t := t.modKernel k fun x => { x with
    st := if x.st = .queued then .running else x.st
    nextGang := next
    beyond := rec'.filter fun i => next ≤ i }
  let t := if K.st = .queued then t.jset K.jseq 1 0 else t
  let t := if K.gangs ≤ next then t.modQueue K.queue fun q => { q with cmds := q.cmds.filter fun x => x != k } else t
  t.freeBitmaps.settleInstalls

/-! ## Saved gangs (R87, R89, R90) -/

/-- A saved gang: the groups of it that have not ended, in their order. They are placed on consecutive cores; where some have ended,
only the others (DESIGN CHOICE, log 46). -/
def State.gangGroups (s : State) (k j : Nat) : List (Nat × Group) :=
  s.groups.filter fun e => e.2.kernel == k && e.2.gang == j && !e.2.isEnded

/-- The gang may be placed again. -/
def State.gangEligible (s : State) (k j : Nat) : Bool :=
  let K := s.kernel k
  (K.st == .running || K.st == .failing) && (s.ctx K.ctx).isLive &&
  (s.gangGroups k j).all fun e => e.2.isSaved && !e.2.halted

/-- A saved gang of the kernel waits to be placed again: each of its groups is saved, or is about to be (R69). -/
def State.savedWaits (s : State) (k : Nat) : Bool :=
  let K := s.kernel k
  (K.st == .running || K.st == .failing) && (s.ctx K.ctx).isLive &&
  s.groups.any fun e => e.2.kernel == k && e.2.isSaved &&
    (s.gangGroups k e.2.gang).all fun m => !m.2.halted && (m.2.isSaved || m.2.preempt == .now)

/-- Where the next gang of a queue's head goes: the kernel, its gang, the first core. A kernel's saved gangs come
before its new ones (R69, R89). -/
def State.placeable (s : State) (k : Nat) : Option (Nat × Nat × Nat) :=
  match s.nextGangOf k with
  | none => none
  | some j =>
    if s.savedWaits k then none else
    let K := s.kernel k
    let i := K.newImg.getD K.img
    let det := (s.ctx K.ctx).det || i.det
    (s.findPlace K.ctx K.pkt.dies (K.gangOf j).length fun _ u =>
      s.coreTakes K.ctx K.pkt.dies u i.regs i.scratch det (List.range i.waves)).map fun u => (k, j, u)

/-- A saved group stands on a core again. -/
def State.restoreGroup (s : State) (g u : Nat) : State :=
  let s := s.catchUp u
  let G := s.group g
  let cyc := (s.core u).cyc
  let slots := (s.slotsFor u G.det G.liveWaves).getD []
  let moved := unitDie u != unitDie G.unit
  let s := if moved then s.leaveSlice g else s
  let t := s.modGroup g fun x => { x with
    place := .placed
    unit := u
    preempt := .no
    dbarArrived := x.dbarArrived && !moved }
  let t := t.modGroup g fun x => { x with
    waves := x.waves.map fun e => if e.2.ended then e else
      (e.1, { e.2 with
        started := cyc
        wslot := Tbl.getD slots e.1 0
        nextIssue := cyc
        inflight := []
        splits := Tbl.mapVals e.2.splits fun p => { p with readySince := none, claimed := false } }) }
  let t := t.modCore u fun c => { c with view := [], kcache := [], portWork := if G.tapWork.isSome then c.portWork ++ [g] else c.portWork }
  if moved then t.setSlice G.kernel (unitDie u) { t.slice G.kernel (unitDie u) with
    groups := (t.slice G.kernel (unitDie u)).groups ++ [g] } else t

/-- Saved gangs that can be placed, as (order, kernel, gang, first core). A gang's order is that of the first of its groups to be
saved (DESIGN CHOICE, log 45). -/
def State.savedPlaces (s : State) : List (Nat × Nat × Nat × Nat) :=
  ((s.groups.filter fun e => e.2.isSaved).map fun e => (e.2.kernel, e.2.gang)).eraseDups.filterMap fun p =>
    let gs := s.gangGroups p.1 p.2
    if s.gangEligible p.1 p.2 then
      let K := s.kernel p.1
      (s.findPlace K.ctx K.pkt.dies gs.length fun i u =>
        match gs[i]? with
        | none => false
        | some e => s.coreTakes K.ctx K.pkt.dies u K.img.regs e.2.scratchSize e.2.det e.2.liveWaves).map fun u =>
          (gs.foldl (fun n e => min n e.2.savedOrder) s.nextId, p.1, p.2, u)
    else none

/-! ## The choice of R75 -/

def State.queuePlace (s : State) (q : Nat) : Option (Nat × Nat × Nat) :=
  match s.headOf q with
  | some k => s.placeable k
  | none => none

/-- The queue served among the eligible ones. At a priority at which none has been served the turn starts at queue 0 (DESIGN CHOICE,
log 74). -/
def State.serve (s : State) (qs : List Nat) : Option Nat :=
  let late := qs.filter fun q => 15 ≤ (s.queue q).pass
  match late with
  | _ :: _ => some (late.foldl (fun b q => if (s.queue b).pass < (s.queue q).pass then q else b) (late.headD 0))
  | [] =>
    match qs with
    | [] => none
    | _ =>
      let p := qs.foldl (fun p q => max p (s.queue q).prio) 0
      let top := qs.filter fun q => (s.queue q).prio == p
      let start := match Tbl.get? s.disp.lastServed p with
        | some q => q + 1
        | none => 0
      match top.find? fun q => start ≤ q with
      | some q => some q
      | none => top.head?

/-- A decision of R75: pass counts, and the gang of the queue served. -/
def State.decideNew (s : State) : State :=
  let ready := (List.range 256).filter s.queueReady
  let elig := ready.filter fun q => (s.queuePlace q).isSome
  let served := s.serve elig
  let t := { s with disp := { s.disp with queues := s.disp.queues.map fun e =>
    (e.1, { e.2 with pass :=
      if served == some e.1 || !ready.contains e.1 then 0 else if elig.contains e.1 then e.2.pass + 1 else e.2.pass }) } }
  match served with
  | none => t
  | some q =>
    let p := (s.queue q).prio
    let t : State := { t with disp := { t.disp with lastServed := Tbl.set t.disp.lastServed p q } }
    match s.queuePlace q with
    | some (k, j, u) => t.placeGang k j u
    | none => t

/-- DISPATCH_DECISION: a saved gang, the earliest saved first; where none can be placed, a decision of R75. -/
def execDispatchDecision (s : State) : Out :=
  .next (
    match s.savedPlaces with
    | [] => s.decideNew
    | x :: xs =>
      let b := xs.foldl (fun b y => if y.1 < b.1 then y else b) x
      (((s.gangGroups b.2.1 b.2.2.1).zipIdx).foldl (fun t e => t.restoreGroup e.1.1 (b.2.2.2 + e.2)) s).settleInstalls)

/-! ## Acceptance (R82, R334) -/

/-- The LAUNCH packets that have come to the dispatcher on DX, over the bridges of their dies (R278). -/
def State.launchesHere (s : State) : List LaunchMsg := s.disp.launches.filter fun m => s.bridgeOk (s.group m.group).unit 512

/-- LAUNCH_ACCEPTANCE: the packet of a LAUNCH is accepted or refused, oldest first. -/
def execLaunchAcceptance (id : Nat) (s : State) : Out :=
  .next (
    match s.launchesHere with
    | [] => s
    | m :: _ =>
      if m.id ≠ id then s
      else
        let rest := s.disp.launches.filter fun x => x.id != id
        let t : State := (({ s with disp := { s.disp with launches := rest } } : State)).touchImage m.ctx (fieldAt m.bytes 0 8)
        let d := match (s.wave m.group m.wave).results.find? fun r => r.id == id with
          | some r => r.sregs.headD 0
          | none => 0
        let say (t : State) (v : Int) : State := t.answer m.group m.wave id [(.s d, BitVec.ofInt 64 v)]
        if (s.queue m.queue).ctx ≠ some m.ctx ∨ (s.ctx m.ctx).st = .ending then say t (-3)
        else
          match s.readLaunch m.ctx m.bytes with
          | none => say t (-2)
          | some (p, i) =>
            if 1024 ≤ s.queueLen m.queue then say t (-1)
            else
              let r := t.accept m.ctx m.queue p i 0 0 none m.waitWrites
              say r.1 r.2)

/-! ## Ends (R78, R79, R83) -/

/-- GROUP_BITMAP_SET: the group has exited and its writes are performed at module scope; drains, copies and MXSTs that an engine has
not carried out are not waited for (R78, R188; for MXST DESIGN CHOICE, log 44). A group that END_HALTED_GROUP ended sets none (log 81). -/
def execGroupBitmapSet (g : Nat) (s : State) : Out :=
  .next (
    let x := s.group g
    if x.isEnded && !x.failed && !x.bit && (s.kernel x.kernel).tracked &&
        (s.memory.writes.all fun w => w.group != g || w.engine || w.performedAt 4) then
      (s.modGroup g fun y => { y with bit := true }).modKernel x.kernel fun k => { k with bits := k.bits ++ [x.lin] }
    else s)

/-- A kernel's stores, its MXSTs among them, atomics and drains are performed at module scope, and no copy of it is pending (R73). -/
def State.kernelQuiet (s : State) (k : Nat) : Bool :=
  let gs := (s.groupsOf k).map Prod.fst
  ((s.groupsOf k).all fun e => e.2.copies.isEmpty) &&
  (s.memory.writes.all fun w => !gs.contains w.group || w.performedAt 4) &&
  s.cores.all fun c => (c.2.mxq.all fun o => !(gs.contains o.group && (o.kind == 3 || o.kind == 5 || o.kind == 6))) &&
    c.2.drains.all fun o => !gs.contains o.group

/-- The engines of a kernel's groups have stopped. -/
def State.enginesIdle (s : State) (k : Nat) : Bool :=
  let gs := (s.groupsOf k).map Prod.fst
  ((s.groupsOf k).all fun e => e.2.copies.isEmpty && e.2.tapOps.isEmpty) &&
  s.cores.all fun c => (c.2.mxq.all fun o => !gs.contains o.group) && c.2.drains.all fun o => !gs.contains o.group

/-- KERNEL_COMPLETE: the messages left in its mailboxes are discarded (R73, R83, R179). -/
def execKernelComplete (k : Nat) (s : State) : Out :=
  .next (
    if (s.kernel k).st = .retiring && s.kernelQuiet k then
      (((s.modKernel k fun x => { x with st := .complete, mbx := [] }).jset (s.kernel k).jseq 2 0).freeBitmaps).settleInstalls
    else s)

/-- Kernels that depend on a failed one fail (R79). -/
def State.failDependants (s : State) (k : Nat) : State :=
  (s.disp.kernels.filter fun e => e.2.pred == some k || (e.2.pkt.hasProducer && e.2.pkt.producer == k && !e.2.prodDone)).foldl
    (fun t e => t.passFail e.1 k) s

/-- KERNEL_FAILED: the last group of a failing kernel has stopped, and its engines. -/
def execKernelFailed (k : Nat) (s : State) : Out :=
  .next (
    let K := s.kernel k
    if K.st = .failing && ((s.groupsOf k).all fun e => e.2.isEnded) && s.enginesIdle k then
      (((s.modKernel k fun x => { x with st := .failed, mbx := [] }).jset K.jseq 3 K.code).failDependants k).freeBitmaps.settleInstalls
    else s)

/-! ## The end of a context (R61) -/

/-- Nothing of an ending context is outstanding: its kernels have failed, its writes are performed, its hold entries are
resolved, its invalidation is acknowledged. -/
def State.ctxQuiet (s : State) (c : Nat) : Bool :=
  (s.disp.kernels.all fun e => e.2.ctx != c || e.2.st.isFinal) && (s.memory.writes.all fun w => w.ctx != c) &&
  (s.cores.all fun u => u.2.hold.all fun h => h.ctx != c) && (s.memory.pending.all fun e => e.2.2.ctx != c) &&
  (match (s.ctx c).inval with
   | some i => s.invals.all fun v => v.id != i
   | none => true)

/-- CONTEXT_FREE: the id, its queues and its kernels' identifiers become reusable; each CTX.END that waits receives its status. -/
def execContextFree (c : Nat) (s : State) : Out :=
  .next (
    if (s.ctx c).st = .ending && s.ctxQuiet c then
      let prev := (s.ctx c).endPrev
      let s := (s.ctx c).jend.foldl (fun t j => t.jset j 2 0) s
      let ks := (s.disp.kernels.filter fun e => e.2.ctx == c).map Prod.fst
      let t : State := { s with
        ctxs := Tbl.del s.ctxs c
        groups := s.groups.filter fun e => !ks.contains e.2.kernel
        pod := { s.pod with users := s.pod.users.filter fun u => u.2 != c }
        disp := { s.disp with
          queues := s.disp.queues.filter fun e => e.2.ctx != some c
          kernels := s.disp.kernels.filter fun e => e.2.ctx != c
          slices := s.disp.slices.filter fun e => !ks.contains (e.1 / 16)
          pool := (s.disp.kernels.filter fun e => e.2.ctx == c).foldl (fun n e => n - e.2.poolBytes) s.disp.pool
          installs := s.disp.installs.filter fun x => x.ctx != c } }
      t.groups.foldl (fun t g => g.2.waves.foldl (fun t w => w.2.splits.foldl (fun t p =>
        match p.2.block with
        | .ctxEnd d x =>
          if x = c then
            (t.modWave g.1 w.1 fun W => W.finalS d (BitVec.ofNat 64 prev)).modSplit g.1 w.1 p.1 fun p => { p with block := .none }
          else t
        | .none | .fwait _ _ | .dusk _ | .bar _ _ | .barArrive _ _ | .dbar | .mbx | .fqDone _ _ _ _ | .tlbinv _ _
        | .tlbSend _ _ _ _ _ | .snap _ _ | .page _ _ | .pageFull => t) t) t) t
    else s)

/-! ## Pre-emption points (R85-R87) -/

/-- The operations that R86 settles are settled. -/
def State.settled (s : State) (g : Nat) : Bool :=
  let x := s.group g
  let c := s.core x.unit
  (x.waves.all fun w => w.2.results.isEmpty) && (s.memory.writes.all fun y => y.group != g || y.engine || y.held || y.performedAt 4) &&
  (c.mxq.all fun o => o.group != g) && c.drains.all fun o => o.group != g

def Block.isPage (b : Block) : Bool :=
  match b with
  | .page _ _ => true
  | .pageFull => true
  | .none | .fwait _ _ | .dusk _ | .bar _ _ | .barArrive _ _ | .dbar | .mbx | .ctxEnd _ _ | .fqDone _ _ _ _ | .tlbinv _ _
  | .tlbSend _ _ _ _ _ | .snap _ _ => false

/-- The splits of a group that wait in the fault queue are saved before their instructions, and fault again on resume (R263). -/
def State.unpage (s : State) (g : Nat) : State :=
  let t := s.fqDrop fun w =>
    match w with
    | .split h _ _ => h == g
    | .copy _ _ => false
    | .write _ => false
    | .version _ _ _ => false
  t.modGroup g fun x => { x with waves := Tbl.mapVals x.waves fun w => { w with
    splits := Tbl.mapVals w.splits fun p => if p.block.isPage then { p with block := .none } else p } }

/-- PREEMPTION_POINT: a group that is to be pre-empted is saved. -/
def execPreemptionPoint (g : Nat) (s : State) : Out :=
  .next (
    let x := s.group g
    if x.isPlaced && x.preempt == .now && s.settled g then
      let t := s.modCore x.unit fun c => { c with
        portWait := c.portWait.filter fun o => o.1 != g
        portWork := c.portWork.filter fun h => h != g
        mxHolder := if (c.mxHolder.map Prod.fst) = some g then none else c.mxHolder
        actHolder := if c.actHolder = some g then none else c.actHolder
        tapHolder := if c.tapHolder = some g then none else c.tapHolder }
      ((t.fresh.unpage g).modGroup g fun y => { y with
        place := .saved
        preempt := .no
        savedOrder := s.nextId
        waves := Tbl.mapVals y.waves fun w => { w with inflight := [] } }).settleSuspend (s.ctxOf g)
    else s)

end Sys2Proof.Machine
end

