-- ==== Sys2Proof/Machine/Lease.lean ====
section
/-! DEFINITION. Leases of cores, lane groups and channels (R290-R294), capacity notices (R296), scores after a lease (R298), snuff
records (R299), monitors (R303). -/

namespace Sys2Proof.Machine

/-! ## Classes and limits (R289, R290) -/

/-- 0 a core, 1 a lane group, 2 an H-memory channel; none: a unit that is never leased. -/
def leaseClass (u : Nat) : Option Nat :=
  if isUnit u then some 0
  else if 0x200 ≤ u ∧ u < 0x224 then some 1
  else if 0x400 ≤ u ∧ u < 0x600 then some 2
  else none

/-- The period of a class in ns. -/
def leasePeriod (cls : Nat) : Nat :=
  3600000000000 * (if cls = 0 then 4 else if cls = 1 then 1 else 24)

/-- Units of a class under lease that meet a condition. -/
def State.leasedWhere (s : State) (p : Nat → Bool) : Nat :=
  (s.lamp.units.filter fun e => e.2.leased && p e.1).length

/-- Another channel of the stack holds its spare. -/
def State.spareTaken (s : State) (u : Nat) : Bool :=
  s.lamp.units.any fun e => e.1 != u && e.1 / 32 == u / 32 && leaseClass e.1 == some 2 && e.2.onSpare

/-- The limits of R290 leave room for a lease of a unit. -/
def State.leaseRoom (s : State) (u : Nat) : Bool :=
  match leaseClass u with
  | none => false
  | some 0 =>
    s.leasedWhere (fun v => isUnit v && v / 4 == u / 4) < 1 && s.leasedWhere (fun v => isUnit v && v / 64 == u / 64) < 2 &&
    s.leasedWhere isUnit < 8
  | some 1 => s.leasedWhere (fun v => leaseClass v == some 1 && (v - 0x200) / 6 == (u - 0x200) / 6) < 1
  | some _ => s.leasedWhere (fun v => leaseClass v == some 2 && v / 32 == u / 32) < 1 && !s.spareTaken u

/-- A unit in service whose lease is due or brought forward, or one that a command reinstates, within the limits. -/
def State.mayLease (s : State) (u : Nat) : Bool :=
  let x := s.unit u
  ((x.inService && (x.forward || x.due ≤ s.now)) || (x.st == .retired && x.reinstating)) && s.leaseRoom u

/-- The unit's lease is brought forward, now or after a quarter of its period (R298). -/
def LUnit.brought (x : LUnit) : Bool := x.forward || x.early

/-- Unit `a` is leased before unit `b`. -/
def State.leaseFirst (s : State) (a b : Nat) : Bool :=
  let x := s.unit a
  let y := s.unit b
  if x.brought then !y.brought || y.score < x.score else !y.brought && x.due < y.due

def leaseUnits : List Nat := (List.range 0x600).filter fun u => (leaseClass u).isSome

/-! ## Capacity notices (R296) -/

/-- The generation rises, and the notices of an event are posted. -/
def State.capacityEvent (s : State) (u ev : Nat) : State :=
  let t : State := { s with lamp := { s.lamp with gen := s.lamp.gen + 1 } }
  let detail := ev + 256 * (t.lamp.gen.toNat % 2 ^ 24)
  (List.range 64).foldl (fun t c =>
    if (t.ctx c).isLive && (!isUnit u || (t.partition c).contains u) then t.postNotice c 0x80 u detail else t) t

/-! ## Withdrawal (R291, R292) -/

/-- Groups that stand on a core. -/
def State.groupsOn (s : State) (u : Nat) : List (Nat × Group) := s.groups.filter fun e => e.2.isPlaced && e.2.unit == u

/-- A gang of a core under withdrawal is pre-empted at its next points. -/
def State.preemptGangs (s : State) (gs : List (Nat × Group)) : State :=
  { s with groups := Tbl.mapVals s.groups fun x =>
      if x.isPlaced && gs.any (fun e => e.2.kernel == x.kernel && e.2.gang == x.gang) then { x with preempt := .now } else x }

/-- A group stands at a barrier wait. -/
def Group.atPoint (x : Group) : Bool :=
  x.waves.any fun w => w.2.splits.any fun p => p.2.block.atBarrier

/-- A core's withdrawal begins: its groups' gangs are pre-empted at YIELD or a barrier wait; those at a wait already, now. -/
def State.withdraw (s : State) (u : Nat) : State :=
  let t := s.modUnit u fun x => { x with st := .withdrawing, since := s.now, forward := false, early := false, firstBad := 0 }
  let t := t.capacityEvent u 1
  let t : State := { t with groups := Tbl.mapVals t.groups fun x =>
    if x.isPlaced && x.unit == u && x.preempt == .no then { x with preempt := .atYield } else x }
  t.preemptGangs ((t.groupsOn u).filter fun e => e.2.atPoint)

/-- A lease begins. -/
def State.startLease (s : State) (u : Nat) : State :=
  match leaseClass u with
  | none => s
  | some 0 => s.withdraw u
  | some 1 =>
    let k := (u - 0x200) / 2
    let t := s.modUnit u fun x => { x with st := .testing, since := s.now, forward := false, early := false, firstBad := 0 }
    let t := t.capacityEvent u 1
    match (s.link k).st with
    | .up => t.setLink k { s.link k with st := .degraded }
    | .retrying _ => t.setLink k { s.link k with st := .retrying false }
    | .down => t
    | .degraded => t
    | .training => t
  | some _ =>
    (s.modUnit u fun x => { x with
      st := if x.onSpare then .testing else .withdrawing
      copying := if x.onSpare then 0 else 1
      since := s.now, forward := false, early := false, firstBad := 0 }).capacityEvent u 1

/-- LEASE_START: of the unit that comes first among those that may be leased. -/
def execLeaseStart (unit : Nat) (s : State) : Out :=
  .next (
    if s.boot.isReady && s.mayLease unit && leaseUnits.all fun v => !s.mayLease v || !s.leaseFirst v unit then s.startLease unit
    else s)

/-- WITHDRAWAL_DEADLINE: 500 µs after the notice every group still on the core is pre-empted at its next point. -/
def execWithdrawalDeadline (unit : Nat) (s : State) : Out :=
  .next (
    let x := s.unit unit
    if isUnit unit ∧ x.st = .withdrawing ∧ s.passed x.since 500000 then
      s.preemptGangs (s.groupsOn unit)
    else s)

/-- TESTING_START: no group remains on the core, and its dusk hold is empty (R252). -/
def execTestingStart (unit : Nat) (s : State) : Out :=
  .next (
    if isUnit unit ∧ (s.unit unit).st = .withdrawing ∧ (s.groupsOn unit).isEmpty ∧ (s.core unit).hold.isEmpty then
      s.modUnit unit fun x => { x with st := .testing, since := s.now }
    else s)

/-! ## The end of a lease (R291, R297-R299) -/

/-- A snuff record (R299). -/
def State.snuff (s : State) (u cause first second : Nat) (back : Bool) : State :=
  let r : Snuff :=
    { lo := s.time.lo, unit := u, cls := (leaseClass u).getD 0, cause := cause, score := (s.unit u).score, reinstates := back
      first := first, second := second, hours := s.hours }
  { s with flash := { s.flash with snuffs := s.flash.snuffs ++ [r] } }

/-- The unit returns; its score is halved, and decides when the next lease is due (R298): after a quarter of the period it comes
before every merely due one, where the score is still 1,024 or more. A unit that a command reinstates has its record from
then on (R291, R299, log 53). -/
def State.returnUnit (s : State) (u : Nat) : State :=
  let s := if (s.unit u).reinstating then s.snuff u 0x02 0 0 true else s
  let t := (s.modUnit u fun x => { x with st := .inService, since := s.now, reinstating := false }).capacityEvent u 2
  t.modUnit u fun x =>
    let sc := x.score / 2
    let p := leasePeriod ((leaseClass u).getD 0)
    { x with score := sc, early := 1024 ≤ sc, forward := false, due := s.now + (if 1024 ≤ sc then p / 4 else p) }

/-- A unit is retired: its record, the notices of event 3, and the lifetime counters (R304). A channel's spare keeps its lines
(R294); a link without lane groups goes down (R293). -/
def State.retireUnit (s : State) (u cause first second : Nat) : State :=
  let t := s.modUnit u fun x => { x with
    st := .retired, since := s.now, forward := false, reinstating := false
    onSpare := x.onSpare || (leaseClass u == some 2 && !s.spareTaken u) }
  let t := (t.snuff u cause first second false).capacityEvent u 3
  let t : State := ({ t with lamp := { t.lamp with retirements := t.lamp.retirements + 1 } } : State).writeLifetime
  if leaseClass u = some 1 then t.settleLanes ((u - 0x200) / 2) else t

/-- A test fails: the first time it is repeated, the second time the unit is retired. -/
def State.testFails (s : State) (u pattern : Nat) : State :=
  match (s.unit u).st with
  | .testing => (s.flicker u 4096).modUnit u fun x => { x with st := .retesting, since := s.now, firstBad := pattern }
  | .retesting => (s.flicker u 4096).retireUnit u 0x01 (s.unit u).firstBad pattern
  | .inService => s
  | .withdrawing => s
  | .retired => s

def LUnit.underTest (x : LUnit) : Bool := (x.st == .testing || x.st == .retesting) && x.copying == 0

/-- PATTERN_PASS: every pattern has passed. A core returns within 30 ms; a channel's lines are copied back first. -/
def execPatternPass (unit : Nat) (s : State) : Out :=
  .next (
    let x := s.unit unit
    if !x.underTest then s
    else
      match leaseClass unit with
      | some 0 => if s.passed x.since 30000000 then s else s.returnUnit unit
      | some 2 => s.modUnit unit fun x => { x with copying := 2 }
      | _ => s)

/-- PATTERN_MISMATCH. -/
def execPatternMismatch (unit pattern : Nat) (s : State) : Out :=
  .next (
    match leaseClass unit with
    | some 0 => if (s.unit unit).underTest then s.testFails unit pattern else s
    | some 2 => if (s.unit unit).underTest then s.testFails unit pattern else s
    | _ => s)

/-- TEST_TIMEOUT: 30 ms pass in a core's test. -/
def execTestTimeout (unit : Nat) (s : State) : Out :=
  .next (
    if isUnit unit && (s.unit unit).underTest && s.passed (s.unit unit).since 30000000 then s.testFails unit 0 else s)

/-- LANE_GROUP_TEST_END: 2 ms of patterns end; `pattern` is the first that mismatched, or 0 (R293). -/
def execLaneGroupTestEnd (unit pattern : Nat) (s : State) : Out :=
  .next (
    let x := s.unit unit
    let k := (unit - 0x200) / 2
    if leaseClass unit ≠ some 1 ∨ !x.underTest ∨ !s.passed x.since 2000000 then s
    else if pattern = 0 then
      let t := s.returnUnit unit
      match (t.link k).st with
      | .degraded => t.setLink k { t.link k with st := t.linkUp k }
      | .retrying _ => t.setLink k { t.link k with st := .retrying (t.linkUp k == .up) }
      | .training => t | .up => t | .down => t
    else s.testFails unit pattern)

/-- CHANNEL_COPY_END: the copy to the spare, or back from it, is complete, and service moves (R294). -/
def execChannelCopyEnd (unit : Nat) (s : State) : Out :=
  .next (
    let x := s.unit unit
    if leaseClass unit ≠ some 2 then s
    else if x.copying = 1 then s.modUnit unit fun x => { x with copying := 0, onSpare := true, st := .testing, since := s.now }
    else if x.copying = 2 then (s.modUnit unit fun x => { x with copying := 0, onSpare := false }).returnUnit unit
    else s)

/-! ## Monitors (R303) -/

/-- The bin of a sample. -/
def sampleBin (x : Nat) : Nat := if x = 0 then 0 else min (Nat.log2 x + 1) 15

def Monitor.add (m : Monitor) (x : Nat) : Monitor :=
  { lo := some (match m.lo with
      | some l => min l x
      | none => x)
    hi := max m.hi x
    bins := m.bins.zipIdx.map fun p => if p.2 = sampleBin x then min (p.1 + 1) (2 ^ 32 - 1) else p.1 }

/-- First indices of the rows: dies, rails, ε, cores, links, stacks and devices. -/
def monitorRows : List Nat :=
  [0, 8, 8 + Config.rails, 9 + Config.rails, 457 + Config.rails, 475 + Config.rails]

def monitorCount : Nat := 523 + Config.rails

/-- Corrections of a stack's channels, or of a device, since power-on. -/
def State.corrections (s : State) (i : Nat) : Nat :=
  let n (u : Nat) : Nat := (s.unit u).corr1 + (s.unit u).corr16
  if i < 16 then (List.range 32).foldl (fun t c => t + n (0x400 + 32 * i + c)) 0 else n (0x600 + (i - 16))

/-- The samples of every point: sensors of the dies and the rails come with the event. -/
def State.samples (s : State) (sensors : List Nat) : List Nat :=
  (List.range (8 + Config.rails)).map (fun i => sensors.getD i 0) ++
  [if s.time.tclk.isDark then 0xFFFF else s.time.eps] ++
  allUnits.map (fun u => (s.core u).hold.length) ++
  (List.range 18).map (fun l => (s.link l).retriesSampled) ++
  (List.range 48).map (fun i => s.corrections i - Tbl.getD s.lamp.corrSeen i 0)

/-- MONITOR_SAMPLE: one sample of each point, every 1 ms. -/
def execMonitorSample (sensors : List Nat) (s : State) : Out :=
  .next (
    let xs := s.samples sensors
    let seen := (List.range 48).map fun i => (i, s.corrections i)
    let t : State := { s with
      lamp := { s.lamp with
        monitors := xs.zipIdx.map fun p => (p.2, (Tbl.getD s.lamp.monitors p.2 {}).add p.1)
        corrSeen := seen }
      pod := { s.pod with links := Tbl.mapVals s.pod.links fun l => { l with retriesSampled := 0 } } }
    (List.range 8).foldl (fun t d => if d < sensors.length then t.excursionAt d (sensors.getD d 0) else t) t)

/-- LIFETIME_COUNTER_WRITE (R304). -/
def execLifetimeCounterWrite (s : State) : Out := .next s.writeLifetime

/-! ## Heat (R324) -/

/-- A reading of a die's hottest sensor, and of the module's power. -/
def State.heatAt (s : State) (die eighths deciwatts : Nat) : State :=
  let t := if die < 8 then s.excursionAt die eighths else s
  if 43200 < deciwatts then { t with lamp := { t.lamp with heavy := t.now } } else t

/-- THERMAL_STEP_DOWN: the hottest die's sensor exceeds 105 °C, or the module draws more than 4.8 kW: one step down. -/
def execThermalStepDown (die eighths deciwatts : Nat) (s : State) : Out :=
  .next (
    let t := s.heatAt die eighths deciwatts
    if 8 ≤ die ∨ (eighths ≤ 840 ∧ deciwatts ≤ 48000) then t
    else
      let u : State := { t with lamp := { t.lamp with hot := if t.lamp.hot.contains die then t.lamp.hot else t.lamp.hot ++ [die] } }
      u.stepClock die (if (t.die die).mhz = 1900 then 1500 else 1200))

/-- For 1 s every reading of the die's sensor has stood 10 °C under its limit, and every one of the module's power 10 % under 4.8 kW:
those of MONITOR_SAMPLE, THERMAL_STEP_DOWN and THERMAL_STEP_UP, and the one that the event brings. -/
def State.cooled (s : State) (x : HeatReading) : Bool :=
  x.eighths ≤ 760 && x.deciwatts ≤ 43200 && s.passed (Tbl.getD s.lamp.warm x.die 0) 1000000000 && s.passed s.lamp.heavy 1000000000

/-- THERMAL_STEP_UP: a die that has been stepped down steps up once it has cooled. -/
def execThermalStepUp (x : HeatReading) (s : State) : Out :=
  .next (
    let t := s.heatAt x.die x.eighths x.deciwatts
    if s.lamp.hot.contains x.die && s.cooled x then
      let m := (t.die x.die).mhz
      let u : State := { t with lamp := { t.lamp with hot := if m = 1200 then t.lamp.hot else t.lamp.hot.filter fun d => d != x.die } }
      u.stepClock x.die (if m = 1200 then 1500 else 1900)
    else t)

end Sys2Proof.Machine
end

