-- ==== Sys2Proof/Machine/Pods.lean ====
section
/-! DEFINITION. Pod launches (R91-R93). -/

namespace Sys2Proof.Machine

/-! ## Messages (R91) -/

structure PodMsg where
  gen : Nat
  origin : Nat
  queue : Nat
  tenant : Nat
  members : Nat
  packet : List Byte
  time : Nat
  kind : Nat
  deriving DecidableEq, Repr

def PodMsg.toBytes (m : PodMsg) : List Byte :=
  natLE 4 m.gen ++ natLE 1 m.origin ++ natLE 1 m.queue ++ natLE 2 m.tenant ++ natLE 8 m.members ++ m.packet ++ natLE 8 m.time ++
  natLE 1 m.kind ++ natLE 7 0

/-- A message of 96 bytes; none where it is malformed. -/
def parsePod (b : List Byte) : Option PodMsg :=
  let m : PodMsg := ⟨fieldAt b 0 4, fieldAt b 4 1, fieldAt b 5 1, fieldAt b 6 2, fieldAt b 8 8, (b.drop 16).take 64, fieldAt b 80 8,
    fieldAt b 88 1⟩
  if b.length ≠ 96 ∨ m.gen = 0 ∨ 63 < m.origin ∨ !m.members.testBit m.origin ∨ !zerosAt b 89 7 ∨ bit (fieldAt b 30 1) 2 then none
  else some m

/-- The other modules that a message goes to: replies to the origin, the others to every member (R91-R93). -/
def PodMsg.receivers (m : PodMsg) (self : Nat) : List Nat :=
  (if m.kind = 2 ∨ m.kind = 3 then [m.origin] else (List.range 64).filter m.members.testBit).filter fun k => k != self

/-- A message leaves, in two flits for each of its receivers (R91, R279, R280). -/
def State.sendPod (s : State) (m : PodMsg) : State :=
  (m.receivers s.mod).foldl (fun t _ => t.putFlits 2) { s with host := { s.host with out := .pod m.toBytes :: s.host.out } }

/-! ## The journal's new entries (R80) -/

/-- A new entry takes the next sequence number and its slot of the ring. -/
def State.newEntry (s : State) (queue ctx kind st kernel : Nat) : State :=
  let n := s.host.seq
  let e : JEntry := { seq := n, lo := s.time.lo, queue := queue, ctx := ctx, kind := kind, st := st, kernel := kernel }
  { s with host := { s.host with seq := n + 1, ring := Tbl.set s.host.ring ((n - 1) % 32768) e } }

/-- The kernel identifier of an entry. -/
def State.jkernel (s : State) (seq k : Nat) : State :=
  match Tbl.get? s.host.ring ((seq - 1) % 32768) with
  | some e =>
    if e.seq = seq then { s with host := { s.host with ring := Tbl.set s.host.ring ((seq - 1) % 32768) { e with kernel := k } } } else s
  | none => s

/-! ## The members (R92, R93) -/

/-- The checks of a beacon: its queue's context, and the packet with its image. -/
def State.checkBeacon (s : State) (m : PodMsg) : Option (Nat × Packet × Image) :=
  match (s.queue m.queue).ctx with
  | none => none
  | some c =>
    if (s.ctx c).tenant ≠ m.tenant ∨ (s.ctx c).st = .ending ∨ 1024 ≤ s.queueLen m.queue then none
    else (s.readLaunch c m.packet).map fun r => (c, r.1, r.2)

/-- The reads of a beacon's checks meet stored errors (R13). -/
def State.touchBeacon (s : State) (m : PodMsg) : State :=
  match (s.queue m.queue).ctx with
  | some c => s.touchImage c (fieldAt m.packet 0 8)
  | none => s

/-- A newer beacon is accepted or refused. The time field of a refusal, and of an abort, is 0 (R91 gives none; DESIGN CHOICE, log 47). -/
def State.takeBeacon (s : State) (m : PodMsg) : State :=
  let seen := s.checkBeacon m
  let s := s.touchBeacon m
  match seen with
  | none => s.sendPod { m with kind := 3, time := 0 }
  | some (c, p, i) =>
    let hi := s.time.hi
    let own := s.disp.origins.find? fun o => o.queue == m.queue && o.gen == m.gen && m.origin == s.mod
    let t : State := { s with flash := { s.flash with gLast := Tbl.set s.flash.gLast m.queue (m.gen, m.origin, hi) } }
    let r : State × Nat := match own with
      | some o => (t, o.jseq)
      | none => (t.newEntry m.queue c 2 0 0, t.host.seq)
    let a := r.1.accept c m.queue p i m.gen r.2
      (some { gen := m.gen, origin := m.origin, members := m.members, ackAt := s.now }) []
    (a.1.jkernel r.2 a.2).sendPod { m with kind := 2, time := hi }

/-- POD_LAUNCH_BEACON: newer, a repeat, or stale (R92). -/
def execPodLaunchBeacon (msg : List Byte) (s : State) : Out :=
  .next (
    match parsePod msg with
    | none => s
    | some m =>
      if m.kind ≠ 1 ∨ m.time ≠ 0 ∨ !m.members.testBit s.mod ∨ !s.boot.isReady then s
      else
        match Tbl.get? s.flash.gLast m.queue with
        | none => s.takeBeacon m
        | some (g, o, hi) =>
          let d := (m.gen + 2 ^ 32 - g) % 2 ^ 32
          if 1 ≤ d ∧ d < 2 ^ 31 then s.takeBeacon m
          else if d = 0 ∧ o = m.origin then s.sendPod { m with kind := 2, time := hi }
          else s)

/-- The armed kernel that a message names. -/
def State.armedFor (s : State) (m : PodMsg) : Option Nat :=
  (s.disp.kernels.find? fun e => e.2.st == .armed && e.2.queue == m.queue && e.2.gen == m.gen &&
    (match e.2.pod with
     | some p => p.origin == m.origin
     | none => false)).map Prod.fst

/-- An armed kernel fails before it runs: its entry is failed, its dependants fail. -/
def State.failArmed (s : State) (k code : Nat) : State :=
  let K := s.kernel k
  if K.st = .armed then
    (((s.modKernel k fun x => { x with st := .failed, code := code, noGroups := true }).jset K.jseq 3 code).failDependants k).freeBitmaps.settleInstalls
  else s

/-- POD_LAUNCH_START: the start time T_s has come. -/
def execPodLaunchStart (msg : List Byte) (s : State) : Out :=
  .next (
    match parsePod msg with
    | none => s
    | some m =>
      match (if m.kind = 4 then s.armedFor m else none) with
      | none => s
      | some k => s.modKernel k fun x => { x with pod := x.pod.map fun p =>
          if p.startT.isSome then p else { p with startT := some m.time, startAt := s.now, attested := false } })

/-- POD_LAUNCH_ABORT. -/
def execPodLaunchAbort (msg : List Byte) (s : State) : Out :=
  .next (
    match parsePod msg with
    | none => s
    | some m =>
      match (if m.kind = 5 then s.armedFor m else none) with
      | none => s
      | some k => s.failArmed k 0)

/-- START_TIMEOUT: no start message within 1 ms of the acknowledgement. -/
def execStartTimeout (k : Nat) (s : State) : Out :=
  .next (
    match (s.kernel k).pod with
    | none => s
    | some p => if p.startT.isNone && s.passed p.ackAt 1000000 then s.failArmed k cTimeout else s)

/-- DARK_START_TIMEOUT: the clock is dark, and no attestation has come within 1 ms of the start message. -/
def execDarkStartTimeout (k : Nat) (s : State) : Out :=
  .next (
    match (s.kernel k).pod with
    | none => s
    | some p =>
      if p.startT.isSome && s.time.tclk.isDark && !p.attested && s.passed p.startAt 1000000 then s.failArmed k cDark else s)

/-- A place among a queue's commands in the order of acceptance. -/
def insertCmd (k : Nat) : List Nat → List Nat
  | [] => [k]
  | j :: r => if k < j then k :: j :: r else j :: insertCmd k r

/-- ARMED_KERNEL_START: lo exceeds T_s; the kernel takes its place in its queue, which stops being ready where it comes first and waits
(R69, R75). -/
def execArmedKernelStart (k : Nat) (s : State) : Out :=
  .next (
    let K := s.kernel k
    match K.pod with
    | none => s
    | some p =>
      match p.startT with
      | none => s
      | some t =>
        if K.st = .armed ∧ t < s.time.lo then
          ((s.modKernel k fun x => { x with st := .queued }).modQueue K.queue fun q => { q with cmds := insertCmd k q.cmds }).settlePass K.queue
        else s)

/-! ## The origin (R93) -/

def State.originOf (s : State) (m : PodMsg) : Option PodOrigin :=
  if m.origin = s.mod then s.disp.origins.find? fun o => o.queue == m.queue && o.gen == m.gen else none

def State.dropOrigin (s : State) (o : PodOrigin) : State :=
  { s with disp := { s.disp with origins := s.disp.origins.filter fun x => !(x.queue == o.queue && x.gen == o.gen) } }

/-- The message of an origin. -/
def State.originMsg (s : State) (o : PodOrigin) (kind time : Nat) : PodMsg :=
  ⟨o.gen, s.mod, o.queue, o.tenant, o.members, o.packet, time, kind⟩

/-- POD_LAUNCH_ACKNOWLEDGEMENT: with the last one T_s is fixed and the start message leaves. -/
def execPodLaunchAcknowledgement (src : Fin 64) (msg : List Byte) (s : State) : Out :=
  .next (
    match parsePod msg with
    | none => s
    | some m =>
      match (if m.kind = 2 ∧ m.members.testBit src.val then s.originOf m else none) with
      | none => s
      | some o =>
        let acks := Tbl.set o.acks src.val m.time
        if (List.range 64).all fun i => !o.members.testBit i || Tbl.has acks i then
          let t := min (acks.foldl (fun b a => max b a.2) 0 + 2000) (2 ^ 64 - 1)
          (s.dropOrigin o).sendPod (s.originMsg o 4 t)
        else { s with disp := { s.disp with origins := s.disp.origins.map fun x =>
          if x.queue = o.queue ∧ x.gen = o.gen then { x with acks := acks } else x } })

/-- POD_LAUNCH_REFUSAL: the origin aborts; its entry is refused. -/
def execPodLaunchRefusal (src : Fin 64) (msg : List Byte) (s : State) : Out :=
  .next (
    match parsePod msg with
    | none => s
    | some m =>
      match (if m.kind = 3 ∧ m.members.testBit src.val then s.originOf m else none) with
      | none => s
      | some o => ((s.dropOrigin o).jset o.jseq 4 0).sendPod (s.originMsg o 5 0))

/-- ACKNOWLEDGEMENT_TIMEOUT: some member has not acknowledged within 200 µs. -/
def execAcknowledgementTimeout (q : Nat) (s : State) : Out :=
  .next (
    match s.disp.origins.find? fun o => o.queue == q && s.passed o.since 200000 with
    | none => s
    | some o => ((s.dropOrigin o).jset o.jseq 3 cTimeout).sendPod (s.originMsg o 5 0))

end Sys2Proof.Machine
end

