-- ==== Sys2Proof/Machine/HostCmd.lean ====
section
/-! DEFINITION. Host messages (R329), commands (R330), the journal (R80, R81, R331), management requests (R331), attestation
(R327) and the ports (R328). -/

namespace Sys2Proof.Machine

/-! ## Messages (R329) -/

structure HostMsg where
  cls : Nat
  kind : Nat
  tag : Nat
  key : Nat
  counter : Nat
  body : List Byte
  deriving DecidableEq, Repr

/-- A datagram with a well-formed header. -/
def parseHost (dg : List Byte) : Option HostMsg :=
  let n := fieldAt dg 4 4
  if fieldAt dg 0 2 ≠ 1 ∨ dg.length ≠ 64 + n ∨ 8128 < n ∨ 15 < fieldAt dg 16 1 ∨ !zerosAt dg 17 7 then none
  else some ⟨fieldAt dg 2 1, fieldAt dg 3 1, fieldAt dg 8 8, fieldAt dg 16 1, fieldAt dg 24 8, dg.drop 64⟩

/-- A counter of a key, 0 where it has none yet. Counters belong to the key itself, whichever index holds it (R329). -/
def ctrOf (l : List (List Byte × Nat)) (k : List Byte) : Nat :=
  match l.find? fun e => e.1 == k with
  | some e => e.2
  | none => 0

def setCtr (l : List (List Byte × Nat)) (k : List Byte) (n : Nat) : List (List Byte × Nat) := (k, n) :: l.filter fun e => e.1 != k

/-- The key of an index, the last counter accepted for it, and the module's own counter for it. -/
def State.keyAt (s : State) (i : Nat) : List Byte := Tbl.getD s.host.keys i []
def State.lastCounter (s : State) (i : Nat) : Nat := ctrOf s.host.lastCtr (s.keyAt i)
def State.ownCounter (s : State) (i : Nat) : Nat := ctrOf s.host.replyCtr (s.keyAt i)

/-- The datagram is from the holder of an installed key, and is newer than any accepted with it. -/
def State.authentic (s : State) (dg : List Byte) (m : HostMsg) : Bool :=
  match Tbl.get? s.host.keys m.key with
  | none => false
  | some k => natLE 32 (Config.kmac k (dg.take 32 ++ m.body)).toNat == (dg.drop 32).take 32 && s.lastCounter m.key < m.counter

/-- The port that carries traffic for a port: itself, or the other one where it has failed (R328). -/
def State.portFor (s : State) (p : Nat) : Nat := if s.host.portsUp.toList.getD p false then p else 1 - p

/-- A reply (R329). -/
def State.reply (s : State) (port key cls kind tag : Nat) (body : List Byte) : State :=
  let n := s.ownCounter key + 1
  let head := natLE 2 1 ++ natLE 1 cls ++ natLE 1 kind ++ natLE 4 body.length ++ natLE 8 tag ++ natLE 1 key ++ natLE 7 0 ++ natLE 8 n
  let auth := natLE 32 (Config.kmac (s.keyAt key) (head ++ body)).toNat
  { s with host := { s.host with
    replyCtr := setCtr s.host.replyCtr (s.keyAt key) n
    out := .host (s.portFor port) (head ++ auth ++ body) :: s.host.out } }

/-- A message of a class and of the event's kinds is taken: its counter becomes the key's last; anything else is dropped. The class says
which UDP port it came to: 47,000, or 47,001 for management requests (R328; DESIGN CHOICE, log 25). -/
def State.receive (s : State) (port : Fin 2) (cls : Nat) (kinds : Nat → Bool) (dg : List Byte) (k : HostMsg → State → State) : State :=
  match parseHost dg with
  | none => s
  | some m =>
    if m.cls ≠ cls ∨ !kinds m.kind ∨ !s.boot.powered ∨ !s.host.portsUp.toList.getD port.val false ∨ !s.authentic dg m then s
    else k m { s with host := { s.host with lastCtr := setCtr s.host.lastCtr (s.keyAt m.key) m.counter } }

/-! ## Commands (R80, R81, R330) -/

/-- What a command answers: refusal reason, the entry's state, queue, context and kernel, the reply's value. -/
structure Answer where
  reason : Nat := 0
  st : Nat := 0
  queue : Nat := 0xFFFF
  ctx : Nat := 0xFF
  kernel : Nat := 0
  value : Nat := 0
  deriving DecidableEq, Repr

def refuse (reason queue ctx : Nat) : Answer := { reason := reason, st := 4, queue := queue, ctx := ctx }

/-- The queue that a command names (R80, R330); 0xFFFF where none applies, or the body is too short to name one. -/
def namedQueue (kind : Nat) (b : List Byte) : Nat :=
  if (kind = 1 ∨ kind = 2 ∨ kind = 3 ∨ kind = 8) ∧ 2 ≤ b.length then fieldAt b 0 2 else 0xFFFF

/-- The context id that a command names; 0xFF where it names none. -/
def namedCtx (kind : Nat) (b : List Byte) : Nat :=
  if (kind = 5 ∨ kind = 6 ∨ kind = 7) ∧ 1 ≤ b.length ∧ fieldAt b 0 1 ≤ 63 then fieldAt b 0 1 else 0xFF

/-- A command is refused before its queue or its context is looked at: the entry's context is that which it names itself (DESIGN CHOICE,
log 75). -/
def refuseBody (reason kind : Nat) (b : List Byte) : Answer := refuse reason (namedQueue kind b) (namedCtx kind b)

def State.entry (s : State) (seq : Nat) : Option JEntry :=
  match Tbl.get? s.host.ring ((seq - 1) % 32768) with
  | some e => if e.seq = seq then some e else none
  | none => none

/-- The body of a command's reply: the entry's state when it is sent; a launch's identifier from its entry. -/
def State.replyBody (s : State) (r : Recent) : List Byte :=
  let e := s.entry r.seq
  let st := match e with
    | some e => e.st
    | none => 0
  let v := match e with
    | some e => if r.kind = 1 ∨ r.kind = 2 then e.kernel else r.value
    | none => r.value
  natLE 8 r.seq ++ natLE 1 st ++ natLE 1 r.reason ++ natLE 6 0 ++ natLE 8 v ++ natLE 8 0

def State.sendReply (s : State) (r : Recent) : State := s.reply r.port r.key 0x81 r.kind r.tag (s.replyBody r)

/-- Every byte of the body outside the listed fields is zero, and the listed fields are there. -/
def layout (b : List Byte) (n : Nat) (gaps : List (Nat × Nat)) : Bool :=
  n ≤ b.length && (gaps.all fun g => zerosAt b g.1 g.2) && zerosAt b n (b.length - n)

/-- The kinds that R80 gives commands. -/
def isCommand (k : Nat) : Bool := 1 ≤ k && k ≤ 10

/-- A command: a repeat receives the first one's reply; any other takes a sequence number, is executed and journalled, and its
reply waits for the persistent copy. One of a kind that R80 does not list has no event of its own: it comes with any command's event,
and is refused as malformed (DESIGN CHOICE, log 25). -/
def State.command (s : State) (port : Fin 2) (kind : Nat) (dg : List Byte) (k : List Byte → Nat → State → State × Answer) : State :=
  s.receive port 1 (fun x => x == kind || !isCommand x) dg fun m s =>
    match s.host.recent.find? fun r => r.key == m.key && r.tag == m.tag with
    | some r => if r.sent then s.sendReply { r with port := port.val } else s
    | none =>
      let n := s.host.seq
      let lo := s.time.lo
      let start : State := s.newEntry 0xFFFF 0xFF m.kind 0 0
      let r : State × Answer :=
        if !s.boot.isReady then (start, refuseBody 1 m.kind m.body)
        else if isCommand m.kind then k m.body n start
        else (start, refuseBody 3 m.kind m.body)
      let a := r.2
      let e := (r.1.entry n).getD { seq := n, lo := lo, queue := 0xFFFF, ctx := 0xFF, kind := m.kind, st := 0 }
      let e := { e with queue := a.queue, ctx := a.ctx, kernel := if e.kernel = 0 then a.kernel else e.kernel, st := max e.st a.st }
      let t := r.1
      { t with host := { t.host with
        ring := Tbl.set t.host.ring ((n - 1) % 32768) e
        recent := ({ port := port.val, key := m.key, tag := m.tag, kind := m.kind, seq := n, reason := a.reason, value := a.value } ::
          t.host.recent).take 4096 } }

/-- The context that a queue is bound to and takes commands of. -/
def State.boundCtx (s : State) (q : Nat) : Option Nat :=
  if 256 ≤ q then none
  else
    match (s.queue q).ctx with
    | none => none
    | some c => if (s.ctx c).st = .ending then none else some c

/-- HOST_LAUNCH. -/
def execHostLaunch (port : Fin 2) (dg : List Byte) (s : State) : Out :=
  .next (s.command port 0x01 dg fun b n s =>
    let q := fieldAt b 0 2
    if !layout b 72 [(2, 6)] then (s, refuseBody 3 1 b)
    else
      match s.boundCtx q with
      | none => (s, refuse 2 q 0xFF)
      | some c =>
        let s := s.touchImage c (fieldAt b 8 8)
        match s.readLaunch c ((b.drop 8).take 64) with
        | none => (s, refuse 3 q c)
        | some (p, i) =>
          if 1024 ≤ s.queueLen q then (s, refuse 4 q c)
          else
            let r := s.accept c q p i 0 n none []
            (r.1, { queue := q, ctx := c, kernel := r.2, value := r.2 }))

/-- The next generation of an origin on a queue: after the last one it accepted there, and the last one it sent; 0 is none (R91-R93;
DESIGN CHOICE, log 24). -/
def Flash.nextGen (f : Flash) (q : Nat) : Nat :=
  let last := match Tbl.get? f.gLast q with
    | some g => g.1
    | none => 0
  let last := match Tbl.get? f.genSent q with
    | some n => if 1 ≤ (n + 2 ^ 32 - last) % 2 ^ 32 ∧ (n + 2 ^ 32 - last) % 2 ^ 32 < 2 ^ 31 then n else last
    | none => last
  if (last + 1) % 2 ^ 32 = 0 then 1 else (last + 1) % 2 ^ 32

/-- HOST_POD_LAUNCH: the origin sends the beacon, of a generation that it has not used. -/
def execHostPodLaunch (port : Fin 2) (dg : List Byte) (s : State) : Out :=
  .next (s.command port 0x02 dg fun b n s =>
    let q := fieldAt b 0 2
    let mask := fieldAt b 8 8
    let pk := (b.drop 16).take 64
    if !layout b 80 [(2, 6)] ∨ !mask.testBit s.mod ∨ bit (fieldAt pk 14 1) 2 ∨ (parsePacket pk).isNone then (s, refuseBody 3 2 b)
    else
      match s.boundCtx q with
      | none => (s, refuse 2 q 0xFF)
      | some c =>
        if 1024 ≤ s.queueLen q then (s, refuse 4 q c)
        else
          let gen := s.flash.nextGen q
          let o : PodOrigin := { queue := q, gen := gen, members := mask, since := s.now, jseq := n, packet := pk, tenant := (s.ctx c).tenant }
          let t : State := { s with
            disp := { s.disp with origins := s.disp.origins ++ [o] }
            flash := { s.flash with genSent := Tbl.set s.flash.genSent q gen } }
          (t.sendPod (t.originMsg o 1 0), { queue := q, ctx := c }))

/-- INSTALL_REPLACEMENT_IMAGE (R94). -/
def execInstallReplacementImage (port : Fin 2) (dg : List Byte) (s : State) : Out :=
  .next (s.command port 0x03 dg fun b n s =>
    let q := fieldAt b 0 2
    let old := fieldAt b 8 8
    let new := fieldAt b 16 8
    if !layout b 24 [(2, 6)] then (s, refuseBody 3 3 b)
    else
      match s.boundCtx q with
      | none => (s, refuse 2 q 0xFF)
      | some c =>
        let s := (s.touchImage c old).touchImage c new
        match s.readImage c old, s.readImage c new with
        | some a, some i =>
          if s.disp.installs.any fun x => x.queue == q && !x.complete then (s, refuse 6 q c)
          else if a.regs ≠ i.regs ∨ a.waves ≠ i.waves ∨ a.det ≠ i.det ∨ a.scratch < i.scratch then (s, refuse 3 q c)
          else
            let id := s.nextId
            let x : Install := { id := id, queue := q, ctx := c, old := old, img := i, jseq := n }
            let t : State := { s.fresh with disp := { s.disp with
              installs := s.disp.installs ++ [x]
              kernels := Tbl.mapVals s.disp.kernels fun k =>
                if k.queue = q ∧ k.pkt.code = old ∧ !k.st.isFinal then { k with install := some id, newImg := some i } else k } }
            (t.settleInstalls, { queue := q, ctx := c })
        | _, _ => (s, refuse 3 q c))

/-- CONTEXT_CREATE. -/
def execContextCreate (port : Fin 2) (dg : List Byte) (s : State) : Out :=
  .next (s.command port 0x04 dg fun b _ s =>
    if !layout b 64 [] then (s, refuse 3 0xFFFF 0xFF)
    else
      let r := s.newContext (b.take 64)
      if r.2 = -1 then (s, refuse 5 0xFFFF 0xFF)
      else if r.2 < 0 then (s, refuse 3 0xFFFF 0xFF)
      else (r.1, { st := 2, ctx := r.2.toNat, value := r.2.toNat }))

/-- A command on a context: one that is free, or that no id names, is refused as malformed (log 16). -/
def State.onCtx (s : State) (b : List Byte) (k : Nat → State → State × Answer) : State × Answer :=
  let c := fieldAt b 0 1
  if !layout b 1 [] ∨ 63 < c then (s, refuseBody 3 5 b) else if s.ctxFree c then (s, refuse 3 0xFFFF c) else k c s

/-- CONTEXT_SUSPEND: complete when every resident group is saved; without effect where the state does not permit it (R62). -/
def execContextSuspend (port : Fin 2) (dg : List Byte) (s : State) : Out :=
  .next (s.command port 0x05 dg fun b n s => s.onCtx b fun c s =>
    if (s.ctx c).isLive then
      ((((s.suspendCtx c).modCtx c fun x => { x with jsusp := x.jsusp ++ [n] }).settleSuspend c), { ctx := c })
    else (s, { st := 2, ctx := c }))

/-- CONTEXT_RESUME. -/
def execContextResume (port : Fin 2) (dg : List Byte) (s : State) : Out :=
  .next (s.command port 0x06 dg fun b _ s => s.onCtx b fun c s => (s.resumeCtx c, { st := 2, ctx := c }))

/-- CONTEXT_END: complete when the context is free. -/
def execContextEnd (port : Fin 2) (dg : List Byte) (s : State) : Out :=
  .next (s.command port 0x07 dg fun b n s => s.onCtx b fun c s =>
    ((s.endCtx c).modCtx c fun x => { x with jend := x.jend ++ [n] }, { ctx := c }))

/-- SET_QUEUE_PRIORITY. -/
def execSetQueuePriority (port : Fin 2) (dg : List Byte) (s : State) : Out :=
  .next (s.command port 0x08 dg fun b _ s =>
    let q := fieldAt b 0 2
    let p := fieldAt b 2 1
    if !layout b 3 [] ∨ 7 < p then (s, refuseBody 3 8 b)
    else
      match s.boundCtx q with
      | none => (s, refuse 2 q 0xFF)
      | some c => (s.modQueue q fun x => { x with prio := p }, { st := 2, queue := q, ctx := c }))

/-- The halted group that a command names; none is malformed (log 16), and its entry then names neither queue, context nor kernel (DESIGN
CHOICE, log 75). -/
def State.onHalted (s : State) (b : List Byte) (k : Nat → State → State) : State × Answer :=
  if !layout b 12 [] then (s, refuse 3 0xFFFF 0xFF)
  else
    let kn := fieldAt b 0 8
    let n := fieldAt b 8 4
    match s.groups.find? fun e => e.2.kernel == kn && e.2.lin == n && e.2.halted && !e.2.isEnded with
    | none => (s, refuse 3 0xFFFF 0xFF)
    | some e => (k e.1 s, { st := 2, queue := (s.kernel kn).queue, ctx := (s.kernel kn).ctx, kernel := kn })

/-- RESUME_HALTED_GROUP: the group may be placed again, and goes on after HALT. -/
def execResumeHaltedGroup (port : Fin 2) (dg : List Byte) (s : State) : Out :=
  .next (s.command port 0x09 dg fun b _ s => s.onHalted b fun g s => s.modGroup g fun x => { x with halted := false })

/-- A halted group ends, unsaved, and counts as exited (log 23). It sets no completion bit: what depends on it waits for the whole kernel
(R78; DESIGN CHOICE, log 81). -/
def State.endHalted (s : State) (g : Nat) : State :=
  let k := (s.group g).kernel
  ((s.stopGroup g).modGroup g fun x => { x with halted := false }).modKernel k fun K =>
    { K with exited := K.exited + 1, st := if K.st = .running ∧ K.exited + 1 = K.pkt.ngx * K.pkt.ngy then .retiring else K.st }

/-- END_HALTED_GROUP. -/
def execEndHaltedGroup (port : Fin 2) (dg : List Byte) (s : State) : Out :=
  .next (s.command port 0x0A dg fun b _ s => s.onHalted b fun g s => s.endHalted g)

/-- A journal with an entry written in its place, in ascending order of sequence numbers. -/
def putEntry (e : JEntry) : List JEntry → List JEntry
  | [] => [e]
  | x :: r => if e.seq < x.seq then e :: x :: r else if e.seq = x.seq then e :: r else x :: putEntry e r

/-- JOURNAL_PERSIST: an entry is written to the persistent copy, which holds the newest 4,096; with its first writing the command's
reply is sent (R81). -/
def execJournalPersist (n : Nat) (s : State) : Out :=
  .next (
    match s.entry n with
    | none => s
    | some e =>
      let j := putEntry e s.flash.journal
      let t : State := { s with flash := { s.flash with journal := j.drop (j.length - 4096) } }
      match t.host.recent.find? fun r => r.seq == n && !r.sent with
      | none => t
      | some r =>
        ({ t with host := { t.host with
          recent := t.host.recent.map fun x => if x.seq = n then { x with sent := true } else x } } : State).sendReply r)

/-! ## Journal reads (R331) -/

def JEntry.toBytes (e : JEntry) : List Byte :=
  natLE 8 e.seq ++ natLE 8 e.lo ++ natLE 2 e.queue ++ natLE 1 e.ctx ++ natLE 1 e.kind ++ natLE 1 e.st ++ natLE 1 e.code ++
  natLE 2 0 ++ natLE 8 e.kernel

/-- JOURNAL_READ. -/
def execJournalRead (port : Fin 2) (dg : List Byte) (s : State) : Out :=
  .next (s.receive port 2 (fun x => x == 0) dg fun m s =>
    let first := fieldAt m.body 0 8
    let n := fieldAt m.body 8 2
    if !layout m.body 10 [] ∨ m.body.length ≠ 16 ∨ n = 0 ∨ 253 < n then s
    else
      let seqs := s.host.ring.map fun e => e.2.seq
      let newest := seqs.foldl max 0
      let oldest := seqs.foldl min newest
      s.reply port.val m.key 0x82 0 m.tag (natLE 8 oldest ++ natLE 8 newest ++
        (List.range n).flatMap fun i =>
          match s.entry (first + i) with
          | some e => if first + i = 0 then [] else e.toBytes
          | none => []))

/-! ## Management requests (R331) -/

/-- The kinds that R331 gives management requests. -/
def isRequest (k : Nat) : Bool := 0x40 ≤ k && k ≤ 0x4A

/-- A request: keys 4-15 may send none. `k` answers the status and the data. One of a kind that R331 does not list comes with any
request's event, and is answered with -1 (DESIGN CHOICE, log 25). -/
def State.manage (s : State) (port : Fin 2) (kind : Nat) (dg : List Byte) (k : List Byte → State → State × Int × List Byte) : State :=
  s.receive port 3 (fun x => x == kind || !isRequest x) dg fun m s =>
    let r : State × Int × List Byte := if 3 < m.key then (s, -3, []) else if isRequest m.kind then k m.body s else (s, -1, [])
    r.1.reply port.val m.key 0x83 m.kind m.tag (natLE 8 (r.2.1 % 2 ^ 64).toNat ++ r.2.2)

def done (s : State) : State × Int × List Byte := (s, 0, [])
def badArg (s : State) : State × Int × List Byte := (s, -1, [])
def notNow (s : State) : State × Int × List Byte := (s, -2, [])

/-- RELEASE_SNAPSHOT (R270). -/
def execReleaseSnapshot (port : Fin 2) (dg : List Byte) (s : State) : Out :=
  .next (s.manage port 0x40 dg fun b s =>
    let c := fieldAt b 0 1
    let n := fieldAt b 1 1
    if !layout b 2 [] ∨ 63 < c ∨ 3 < n then badArg s
    else
      match Tbl.get? (s.ctx c).snaps n with
      | some x => if x.complete then done ((s.modCtx c fun y => { y with snaps := Tbl.del y.snaps n }).withdrawFar c n x) else notNow s
      | none => notNow s)

/-- Two windows share a line on some member. -/
def Window.meets (a b : Window) : Bool :=
  a.base < b.base + b.pages * 65536 && b.base < a.base + a.pages * 65536 &&
  (List.range 64).any fun m => a.members.testBit m && b.members.testBit m

/-- DEFINE_REDUCE_WINDOW (R285). -/
def execDefineReduceWindow (port : Fin 2) (dg : List Byte) (s : State) : Out :=
  .next (s.manage port 0x41 dg fun b s =>
    let n := fieldAt b 0 1
    let w : Window := ⟨fieldAt b 8 8, fieldAt b 6 2, fieldAt b 16 8, fieldAt b 1 1, fieldAt b 2 1, fieldAt b 4 2⟩
    if !layout b 24 [(3, 1)] ∨ 15 < n ∨ 5 < w.plane ∨ 2 < w.type ∨ w.tenant = 0 ∨ w.pages = 0 ∨ 256 < w.pages ∨ w.base % 65536 ≠ 0 ∨
        2 ^ 40 < w.base + w.pages * 65536 ∨ w.ranks.length < 2 then badArg s
    else if Tbl.has s.pod.windows n || s.pod.windows.any fun e => w.meets e.2 then notNow s
    else done { s with pod := { s.pod with windows := Tbl.set s.pod.windows n w } })

/-- REMOVE_REDUCE_WINDOW. -/
def execRemoveReduceWindow (port : Fin 2) (dg : List Byte) (s : State) : Out :=
  .next (s.manage port 0x42 dg fun b s =>
    let n := fieldAt b 0 1
    if !layout b 1 [] ∨ 15 < n then badArg s
    else
      match Tbl.get? s.pod.windows n with
      | none => notNow s
      | some w =>
        let inside (x : Contribution) : Bool :=
          w.members.testBit x.src && w.base ≤ x.line && x.line < w.base + w.pages * 65536
        done { s with pod := { s.pod with
          windows := Tbl.del s.pod.windows n
          users := s.pod.users.filter fun u => u.1 != n
          counts := s.pod.counts.filter fun e => windowOfKey e.1 != n
          rounds := s.pod.rounds.filter fun r => r.win != n
          waiting := s.pod.waiting.filter fun x => !inside x } })

/-- READ_MONITOR (R303). A point without a sample has no minimum: what it reads, the manual leaves open (log 11). -/
def execReadMonitor (port : Fin 2) (dg : List Byte) (s : State) : Out :=
  .next (s.manage port 0x43 dg fun b s =>
    let p := fieldAt b 0 2
    let f := fieldAt b 2 1
    if !layout b 3 [] ∨ monitorCount ≤ p ∨ 1 < f then badArg s
    else
      let x := Tbl.getD s.lamp.monitors p {}
      let free := (Config.freeValue s.freeNo).toNat
      let s : State := { s with freeNo := s.freeNo + 1 }
      let out := natLE 4 (x.lo.getD free) ++ natLE 4 (if x.lo.isNone then free / 2 ^ 32 else x.hi) ++ x.bins.flatMap (natLE 4)
      let t : State := if f = 1 then { s with lamp := { s.lamp with monitors := Tbl.del s.lamp.monitors p } } else s
      (t, 0, out))

/-- RETIRE_UNIT (R291). -/
def execRetireUnit (port : Fin 2) (dg : List Byte) (s : State) : Out :=
  .next (s.manage port 0x44 dg fun b s =>
    let u := fieldAt b 0 2
    if !layout b 2 [] ∨ (leaseClass u).isNone then badArg s
    else if (s.unit u).inService then
      let t := s.retireUnit u 0x02 0 0
      done (if isUnit u then t.preemptGangs (t.groupsOn u) else t)
    else notNow s)

/-- REINSTATE_UNIT: a lease starts at once, or as soon as the limits of R290 leave room; one whose stack's spare another channel holds
is not leased (R291, R294). -/
def execReinstateUnit (port : Fin 2) (dg : List Byte) (s : State) : Out :=
  .next (s.manage port 0x45 dg fun b s =>
    let u := fieldAt b 0 2
    if !layout b 2 [] ∨ (leaseClass u).isNone then badArg s
    else if (s.unit u).st ≠ .retired ∨ (leaseClass u = some 2 ∧ s.spareTaken u) then notNow s
    else
      let t := s.modUnit u fun x => { x with reinstating := true, forward := true }
      done (if t.leaseRoom u then t.startLease u else t))

/-- SET_CHANNEL_WEIGHT (R284). -/
def execSetChannelWeight (port : Fin 2) (dg : List Byte) (s : State) : Out :=
  .next (s.manage port 0x46 dg fun b s =>
    let l := fieldAt b 0 1
    let p := fieldAt b 1 1
    let t := fieldAt b 2 2
    let w := fieldAt b 4 1
    if !layout b 5 [] ∨ (17 < l ∧ l ≠ 0xFF) ∨ 63 < p ∨ t = 0 ∨ w = 0 then badArg s
    else
      let ls := if l = 0xFF then List.range 18 else [l]
      done { s with pod := { s.pod with vcs := ls.foldl (fun v k =>
        Tbl.set v (64 * k + p) { Tbl.getD v (64 * k + p) {} with tenant := t, weight := w }) s.pod.vcs } })

/-- SET_TENANT_PARTITION (R65); the cores that firmware reserves lie outside every partition (R265, R290). -/
def execSetTenantPartition (port : Fin 2) (dg : List Byte) (s : State) : Out :=
  .next (s.manage port 0x47 dg fun b s =>
    let t := fieldAt b 0 2
    let ways := fieldAt b 2 2
    let mask := fieldAt b 8 64
    let cores := (List.range 512).filter mask.testBit
    if !layout b 72 [(4, 4)] ∨ t = 0 ∨ !(cores.all fun u => isUnit u && !isReserved u) then badArg s
    else if (cores.isEmpty || ways == 0) && s.ctxs.any fun c => c.2.isLive && c.2.tenant == t then notNow s
    else done { s with tenants := Tbl.set s.tenants t ⟨cores, ways⟩ })

/-- ATTESTATION: the signed report (R327). -/
def execAttestation (port : Fin 2) (dg : List Byte) (s : State) : Out :=
  .next (s.manage port 0x48 dg fun b s =>
    if !layout b 32 [] then badArg s
    else
      let r := b.take 32 ++ (s.host.images.flatMap fun i => i.2.1 ++ natLE 4 i.2.2) ++ Config.serial ++ natLE 8 s.hours
      (s, 0, r ++ Config.sign r))

def BootSt.code (b : BootSt) : Nat × Nat :=
  match b with
  | .off => (0, 0)
  | .verifying => (1, 0)
  | .training => (2, 0)
  | .timing => (3, 0)
  | .starting => (4, 0)
  | .ready => (5, 0)
  | .halted k => (6, k)

/-- READ_STATUS: boot state and stage code, `%tclk`, ε, and the first index of each monitor row. -/
def State.statusData (s : State) : List Byte :=
  natLE 1 s.boot.code.1 ++ natLE 1 s.boot.code.2 ++ natLE 1 (tclkCode s.time.tclk) ++ natLE 1 0 ++ natLE 4 s.time.pen ++
  monitorRows.flatMap (natLE 2)

/-- A halted module still answers with its stage code (R325). -/
def execReadStatus (port : Fin 2) (dg : List Byte) (s : State) : Out :=
  .next (s.manage port 0x49 dg fun b t => if !layout b 0 [] then badArg t else (t, 0, t.statusData))

/-- ORDERLY_SHUTDOWN: by request, by a sensor above 115 °C, by the supply below 48 V for 1 ms, or by both oscillators' failure
(R241, R324, R331). -/
def execOrderlyShutdown (cause : ShutdownCause) (s : State) : Out :=
  .next (
    match cause with
    | .request port dg => s.manage port 0x4A dg fun b s => if !layout b 0 [] then badArg s else done s.shutdown
    | .sensor die eighths => if die < 8 ∧ 920 < eighths then (s.excursionAt die eighths).shutdown else s
    | .supply ms => if 1 ≤ ms then s.shutdown else s
    | .oscillators => if !s.time.refOk ∧ !s.time.backOk then s.shutdown else s)

/-- HOST_PORT_FAILURE: traffic goes on through the other port (R328). -/
def execHostPortFailure (port : Fin 2) (s : State) : Out :=
  .next { s with host := { s.host with portsUp := s.host.portsUp.set port.val false } }

end Sys2Proof.Machine
end

