-- ==== Sys2Proof/Machine/Boot.lean ====
section
/-! DEFINITION. Boot (R325), signed images (R326), power-on and unclean reset (R81, R299, R304). -/

namespace Sys2Proof.Machine

/-- What power-on leaves: flash, the counters and journal entries taken from it (R80, R304), the host keys that firmware holds with
their counters, and the newest commands whose entries the persistent copy holds (R329, R330; DEDUCED, log 78). Everything else is as
after the first power-on. -/
def State.powerOn (s : State) : State :=
  let l := s.flash.life
  let keys := (Tbl.keys l.scores ++ Tbl.keys l.peaks ++ Tbl.keys l.corrections).eraseDups
  let t : State := { State.reset with
    agenda := s.agenda
    nextId := s.nextId
    freeNo := s.freeNo
    flash := s.flash
    lamp := { State.reset.lamp with
      hours0 := l.hours
      retirements := l.retired
      excursions := l.excursions
      units := keys.foldl (fun t u =>
        let c := Tbl.getD l.corrections u (0, 0, 0)
        Tbl.set t u { score := Tbl.getD l.scores u 0, peak := Tbl.getD l.peaks u 0, corr1 := c.1, corr16 := c.2.1, corr64 := c.2.2 }) [] }
    host := { State.reset.host with
      keys := s.host.keys
      lastCtr := s.host.lastCtr
      replyCtr := s.host.replyCtr
      recent := s.host.recent.filter fun r => s.flash.journal.any fun e => e.seq == r.seq
      seq := s.flash.journal.foldl (fun n e => max n (e.seq + 1)) 1
      ring := s.flash.journal.foldl (fun r e => Tbl.set r ((e.seq - 1) % 32768) e) [] } }
  { t with lamp := { t.lamp with corrSeen := (List.range 48).map fun i => (i, t.corrections i) } }

/-- SUPPLY_IN_RANGE: the management cores run boot ROM. -/
def execSupplyInRange (s : State) : Out :=
  .next (if s.boot = .off then { s.powerOn with boot := .verifying } else s)

/-- UNCLEAN_RESET: what flash holds remains. -/
def execUncleanReset (s : State) : Out := .next s.powerOn

/-- An image verifies: its signature, a leaf not seen before, and a version not below the recorded one (R326). -/
def State.imageOk (s : State) (x : ImageFile) : Bool :=
  Config.verifies (Config.digest x.bytes) x.signature && !s.flash.leaves.contains (Config.leaf x.signature) &&
  Tbl.getD s.flash.versions (Config.imageKind x.bytes) 0 ≤ (Config.imageVersion x.bytes).toNat

/-- A signature of the fused key: its leaf has been seen, whether or not the image is accepted (R326; log 6). -/
def State.seeLeaf (s : State) (x : ImageFile) : State :=
  if Config.verifies (Config.digest x.bytes) x.signature then
    { s with flash := { s.flash with leaves := s.flash.leaves ++ [Config.leaf x.signature] } }
  else s

/-- An image is accepted: its version and leaf are recorded, and the host keys that it carries are installed (R326, R329). -/
def State.takeImage (s : State) (x : ImageFile) : State :=
  let keys := (Config.hostKeys x.bytes).take 16
  let k := Config.imageKind x.bytes
  let v := (Config.imageVersion x.bytes).toNat
  let s := s.seeLeaf x
  { s with
    flash := { s.flash with versions := Tbl.set s.flash.versions k (max v (Tbl.getD s.flash.versions k 0)) }
    host := { s.host with
      images := (s.host.images.filter fun i => i.1 != k) ++ [(k, Config.digest x.bytes, v)]
      keys := keys.zipIdx.foldl (fun k p => Tbl.set k p.2 p.1) s.host.keys } }

/-- Images are taken one after the other; none where one does not verify. -/
def takeImages : List ImageFile → State → Option State
  | [], s => some s
  | x :: r, s => if s.imageOk x then takeImages r (s.takeImage x) else none

/-- Images are verified: all are taken, or of each only the leaf of its signature. -/
def State.verifyAll (s : State) (imgs : List ImageFile) : State × Bool :=
  match takeImages imgs s with
  | some t => (t, true)
  | none => (imgs.foldl State.seeLeaf s, false)

/-- IMAGE_VERIFY: at boot every image is verified, code 0x01 on failure, or where there is none to run (DEDUCED, log 6); later an update
is accepted or rejected whole. -/
def execImageVerify (imgs : List ImageFile) (s : State) : Out :=
  .next (
    let r := s.verifyAll imgs
    match s.boot with
    | .verifying => { r.1 with boot := if r.2 && !imgs.isEmpty then .training else .halted 0x01 }
    | .starting => r.1
    | .ready => r.1
    | .off => s | .training => s | .timing => s | .halted _ => s)

/-- MEMORY_LINK_TRAINING: failed channels and lane groups are retired, links report their ports, and the pod its modules (log 49);
code 0x02 if no link trains. The cause that a record of a failed training holds, the manual leaves open (log 11). -/
def execMemoryLinkTraining (failed : List Nat) (ports : SwitchReport) (s : State) : Out :=
  .next (
    if s.boot = .training then
      let s := s.modPod fun p => { p with members := ports.pod.filter fun m => m < 64 }
      let t := failed.foldl (fun (t : State) u =>
        match leaseClass u with
        | some 0 => t
        | some _ =>
          if (t.unit u).inService then t.takeFree fun f t => t.retireUnit u (1 + f.toNat % 2) 0 0 else t
        | none => t) s
      let t := ports.ports.foldl (fun (t : State) p => t.trainLink p.1 p.2) t
      if t.anyLink then { t with boot := .timing } else { t with boot := .halted 0x02 }
    else s)

/-- Every unit that a record retires and no later record reinstates is retired; links without lane groups go down (R293, R299). -/
def State.applySnuffs (s : State) : State :=
  let t := s.flash.snuffs.foldl (fun t r =>
    t.modUnit r.unit fun x => { x with
      st := if r.reinstates then .inService else .retired
      onSpare := r.cls == 2 && !r.reinstates && !t.spareTaken r.unit }) s
  (List.range 18).foldl State.settleLanes t

/-- The image of the service kernel, within memory and the limits of R321 (log 48). -/
def serviceImage : Image :=
  let f := Config.serviceField
  { base := f 2 % 2 ^ 22 * 65536, desc := f 3 % 2 ^ 38, codeOff := (f 4 % 2 ^ 22 + 1) * 65536, codeWords := f 5 % 2 ^ 28 + 1
    mapOff := f 6 % 2 ^ 35 * 8, dataOff := f 7 % 2 ^ 22 * 65536, entry := f 8, scratch := f 9 % 65409 * 4, regs := 16 + 8 * (f 10 % 15)
    waves := 1 + f 11 % 32 }

/-- The root of the service context's tables: 128 KiB of this module's memory hold them (log 48). -/
def serviceRoot : Nat := Config.serviceField 0 % 2 ^ 22 * 2 ^ 17

/-- The entries of those tables, by address (R258, R259): the root's entry 0 points to a level-3 table, whose first three entries point
to level-2 tables. Their leaves map the 1,152 GiB of this module's H-memory and G-memory, each GiB at the virtual address that equals
its physical one, so that the context maps every context's tables and the frame pool wherever they lie (R11, R262, R265; log 48). -/
def serviceTables (root : Nat) : List (Nat × Nat) :=
  let l3 := root + 65536
  let l2 (i : Nat) : Nat := l3 + 32768 + 4096 * i
  (root, l3 + 1) :: (List.range 3).map (fun i => (l3 + 8 * i, l2 i + 1)) ++
  (List.range 1152).map fun k => (l2 (k / 512) + 8 * (k % 512), k * 2 ^ 30 + (if k < 1024 then 0x1F else 0x5F))

/-- What firmware writes to memory for the service kernel: its image, outside the tables, and the tables. -/
def serviceCells : List (Nat × Byte) :=
  (Config.serviceBytes.filter fun c => inClass c.1 && !(serviceRoot ≤ c.1 && c.1 < serviceRoot + 2 ^ 17)) ++
  (serviceTables serviceRoot).flatMap fun e => cellsFrom e.1 (natLE 8 e.2)

/-- Firmware places the service kernel on the core that it reserves, in a context that holds the privileged right, with its tables and
its image written to memory (R265; log 48). A core that is not in service takes none: then the other reserved core does, or the
kernel waits (R290). -/
def State.placeService (s : State) : State :=
  let f := Config.serviceField
  let q := f 12 % 256
  let x : Context :=
    { st := .live, root := serviceRoot, tenant := f 1 % 65535 + 1, priv := true, queues := 2 ^ q, trap := f 13 % 2 ^ 40
      notices := 2 ^ 39 + f 14 % 2 ^ 27 * 4096, service := true }
  let t := ((s.applyCells serviceCells).setCtx 0 x).setQueue q { ctx := some 0 }
  let r := t.accept 0 q { code := serviceImage.base + serviceImage.desc, args := f 15 % 2 ^ 64 } serviceImage 0 0 none []
  if (r.1.unit Config.serviceCore).inService then r.1.placeGang r.2 0 Config.serviceCore
  else if (r.1.unit Config.spareCore).inService then r.1.placeGang r.2 0 Config.spareCore
  else r.1

/-- BOOT_STARTING: the snuff records are applied; the service kernel runs; the module is ready. -/
def execBootStarting (s : State) : Out :=
  .next (if s.boot = .starting then { s.applySnuffs.placeService with boot := .ready } else s)

end Sys2Proof.Machine
end

