-- ==== Sys2Proof/Machine/Copy.lean ====
section
/-! DEFINITION. Copy channels (R164-R168) and futures (R169, R170). -/

namespace Sys2Proof.Machine

/-! ## The checks at issue (R164) -/

/-- A range an operation locks: space, whether a write lock, range, and the address of its first byte as the program gave it. -/
structure OpRange where
  sp : Option Nat
  isWrite : Bool
  lo : Nat
  hi : Nat
  addr : Nat
  deriving DecidableEq, Repr

/-- The conflicting addresses of ranges with the locks of R168 and, in order, with each other. -/
def State.rangeHits (s : State) (g : Nat) : List OpRange → List Nat
  | [] => []
  | r :: rest =>
    let a := if s.conflicts g r.sp r.lo r.hi r.isWrite then [r.addr + (s.conflictAt g r.sp r.lo r.hi r.isWrite - r.lo)] else []
    let b := rest.filterMap fun q =>
      if q.sp = r.sp ∧ (q.isWrite ∨ r.isWrite) ∧ q.lo < r.hi ∧ r.lo < q.hi then some (r.addr + (max q.lo r.lo - r.lo)) else none
    a ++ b ++ s.rangeHits g rest

def minList : List Nat → Option Nat
  | [] => none
  | a :: r => match minList r with
    | none => some a
    | some b => some (min a b)

inductive CopyChk where
  | ok (list : List Nat) (rs : List OpRange)
  | fault (code addr : Nat)
  | poison
  deriving DecidableEq, Repr

def elemSize (e : Nat) : Nat := [4, 8, 16, 64].getD e 4

/-- The place of a scratchpad-side range, for a range lock. -/
def State.scratchSpan (s : State) (a n : Nat) (isWrite : Bool) : Option OpRange :=
  match s.scratchRange s.cur.g a n with
  | some (.scratch g o :: _) => some ⟨some g, isWrite, o, o + n, a⟩
  | some _ => none
  | none => none

/-- The ranges of `n` global bytes from an address; one that passes 2^64 goes on at 0 (DESIGN CHOICE, log 90). -/
def globalSpan (a n : Nat) (isWrite : Bool) : List OpRange :=
  let lo := a % 2 ^ 64
  if lo + n ≤ 2 ^ 64 then [⟨none, isWrite, lo, lo + n, lo⟩]
  else [⟨none, isWrite, lo, 2 ^ 64, lo⟩, ⟨none, isWrite, 0, lo + n - 2 ^ 64, 0⟩]

/-- Checks of a CPY: ALIGN, PROT, RANGE. -/
def State.cpyCheck (s : State) (dir dst src len : Nat) : CopyChk :=
  if dst % 4 ≠ 0 then .fault cAlign dst
  else if src % 4 ≠ 0 then .fault cAlign src
  else
    let d := if dir = 1 ∨ dir = 2 then some (globalSpan dst len true) else (s.scratchSpan dst len true).map fun x => [x]
    let r := if dir = 0 ∨ dir = 2 then some (globalSpan src len false) else (s.scratchSpan src len false).map fun x => [x]
    match d, r with
    | none, _ => .fault cProt dst
    | some _, none => .fault cProt src
    | some d, some r =>
      match minList (s.rangeHits s.cur.g (r ++ d)) with
      | some x => .fault cRange x
      | none => .ok [] (r ++ d)

/-- The index list at an offset of the group's allocation. -/
def State.readList (s : State) (off n : Nat) : List Nat :=
  (List.range n).map fun i => leNat ((List.range 4).map fun k => s.scratchRead s.cur.g (off + 4 * i + k))

def listMin (xs : List Nat) : Nat := (minList xs).getD 0
def listMax (xs : List Nat) : Nat := xs.foldl max 0

/-- Checks of CPYG (`gather`) and CPYS, in this order, and the address that each leaves (R164; DESIGN CHOICE, log 88). -/
def State.cpygCheck (s : State) (gather : Bool) (sbase gbase off n es : Nat) : CopyChk :=
  if (if gather then sbase else gbase) % 4 ≠ 0 then .fault cAlign (if gather then sbase else gbase)
  else if (if gather then gbase else sbase) % 4 ≠ 0 then .fault cAlign (if gather then gbase else sbase)
  else if off % 4 ≠ 0 then .fault cAlign off
  else if (s.cg.scratchSize) < off + 4 * n then .fault cProt off
  else if (List.range n).any fun i => s.scratchPoisoned s.cur.g (off + 4 * i) then .poison
  else
    let xs := s.readList off n
    match xs.find? fun x => (gbase + x) % es ≠ 0 with
    | some x => .fault cAlign ((gbase + x) % 2 ^ 64)
    | none =>
      match s.scratchSpan sbase (n * es) gather with
      | none => .fault cProt sbase
      | some sc =>
        let gl := globalSpan (gbase + listMin xs) (listMax xs + es - listMin xs) !gather
        let li : OpRange := ⟨some s.cur.g, false, off, off + 4 * n, off⟩
        match minList (s.rangeHits s.cur.g (li :: gl ++ [sc])) with
        | some x => .fault cRange x
        | none => .ok xs (li :: gl ++ [sc])

/-! ## Steps (R165) -/

/-- The next step of a copy: destination and source address of each byte, in ascending destination order, or in list order. -/
def Copy.nextStep (c : Copy) : List (Nat × Nat) :=
  let src (j : Nat) : Nat :=
    if c.form = 1 then c.src + c.list.getD (j / c.esize) 0 + j % c.esize else c.src + j
  if c.form = 2 then
    -- elements of the list within one destination line, up to one that ends at a 64-byte boundary
    let at' (i : Nat) : Nat := c.dst + c.list.getD i 0
    let i₀ := c.done / c.esize
    let left := (List.range (min (64 / c.esize) (c.list.length - i₀))).map fun k => i₀ + k
    let same := left.takeWhile fun i => lineOf (at' i) == lineOf (at' i₀)
    let upto := same.takeWhile fun i => i == i₀ || at' (i - 1) % 64 + c.esize ≠ 64
    upto.flatMap fun i => (List.range c.esize).map fun k => (at' i + k, c.src + i * c.esize + k)
  else
    let d := c.dst + c.done
    (List.range (min (64 - d % 64) (c.len - c.done))).map fun k => (d + k, src (c.done + k))

/-- Whether the destination, and the source, is global. -/
def Copy.dstGlobal (c : Copy) : Bool := c.form == 2 || (c.form == 0 && (c.dir == 1 || c.dir == 2))
def Copy.srcGlobal (c : Copy) : Bool := c.form == 1 || (c.form == 0 && (c.dir == 0 || c.dir == 2))

/-- Every step of a copy, from its first byte on. -/
def Copy.steps : Nat → Copy → List (List (Nat × Nat))
  | 0, _ => []
  | n + 1, c =>
    if c.len ≤ c.done then []
    else c.nextStep :: Copy.steps n { c with done := c.done + c.nextStep.length }

/-- A destination range that covers part of a window line, or one of another tenant, fails at issue (R286). -/
def State.copyHitsWindow (s : State) (c : Copy) : Bool :=
  c.dstGlobal && !s.pod.windows.isEmpty && (Copy.steps (c.len / 4 + 1) c).any fun st =>
    match st with
    | [] => false
    | (d, _) :: _ =>
      match s.xlate (unitDie s.cu) s.cctx d .write with
      | .ok pa _ =>
        match s.winAt pa with
        | some w => w.2.tenant != (s.ctx s.cctx).tenant || ((st.map Prod.fst).eraseDups).length != 64
        | none => false
      | .page _ _ _ => false
      | .prot _ => false
      | .refused => false

/-! ## Issue -/

/-- A checked copy enters its channel's queue. -/
def State.startCopy (s : State) (c : Copy) (k : CopyChk) : State :=
  match k with
  | .fault code a => s.raise code 0 a
  | .poison => if c.dstGlobal then s.closeRegion.consumePoison s.cur.g s.cur.w 0 else s.raise cPoison
  | .ok xs rs =>
    let c := { c with list := xs }
    if s.copyHitsWindow c then s.raise cProt 0 c.dst
    else
      let s := if c.dstGlobal then s.closeRegion else s
      let id := s.nextId
      let c := { c with id := id, waits := s.waveWrites s.cur.g s.cur.w, region := s.regionNow }
      let ls := rs.map fun r => ({ group := s.cur.g, op := id, scratchOf := r.sp, isWrite := r.isWrite, lo := r.lo, hi := r.hi } : Lock)
      let s := (s.fresh.addLocks s.cur.g ls).modG fun G => { G with copies := G.copies ++ [c] }
      (s.modW fun W => (W.putH c.h (.pending id)).addCount .cpc 1).retire

/-- The copy that a CPY, CPYG or CPYS forms, before its list is read. -/
def State.copyOf (s : State) (form h ch dir dst src len es : Nat) : Copy :=
  { id := 0, form := form, ch := ch, wave := s.cur.w, unit := s.cu, h := h, dir := dir, dst := dst, src := src, len := len, esize := es }

def State.cpyArgs (s : State) (a : Fin 16) (b : Fin 8) (c d : Fin 64) (e : Fin 4) (len : Nat) : Copy :=
  s.copyOf 0 a.val b.val e.val (s.rdS c.val).toNat (s.rdS d.val).toNat len 4

/-- CPY (R164). -/
def execCpy (a : Fin 16) (b : Fin 8) (c d : Fin 64) (e : Fin 4) (len : Fin 268435456) (s : State) : Out :=
  let x := s.cpyArgs a b c d e len.val
  .next (s.startCopy x (s.cpyCheck e.val x.dst x.src len.val))

/-- CPYG (R164). -/
def execCpyg (a : Fin 16) (b : Fin 8) (c d : Fin 64) (e : Fin 4) (off : Fin 262144) (n : Fin 2048) (s : State) : Out :=
  let es := elemSize e.val
  let x := s.copyOf 1 a.val b.val 0 (s.rdS c.val).toNat (s.rdS d.val).toNat (n.val * es) es
  .next (s.startCopy x (s.cpygCheck true x.dst x.src off.val n.val es))

/-- CPYS (R164). -/
def execCpys (a : Fin 16) (b : Fin 8) (c d : Fin 64) (e : Fin 4) (off : Fin 262144) (n : Fin 2048) (s : State) : Out :=
  let es := elemSize e.val
  let x := s.copyOf 2 a.val b.val 0 (s.rdS c.val).toNat (s.rdS d.val).toNat (n.val * es) es
  .next (s.startCopy x (s.cpygCheck false x.src x.dst off.val n.val es))

/-! ## The channel engine -/

/-- A copy leaves its queue: its handle resolves, its locks are released, CPC falls, the notice of its dropped writes is posted
(R165, R169, R332). -/
def State.endCopy (s : State) (g : Nat) (c : Copy) (r : Handle) : State :=
  (((((s.postDropped g c.unit c.dropped).dropLocks g c.id).modGroup g fun x => { x with copies := x.copies.filter fun d => d.id != c.id }).modWave g c.wave
    fun W => W.addCount .cpc (-1)).resolve g c.id r)

/-- The place of a byte of a copy's side; a page fault or a missing permission. -/
inductive Sited where
  | ok (p : Place) (ls : List Leaf)
  | page (va kind level : Nat) (malformed : Bool)
  | prot
  | refused                            -- the bridges refuse the walk, or stall it: the step waits (R269, R278)
  deriving DecidableEq, Repr

def State.site (s : State) (g : Nat) (isGlobal : Bool) (acc : Acc) (ok : Leaf → Nat → Bool) (a : Nat) : Sited :=
  if isGlobal then
    match s.xlate (unitDie (s.group g).unit) (s.ctxOf g) (a % 2 ^ 64) acc with
    | .ok pa l => if ok l pa then .ok (.global pa) [l] else .prot
    | .page v lv m => .page v acc.kind lv m
    | .prot _ => .prot
    | .refused => .refused
  else
    match s.scratchByte g a with
    | some p => .ok p []
    | none => .prot

inductive Sites where
  | ok (ps : List Place) (ls : List Leaf)
  | page (va kind level : Nat) (malformed : Bool)
  | prot
  | refused                            -- the bridges refuse the walk, or stall it: the step waits (R269, R278)
  deriving DecidableEq, Repr

def State.sites (s : State) (g : Nat) (isGlobal : Bool) (acc : Acc) (ok : Leaf → Nat → Bool) : List Nat → Sites
  | [] => .ok [] []
  | a :: r =>
    match s.site g isGlobal acc ok a with
    | .page v k lv m => .page v k lv m
    | .prot => .prot
    | .refused => .refused
    | .ok p ls =>
      match s.sites g isGlobal acc ok r with
      | .ok ps ks => .ok (p :: ps) (ls ++ ks)
      | .page v k lv m => .page v k lv m
      | .prot => .prot
      | .refused => .refused

/-- An engine's step waits in the fault queue of its context (R165, R263); with every entry in use it tries again. -/
def State.engineWait (s : State) (g id va kind level : Nat) (m : Bool) (mark : State → State) : State :=
  let x := s.group g
  let r := (s.walkTouch (s.ctxOf g) va).fqRaise (s.ctxOf g) va kind level m x.kernel x.unit (.copy g id)
  match r.2 with
  | some _ => mark r.1
  | none => s

/-- Writes bytes that lie in one destination line or allocation. -/
def State.engineStore (s : State) (x : GWrite) (xs : List (Place × Byte × Bool)) : State :=
  let cells := globalCells (xs.map fun p => (p.1, p.2.1))
  let bad := xs.any fun p => p.2.2
  let t := s.engineWrite { x with poison := bad } cells
  (scratchCells (xs.map fun p => (p.1, p.2.1))).foldl (fun t e =>
    (t.scratchWrite e.1 e.2).scratchPoison e.1
      ((xs.filterMap fun p => match p.1 with
        | .global _ => none
        | .scratch g o => if g = e.1 ∧ p.2.2 then some (o / 4) else none).eraseDups)) t

/-- A window line takes the step as a contribution (R286). -/
def State.stepLine (s : State) (ps : List Place) : Option Nat :=
  match ps with
  | .global pa :: _ => if (s.winAt pa).isSome then some (lineOf pa) else none
  | .scratch _ _ :: _ => none
  | [] => none

/-- A step into a window line is allowed: of the window's tenant, and the whole line (R286). -/
def State.stepAllowed (s : State) (g : Nat) (ps : List Place) : Bool :=
  match ps with
  | .global pa :: _ =>
    match s.winAt pa with
    | some w => w.2.tenant == (s.ctx (s.ctxOf g)).tenant && ps.eraseDups.length == 64
    | none => true
  | .scratch _ _ :: _ => true
  | [] => true

/-- A copy of a group. -/
def Group.copy (x : Group) (id : Nat) : Option Copy := x.copies.find? fun c => c.id == id

def State.modCopy (s : State) (g id : Nat) (f : Copy → Copy) : State :=
  s.modGroup g fun x => { x with copies := x.copies.map fun d => if d.id = id then f d else d }

/-- The write locks of an operation after its next `n` bytes: a range that has been written whole is locked no longer (R167). -/
def advanceLocks (op : Nat) : Nat → List Lock → List Lock
  | _, [] => []
  | n, l :: r =>
    if l.op = op ∧ l.isWrite then
      let k := min n (l.hi - l.lo)
      if l.lo + k < l.hi then { l with lo := l.lo + k } :: advanceLocks op (n - k) r else advanceLocks op (n - k) r
    else l :: advanceLocks op n r

/-- The copy after a landed step of `n` bytes: with the last one it is done. -/
def State.landed (s : State) (g id n : Nat) (lines : List Nat) : State :=
  match (s.group g).copy id with
  | none => s
  | some c =>
    let c' := { c with done := c.done + n, lines := c.lines ++ (lines.filter fun l => !c.lines.contains l), flying := none
                       stopping := if c.stopping = 1 then 2 else c.stopping }
    let t := s.modGroup g fun x => { x with
      copies := x.copies.map fun d => if d.id = c.id then c' else d
      wp := x.wp.setIfInBounds c.ch (x.wp.toList.getD c.ch 0 + BitVec.ofNat 64 n)
      landed := if lines.isEmpty then x.landed else Tbl.set x.landed c.ch ((Tbl.getD x.landed c.ch []) ++ lines).eraseDups
      locks := if c.form = 2 then x.locks else advanceLocks c.id n x.locks }
    if c.len ≤ c'.done then t.endCopy g c' (.done c'.lines) else t

/-- The bytes of a window line that a step gives it. -/
def lineData (l : Nat) (xs : List (Place × Byte × Bool)) : List Byte :=
  (List.range 64).map fun i => ((xs.reverse.find? fun p => p.1 == .global (l + i)).map fun p => p.2.1).getD 0

/-- The writes of a step of `n` bytes: those performed at once land; those to another module land once they are performed there,
contributions once they are on their flow (R165, R192, R286). -/
def State.writeStep (s : State) (g : Nat) (c : Copy) (n : Nat) (vas : List Nat) (xs : List (Place × Byte × Bool)) : State :=
  let u := (s.group g).unit
  let pages : List (Nat × Nat) := ((vas.zip (xs.map Prod.fst)).filterMap fun p =>
    match p.2 with
    | .global pa => some (p.1 % 2 ^ 64 / 65536 * 65536, pa / 65536 * 65536)
    | .scratch _ _ => none).eraseDups
  let x : GWrite := { id := 0, op := c.id, ctx := s.ctxOf g, group := g, wave := c.wave, unit := u, home := 0, payld := .bytes []
                      vas := pages, engine := true, issuer := some c.unit }
  let lines := linesOf (globalCells (xs.map fun p => (p.1, p.2.1)))
  let t := match s.stepLine (xs.map Prod.fst) with
    | some l => s.contribute { x with poison := xs.any fun p => p.2.2 } [(l, lineData l xs)]
    | none => s.engineStore x xs
  let lines := if (s.stepLine (xs.map Prod.fst)).isSome then [] else lines
  if t.engineFlying g c.id then t.modCopy g c.id fun d => { d with flying := some (n, lines) } else t.landed g c.id n lines

/-- The engines of a saved group wait; those of a suspended context complete (R61, R86; DEDUCED, log 66). -/
def State.engineHeld (s : State) (g : Nat) : Bool := (s.group g).isSaved && (s.ctx (s.ctxOf g)).st != .suspended

/-- COPY_STEP (R165, R192): the next step of a channel's oldest copy of a group. -/
def execCopyStep (g id : Nat) (s : State) : Out :=
  .next (
    let G := s.group g
    match G.copy id with
    | none => s
    | some c =>
      if s.engineHeld g ∨ c.stopping = 2 ∨ c.paged ∨ (G.copies.find? fun d => d.ch == c.ch).map Copy.id ≠ some id then s
      else
        match c.flying with
        | some (n, lines) => if s.engineFlying g id then s else s.landed g id n lines
        | none =>
          let st := c.nextStep
          let walked (s : State) (acc : Acc) (isGlobal : Bool) (as : List Nat) : State :=
            if isGlobal then s.walkOnly (unitDie G.unit) (s.ctxOf g) acc (as.map fun a => a % 2 ^ 64) else s
          let fail (s : State) : State := s.endCopy g c (.failed cProt c.lines)
          let wait (va k lv : Nat) (m : Bool) : State := s.engineWait g id va k lv m fun s => s.modCopy g id fun d => { d with paged := true }
          match s.sites g c.srcGlobal .read (fun _ _ => true) (st.map Prod.snd) with
          | .refused => s
          | .page v k lv m => wait v k lv m
          | .prot => fail (walked s .read c.srcGlobal (st.map Prod.snd))
          | .ok src ls =>
            match s.sites g c.dstGlobal .write (fun l pa => !l.stamped && !s.remoteWin pa) (st.map Prod.fst) with
            | .refused => s
            | .page v k lv m => wait v k lv m
            | .prot => fail (walked (walked s .read c.srcGlobal (st.map Prod.snd)) .write c.dstGlobal (st.map Prod.fst))
            | .ok dst ks =>
              let frozen := (st.map Prod.fst).zip dst |>.find? fun p =>
                match p.2 with
                | .global pa => s.frozenAt pa
                | .scratch _ _ => false
              match frozen with
              | some p => wait p.1 4 0xFF false
              | none =>
                if s.stillWriting c.waits (src ++ dst) || !s.placesOk G.unit (src ++ dst) ||
                    s.readsHeld (s.ctxOf g) (remotePas src) then s
                else if !s.stepAllowed g dst then
                  fail (walked (walked s .read c.srcGlobal (st.map Prod.snd)) .write c.dstGlobal (st.map Prod.fst))
                else
                  let data := src.map s.enginePeek
                  let s := (ls ++ ks).foldl (fun t l => t.cacheLeaf (unitDie G.unit) l) (s.engineTouch src)
                  (s.countReads (s.ctxOf g) (remotePas src)).writeStep g c st.length (st.map Prod.fst) (dst.zip data))

/-- A copy is cancelled; its access waits in the fault queue no longer. -/
def State.cancelCopy (s : State) (g : Nat) (c : Copy) : State :=
  (s.endCopy g c (.cancelled c.lines)).fqDrop fun w =>
    match w with
    | .copy h i => h == g && i == c.id
    | .split _ _ _ => false
    | .write _ => false
    | .version _ _ _ => false

/-- COPY_ENGINE_STOP (R170): a cancelled copy's engine stops after the step in progress, which lands; where that is the last step the
copy is done. -/
def execCopyEngineStop (g id : Nat) (s : State) : Out :=
  .next (
    match (s.group g).copy id with
    | some c =>
      if c.stopping = 0 || s.engineFlying g id then s
      else
        match c.flying with
        | none => s.cancelCopy g c
        | some (n, lines) =>
          let t := s.landed g id n lines
          match (t.group g).copy id with
          | some d => t.cancelCopy g d
          | none => t
    | none => s)

/-! ## Futures (R170) -/

/-- FWAIT: the status is written when the wait ends; the other splits read it from the next cycle on (R170). -/
def execFwait (d : Fin 64) (h : Fin 16) (s : State) : Out :=
  .next (
    let x := s.cw.handle h.val
    if x.isPending then s.retire.blockOn (.fwait d.val h.val)
    else ((s.dropLines s.cu x.lines).modW fun W => W.statusS d.val x.status (s.cyc + 1)).retire)

/-- FTEST: the status at once, held by the scoreboard. -/
def execFtest (d : Fin 64) (h : Fin 16) (s : State) : Out :=
  .next (
    let x := s.cw.handle h.val
    ((s.dropLines s.cu x.lines).fresh.addResult
      { id := s.nextId, kind := .vals, counter := .none, sregs := [d.val], out := [(.s d.val, x.status)], region := s.regionNow }).retire)

/-- FCAN: committing; the engine stops after the step in progress. -/
def execFcan (h : Fin 16) (s : State) : Out :=
  .next (
    let s := s.closeRegion
    match s.cw.handle h.val with
    | .pending op =>
      (s.modG fun G => { G with copies := G.copies.map fun c => if c.id = op ∧ c.stopping = 0 then { c with stopping := 1 } else c }).retire
    | .empty => s.retire
    | .done _ => s.retire
    | .failed _ _ => s.retire
    | .cancelled _ => s.retire)

end Sys2Proof.Machine
end

