-- ==== Sys2Proof/Machine/MxNum.lean ====
section
/-! DEFINITION. The arithmetic of the matrix tile: element streams (R39), B slots and reflection columns (R202, R203), the
multiply-accumulate with its reflection entries (R206, R207), the check (R208), quantised elements (R211). -/

namespace Sys2Proof.Machine

/-! ## Dense and sparse tables -/

/-- The `n` values from key `k` on; `d` where the table has none. -/
def Tbl.dense {α : Type} (d : α) : Nat → Nat → Tbl α → List α
  | 0, _, _ => []
  | n + 1, k, [] => d :: dense d n (k + 1) []
  | n + 1, k, (j, x) :: r =>
    if j = k then x :: dense d n (k + 1) r else d :: dense d n (k + 1) ((j, x) :: r)

/-- The nonzero values of a list, by position. -/
def sparse (xs : List Int) : Tbl Int := ((xs.zipIdx.filter fun p => p.1 != 0).map fun p => (p.2, p.1))
def sparseN (xs : List Nat) : Tbl Nat := ((xs.zipIdx.filter fun p => p.1 != 0).map fun p => (p.2, p.1))

/-- A list cut into `n` pieces of `k`. -/
def chunks {α : Type} (k : Nat) : Nat → List α → List (List α)
  | 0, _ => []
  | n + 1, xs => xs.take k :: chunks k n (xs.drop k)

/-- Rows to columns, of `n` columns. -/
def columns {α : Type} (n : Nat) : List (List α) → List (List α)
  | [] => List.replicate n []
  | r :: rest => List.zipWith (fun x c => x :: c) r (columns n rest)

/-! ## Elements -/

/-- Elements of `w` bits of a bit stream (R39). -/
def elemsOf (w n : Nat) (bs : List Byte) : List Nat :=
  let v := leNat bs
  (List.range n).map fun k => fld v (k * w) w

/-- An element as a multiple of 2^-u; NaN and infinity as 0. -/
def fixed (u : Nat) (v : FVal) : Int :=
  match v with
  | .nan _ => 0
  | .inf _ => 0
  | .fin neg m e => signed neg (m * 2 ^ (e + u).toNat)

def isInf (v : FVal) : Bool :=
  match v with
  | .nan _ => false
  | .inf _ => true
  | .fin _ _ _ => false

/-- The value of n × 2^-u. -/
def dyadic (n : Int) (u : Nat) : FVal := .fin (n < 0) n.natAbs (-(u : Int))

/-- A pair of formats: none where it is not permitted, otherwise its class (R55). -/
def pairClass (a b : Nat) : Option TileClass :=
  if isLog a ∨ isLog b then (if a = b then some .exact else none)
  else if isWideFmt a ∨ isWideFmt b then some .wide
  else some .exact

/-! ## B slots (R202, R203) -/

/-- N of the sparsity code. -/
def spN (spn : Nat) : Nat := if spn = 1 then 8 else 16

/-- K of an MXMAC or MXMACS on a slot (R206). -/
def BSlot.k (x : BSlot) : Nat := if x.spn = 0 then 128 else 128 * 32 / spN x.spn

/-- The expanded index of stored element (k', j) (R202). -/
def BSlot.at' (x : BSlot) (idx : List Nat) (k' j : Nat) : Nat :=
  if x.spn = 0 then k' else 32 * (k' / spN x.spn) + idx.getD (128 * k' + j) 0 % 32

/-- The elements' values, and their expanded indexes, column by column. -/
def BSlot.cols (x : BSlot) : List (List (FVal × Nat)) :=
  let vals := ((x.elems ++ List.replicate (16384 - x.elems.length) 0).map fun c => opVal x.fmt c)
  let idx := (x.index ++ List.replicate (16384 - x.index.length) 0).toArray
  let rows := (chunks 128 128 vals).zipIdx.map fun r => r.1.zipIdx.map fun e =>
    (e.1, if x.spn = 0 then r.2 else 32 * (r.2 / spN x.spn) + idx.getD (128 * r.2 + e.2) 0 % 32)
  columns 128 rows

/-- The sum of an array's entry. -/
def addAt (a : Array Int) (k : Nat) (v : Int) : Array Int := a.setIfInBounds k (a.getD k 0 + v)

/-- The reflection column (R203): exact sums in units of 2^-16, FP64 patterns for bf16, fp16, e5m2, none for log formats. -/
def BSlot.reflection (x : BSlot) : List Int :=
  if isLog x.fmt then []
  else
    let u := if isWideFmt x.fmt then 133 else 16
    let sums := x.cols.foldl (fun (a : Array Int) c => c.foldl (fun a e => addAt a e.2 (fixed u e.1)) a) (Array.replicate x.k 0)
    if isWideFmt x.fmt then sums.toList.map fun n => ((toF64 (dyadic n 133) : Nat) : Int) else sums.toList

/-- c[k] as a multiple of 2^-u, where u is at least 1074 for FP64 entries. -/
def BSlot.reflVal (x : BSlot) (u : Nat) (c : Int) : Int :=
  if isWideFmt x.fmt then fixed u (fp64F.decode c.toNat) else c * 2 ^ (u - 16)

/-! ## Row buffer -/

def MxState.row (x : MxState) (l : Nat) : List Byte :=
  let r := Tbl.getD x.rows l []
  r ++ List.replicate (1024 - r.length) 0

def MxState.rowMarks (x : MxState) (l : Nat) : List Nat := Tbl.getD x.rowPoison l []

/-- Fills bytes of a lane's row. -/
def MxState.fillRow (x : MxState) (l at' : Nat) (bs : List Byte) (bad : List Nat) : MxState :=
  let r := x.row l
  { x with
    rows := Tbl.set x.rows l (r.take at' ++ bs ++ r.drop (at' + bs.length))
    rowPoison := Tbl.set x.rowPoison l
      ((x.rowMarks l).filter (fun p => !(at' ≤ p && p < at' + bs.length)) ++ bad.map fun p => at' + p) }

def MxState.tile (x : MxState) (t : Nat) : Tile := Tbl.getD x.tiles t {}
def MxState.slot (x : MxState) (b : Nat) : BSlot := Tbl.getD x.slots b {}
def MxState.setTile (x : MxState) (t : Nat) (y : Tile) : MxState := { x with tiles := Tbl.set x.tiles t y }

/-! ## Multiply-accumulate (R56-R58, R206, R207) -/

/-- The range of the exact class, in raw units (R56). -/
def rawMax : Int := 2 ^ 79 - 1
def rawMin : Int := -2 ^ 79
def clampRaw (n : Int) : Int := max rawMin (min rawMax n)

/-- A row's product sum with one column: the exact sum in units of 2^-2u, whether it is NaN, and its infinity. -/
structure Dot where
  sum : Int
  nan : Bool
  inf : Option Bool
  deriving DecidableEq, Repr

/-- Adds an infinite term of a sign. -/
def Dot.addInf (d : Dot) (neg : Bool) : Dot :=
  match d.inf with
  | none => { d with inf := some neg }
  | some n => if n = neg then d else { d with nan := true }

/-- The product of two elements as a term of a sum (R57, R58). -/
def Dot.addTerm (u : Nat) (d : Dot) (a b : FVal) : Dot :=
  match mulVal a b with
  | (.nan _, _) => { d with nan := true }
  | (.inf neg, _) => d.addInf neg
  | (.fin neg m e, _) => { d with sum := d.sum + signed neg (m * 2 ^ (e + 2 * u).toNat) }

/-- A row of A: its values, their multiples of 2^-u, whether one is NaN or infinite. -/
structure ARow where
  vals : Array FVal
  ints : Array Int
  codes : Array Nat
  nan : Bool
  inf : Bool

def mkARow (fmt k u : Nat) (bs : List Byte) : ARow :=
  let cs := elemsOf (opWidth fmt) k bs
  let vs := cs.map fun c => opVal fmt c
  ⟨vs.toArray, (vs.map (fixed u)).toArray, cs.toArray, vs.any isNan, vs.any isInf⟩

/-- A column of B in the same forms. -/
structure BCol where
  vals : List (FVal × Nat)
  ints : List (Int × Nat)
  nan : Bool
  inf : Bool

def mkBCol (u : Nat) (c : List (FVal × Nat)) : BCol :=
  ⟨c, c.map fun e => (fixed u e.1, e.2), c.any fun e => isNan e.1, c.any fun e => isInf e.1⟩

/-- Row by column, non-log pairs. -/
def dotOf (u : Nat) (a : ARow) (b : BCol) : Dot :=
  if a.nan || b.nan then { sum := 0, nan := true, inf := none }
  else if a.inf || b.inf then
    b.vals.foldl (fun d e => d.addTerm u (a.vals.getD e.2 (.fin false 0 0)) e.1) ⟨0, false, none⟩
  else ⟨b.ints.foldl (fun n e => n + a.ints.getD e.2 0 * e.1) 0, false, none⟩

/-- Row by column of a log pair, in units of 2^-32; a NaN element counts 0 in the sum. -/
def dotLog (w : Nat) (a : ARow) (b : BCol) (codes : List (Nat × Nat)) : Dot :=
  ⟨codes.foldl (fun n e => n + fixed 32 (logMul w (a.codes.getD e.2 0) e.1)) 0, a.nan || b.nan, none⟩

/-- One accumulator word after an update: word, saturated, NaN-sticky, overflow. -/
structure Upd where
  word : Int
  sat : Bool
  nan : Bool
  ovf : Bool
  deriving DecidableEq, Repr

/-- The update of a word of the exact class (R56, R58): a saturated word keeps its end value; `free` stands for what another word
holds once a NaN has been added to it. -/
def updExact (w : Int) (sat nan : Bool) (d : Dot) (free : Int) : Upd :=
  if sat then ⟨w, true, nan || d.nan, false⟩
  else if d.nan then ⟨free, false, true, false⟩
  else
    let n := w + d.sum
    ⟨clampRaw n, n ≠ clampRaw n, nan, n ≠ clampRaw n⟩

/-- The update of a word of the wide class (R46, R57, R58): an FP32 pattern. An exact sum of 0 enters as +0 (log 39), and a word that
holds a NaN becomes NaN-sticky (log 40). -/
def updWide (u : Nat) (w : Int) (nan : Bool) (d : Dot) : Upd :=
  if d.nan then ⟨0x7FC00000, false, true, false⟩
  else
    let acc := fp32F.decode w.toNat
    let s : FVal := match d.inf with
      | some neg => .inf neg
      | none => dyadic d.sum (2 * u)
    let v := (addVal acc s).1
    let r := fp32F.convert .rne v
    ⟨(r.1 : Nat), false, nan || isNan v, !isInf v && (r.2 &&& fOverflow) != 0⟩

/-- Adds to an FP64 entry an exact value and rounds to nearest. -/
def add64 (p : Nat) (v : FVal) : Nat := toF64 (addVal (fp64F.decode p) v).1

/-- |word| of the wide class as a value; an infinite or NaN word counts 0. -/
def absWide (w : Int) : FVal :=
  match fp32F.decode w.toNat with
  | .fin _ m e => .fin false m e
  | .nan _ => .fin false 0 0
  | .inf _ => .fin false 0 0

/-- The exact sum of values. -/
def sumVals (vs : List FVal) : FVal := vs.foldl (fun a v => (addVal a v).1) (.fin false 0 0)

/-- MXMAC and MXMACS on a tile (R206, R207). `e` is exec, `free i j` what a word holds once NaN has reached it. -/
def Tile.mac (x : Tile) (m : MxState) (b : BSlot) (afmt seg : Nat) (e : Word) (free : Nat → Int) : Tile :=
  let cls := (pairClass afmt b.fmt).getD .exact
  let wide := cls == .wide
  let u := if wide then 133 else 16
  let k := b.k
  let log := isLog afmt
  let cols := b.cols.map (mkBCol u)
  let codes := if log then
      let cs := b.elems ++ List.replicate (16384 - b.elems.length) 0
      (columns 128 ((chunks 128 128 cs).zipIdx.map fun r => r.1.map fun c => (c, r.2))).zipIdx.map fun c =>
        c.1.map fun p => (p.1, b.at' b.index p.2 c.2)
    else []
  let refl := b.refl ++ List.replicate (k - b.refl.length) 0
  let words := chunks 128 32 (Tbl.dense 0 4096 0 x.words)
  let rows := (List.range 32).map fun i => mkARow afmt k u ((m.row i).drop (128 * seg))
  let sums : List (List Dot) := rows.zipIdx.map fun r =>
    if e.getLsbD r.2 then
      (if log then List.zipWith (fun c s => dotLog (opWidth afmt) r.1 c s) cols codes
       else cols.map fun c => dotOf u r.1 c)
    else []
  let upd : List (List Upd) := (List.zip words sums).zipIdx.map fun r =>
    if e.getLsbD r.2 then
      (List.zip r.1.1 r.1.2).zipIdx.map fun q =>
        let n := 128 * r.2 + q.2
        if wide then updWide u q.1.1 (x.nans.contains n) q.1.2
        else updExact q.1.1 (x.sat.contains n) (x.nans.contains n) q.1.2 (free n)
    else r.1.1.zipIdx.map fun q =>
        let n := 128 * r.2 + q.2
        ⟨q.1, x.sat.contains n, x.nans.contains n, false⟩
  let flat := upd.flatten
  let marks (f : Upd → Bool) : List Nat := (flat.zipIdx.filter fun p => f p.1).map Prod.snd
  -- poison: a poisoned A byte reaches the row, a poisoned slot element its column
  let badRow (i : Nat) : Bool := (m.rowMarks i).any fun p => 128 * seg ≤ p && p < 128 * seg + ceilDiv (k * opWidth afmt) 8
  let badCols := (b.poison.map fun n => n % 128).eraseDups
  let bad := (maskLanes e).flatMap fun i =>
    if badRow i then (List.range 128).map fun j => 128 * i + j else badCols.map fun j => 128 * i + j
  -- reflection entries
  let inE := (rows.zipIdx.filter fun r => e.getLsbD r.2)
  let us := (List.range k).map fun q => inE.foldl (fun n r => n + r.1.ints.getD q 0) 0
  let rho' : List Int := (Tbl.dense 0 32 0 x.rho).zipIdx.map fun r =>
    if !e.getLsbD r.2 then r.1
    else if log then r.1 + ((sums.getD r.2 []).foldl (fun n d => n + d.sum) 0)
    else
      let a := (rows.getD r.2 ⟨#[], #[], #[], false, false⟩).ints.toList
      if wide then
        let s := (List.zip a refl).foldl (fun n p => n + p.1 * b.reflVal 1074 p.2) 0
        ((add64 r.1.toNat (dyadic s (133 + 1074)) : Nat) : Int)
      else r.1 + (List.zip a refl).foldl (fun n p => n + p.1 * p.2) 0
  let us64 := us.map fun n => fixed 1074 (fp64F.decode (toF64 (dyadic n 133)))
  let usA := if wide then us64.toArray else us.toArray
  let kap' : List Int := (Tbl.dense 0 128 0 x.kappa).zipIdx.map fun c =>
    if log then c.1 + (sums.foldl (fun n r => n + (r.getD c.2 ⟨0, false, none⟩).sum) 0)
    else
      let s := ((cols.getD c.2 ⟨[], [], false, false⟩).ints).foldl (fun n p => n + usA.getD p.2 0 * p.1) 0
      if wide then ((add64 c.1.toNat (dyadic s (133 + 1074)) : Nat) : Int) else c.1 + s
  let new := upd.map fun r => r.map Upd.word
  let mur' := if wide then (Tbl.dense 0 32 0 x.mur).zipIdx.map fun r =>
      if e.getLsbD r.2 then addUp64 r.1 (sumVals ((new.getD r.2 []).map absWide)) else r.1
    else Tbl.dense 0 32 0 x.mur
  let newE := (new.zipIdx.filter fun r => e.getLsbD r.2).map Prod.fst
  let muc' := if wide then (Tbl.dense 0 128 0 x.muc).zipIdx.map fun c =>
      addUp64 c.1 (sumVals (newE.map fun r => absWide (r.getD c.2 0)))
    else Tbl.dense 0 128 0 x.muc
  { x with
    cls := cls
    words := sparse new.flatten
    sat := marks Upd.sat
    nans := marks Upd.nan
    overflow := x.overflow || flat.any Upd.ovf
    poison := (x.poison ++ bad.filter fun n => !x.poison.contains n)
    badRefl := x.badRefl || (b.badRefl && e != 0)
    rho := sparse rho'
    kappa := sparse kap'
    mur := sparseN mur'
    muc := sparseN muc' }

/-! ## The check (R208) -/

structure Check where
  r : List Nat := []
  c : List Nat := []
  xr : List Nat := []
  xc : List Nat := []
  fix : Option (Nat × Nat × Int) := none   -- row, column, the corrected word
  fixSat : Bool := false                   -- the correction left the range: the word saturates (R56)
  ok : Bool := true
  deriving DecidableEq, Repr

/-- The exact value of a wide word in units of 2^-1100. -/
def wide1100 (w : Int) : Int := fixed 1100 (fp32F.decode w.toNat)

/-- Rows and columns that hold a word marked saturated or NaN-sticky, or one of `infs` (R208). -/
def Tile.excluded (x : Tile) (infs : List Nat) : List Nat × List Nat :=
  let ex := x.sat ++ x.nans ++ infs
  ((List.range 32).filter fun i => ex.any fun n => n / 128 == i, (List.range 128).filter fun j => ex.any fun n => n % 128 == j)

def Tile.check (x : Tile) : Check :=
  if x.damaged then { ok := false }
  else if x.cls = .none then { xr := (x.excluded []).1, xc := (x.excluded []).2 }
  else
    let wide := x.cls == .wide
    let rows := chunks 128 32 (Tbl.dense 0 4096 0 x.words)
    let cols := columns 128 rows
    let infs := if wide then
        ((rows.flatten.zipIdx.filter fun p => p.1 != 0 && isInf (fp32F.decode p.1.toNat)).map Prod.snd) else []
    let xr := (x.excluded infs).1
    let xc := (x.excluded infs).2
    let val (w : Int) : Int := if wide then wide1100 w else w
    let ent (n : Int) : Int := if wide then fixed 1100 (fp64F.decode n.toNat) else n
    let dr := (List.zip rows (Tbl.dense 0 32 0 x.rho)).map fun p => ent p.2 - p.1.foldl (fun n w => n + val w) 0
    let dc := (List.zip cols (Tbl.dense 0 128 0 x.kappa)).map fun p => ent p.2 - p.1.foldl (fun n w => n + val w) 0
    -- 2^-22 μ + 2^-130, in units of 2^-1122
    let tau (m : Nat) : Int := fixed 1100 (fp64F.decode m) + 2 ^ 992
    let tr := (Tbl.dense 0 32 0 x.mur).map tau
    let tc := (Tbl.dense 0 128 0 x.muc).map tau
    let off (d t : Int) : Bool := if wide then t < (d.natAbs : Int) * 2 ^ 22 else d != 0
    let r := (List.range 32).filter fun i => !xr.contains i && off (dr.getD i 0) (tr.getD i 0)
    let c := (List.range 128).filter fun j => !xc.contains j && off (dc.getD j 0) (tc.getD j 0)
    match r, c with
    | [], [] => { xr := xr, xc := xc }
    | [i], [j] =>
      let a := dr.getD i 0
      let b := dc.getD j 0
      let same := if wide then decide (((a - b).natAbs : Int) * 2 ^ 22 ≤ tr.getD i 0 + tc.getD j 0) else a == b
      if same then
        let w := (rows.getD i []).getD j 0
        let w' : Int := if wide then (((fp32F.convert .rne (dyadic (wide1100 w + a) 1100)).1 : Nat) : Int) else clampRaw (w + a)
        { r := r, c := c, xr := xr, xc := xc, fix := some (i, j, w'), fixSat := !wide && w' != w + a }
      else { r := r, c := c, xr := xr, xc := xc, ok := false }
    | _, _ => { r := r, c := c, xr := xr, xc := xc, ok := false }

/-- A word replaced. -/
def Tile.setWord (x : Tile) (n : Nat) (w : Int) : Tile :=
  { x with words := if w = 0 then Tbl.del x.words n else Tbl.set x.words n w }

/-- The tile after the correction of a check (R208). -/
def Tile.corrected (x : Tile) (c : Check) : Tile :=
  match c.fix with
  | none => x
  | some f =>
    let n := 128 * f.1 + f.2.1
    let y := x.setWord n f.2.2
    if c.fixSat then { y with sat := if y.sat.contains n then y.sat else y.sat ++ [n], overflow := true } else y

/-! ## Draining (R211) -/

/-- The value of word n of a tile (R211). -/
def Tile.value (x : Tile) (n : Nat) (w : Int) : FVal :=
  if x.nans.contains n then .nan false
  else if x.cls = .wide then fp32F.decode w.toNat
  else dyadic w 32

/-- The combined exponent of two scales; none where one is NaN (R54). -/
def combined (er ec : Nat) : Option Int := if er = 255 ∨ ec = 255 then none else some ((er : Int) - 127 + ((ec : Int) - 127))

/-- One element of a drain: scaled, activated, converted; a signalling NaN raises invalid (R46). Under a scale 0xFF the element is the
NaN of R54, whatever it held, and raises nothing for what it held (DEDUCED, log 71). -/
def drainElem (v : FVal) (x : Option Int) (act : Option Bank) (o : Nat) (md : Rnd) : Nat × Flags :=
  let y : FVal := match x with
    | some k => scaleVal v k
    | none => .nan false
  match act with
  | none => let z := convertOut o md y; (z.1, z.2 ||| snanFlag [y])
  | some b =>
    let r := fp32F.convert .rne y
    let q := actLane b (BitVec.ofNat 32 r.1)
    let z := convertOut o md (f32 q.1)
    (z.1, snanFlag [y] ||| r.2 ||| q.2 ||| z.2)

/-- The scales of a copy: row i and column j, of segment g (R211). -/
def rowScale (m : MxState) (mode g i : Nat) : Nat := if mode % 2 = 1 then ((m.row i).getD (128 * g) 0).toNat else 127
def colScale (m : MxState) (mode g j : Nat) : Nat :=
  if mode / 2 = 1 then ((m.row (j / 4)).getD (128 * g + 4 + j % 4) 0).toNat else 127

/-- Packs codes of `w` bits (R39). -/
def packBits (w : Nat) (cs : List Nat) : Nat := cs.foldr (fun c acc => c % 2 ^ w + 2 ^ w * acc) 0

/-- The rounding mode of an element: under srn, word j mod 4 of call j div 4 (+ `base`) of lane i. -/
def drainMode (rc : Nat) (rng : List (DWord × BitVec 128)) (base i j : Nat) : Rnd :=
  if rc = 4 then
    let p := rng.getD i (0, 0)
    let ctr : BitVec 128 := (p.2 >>> 64) <<< 64 ||| (p.2.setWidth 64 + BitVec.ofNat 64 (base + j / 4) : DWord).setWidth 128
    rndOf 4 ((rngBlock p.1 ctr).getD (j % 4) 0).toNat
  else rndOf rc 0

/-- One copy of a tile: the codes row by row, and their flags. -/
def Tile.quantised (x : Tile) (m : MxState) (fmt : Nat) (bank : Bank) (rng : List (DWord × BitVec 128)) (transposed : Bool) :
    List (List Nat) × Flags :=
  let o := fld fmt 8 4
  let rc := fld fmt 12 3
  let act : Option Bank := if fld fmt 18 2 = 1 then some bank else none
  let g := if transposed then x.seg + 1 else x.seg
  let rows := chunks 128 32 (Tbl.dense 0 4096 0 x.words)
  let out := rows.zipIdx.map fun r => r.1.zipIdx.map fun q =>
    drainElem (x.value (128 * r.2 + q.2) q.1) (combined (rowScale m x.mode g r.2) (colScale m x.mode g q.2)) act o
      (drainMode rc rng (if transposed then 32 else 0) r.2 q.2)
  (out.map fun r => r.map Prod.fst, out.flatten.foldl (fun (f : Flags) p => f ||| p.2) 0)

/-! ## The tile image (R215) -/

def clsCode (c : TileClass) : Nat :=
  match c with
  | .none => 0
  | .exact => 1
  | .wide => 2

def zeros (n : Nat) : List Byte := List.replicate n 0

/-- An entry of the reflection state in the image. -/
def entryBytes (wide : Bool) (v : Int) (mu : Nat) : List Byte :=
  if wide then natLE 8 v.toNat ++ natLE 8 mu else natLE 16 (v % 2 ^ 128).toNat

def Tile.image (x : Tile) : List Byte :=
  let wide := x.cls == .wide
  let ws := (Tbl.dense 0 4096 0 x.words).zipIdx.flatMap fun p =>
    natLE 10 (p.1 % 2 ^ 80).toNat ++
    [BitVec.ofNat 8 ((if x.sat.contains p.2 then 1 else 0) + (if x.nans.contains p.2 then 2 else 0) +
      (if x.poison.contains p.2 then 4 else 0))] ++ zeros 5
  let st : List Byte := [BitVec.ofNat 8 (clsCode x.cls), if x.overflow then 1 else 0, BitVec.ofNat 8 x.seg, BitVec.ofNat 8 x.mode]
  ws ++ st ++ zeros 12 ++
    ((List.zip (Tbl.dense 0 32 0 x.rho) (Tbl.dense 0 32 0 x.mur)).flatMap fun p => entryBytes wide p.1 p.2) ++
    ((List.zip (Tbl.dense 0 128 0 x.kappa) (Tbl.dense 0 128 0 x.muc)).flatMap fun p => entryBytes wide p.1 p.2) ++ zeros 1520

/-- The bytes of the image that leave poisoned: the reflection entries, where one of them holds a double-bit error. Which one, the model does
not record (R15, R209; DESIGN CHOICE, log 91). -/
def Tile.imageBad (x : Tile) (k : Nat) : Bool := x.badRefl && 65552 ≤ k && k < 68112

/-- A tile from an image; `free` stands for the class that a class byte above 2 leaves. Of a wide word the bits from 32 up are dropped,
and a negative word of class none counts as 0 at a first wide MXMAC (DESIGN CHOICE, log 72). -/
def tileOf (bs : List Byte) (bad : List Nat) (free : Nat) : Tile :=
  let ws := chunks 16 4096 bs
  let r := bs.drop 65536
  let st (k : Nat) : Nat := (r.getD k 0).toNat
  let c := if st 0 ≤ 2 then st 0 else free % 3
  let cls : TileClass := if c = 0 then .none else if c = 1 then .exact else .wide
  let wide := cls == .wide
  let entries (n : Nat) (xs : List Byte) : List (Int × Nat) := (chunks 16 n xs).map fun e =>
    if wide then (((leNat (e.take 8) : Nat) : Int), leNat (e.drop 8))
    else ((BitVec.ofNat 128 (leNat e)).toInt, 0)
  let ro := entries 32 (r.drop 16)
  let ka := entries 128 (r.drop 528)
  let mark (b : Nat) : List Nat := (ws.zipIdx.filter fun p => (p.1.getD 10 0).toNat.testBit b).map Prod.snd
  let dirty := (ws.any fun w => (w.drop 11).any (fun b => b != 0) || 8 ≤ (w.getD 10 0).toNat) || ((r.drop 4).take 12).any (fun b => b != 0) ||
    (r.drop 2576).any fun b => b != 0
  { cls := cls
    words := sparse (ws.map fun w => if wide then ((leNat (w.take 4) : Nat) : Int) else (BitVec.ofNat 80 (leNat (w.take 10))).toInt)
    sat := mark 0
    nans := mark 1
    poison := ((mark 2) ++ (bad.filter fun n => n < 65536).map fun n => n / 16).eraseDups
    overflow := (st 1).testBit 0
    seg := st 2 % 8
    mode := st 3 % 4
    damaged := 2 < st 0 || 3 < st 3 || dirty
    rho := sparse (ro.map Prod.fst)
    kappa := sparse (ka.map Prod.fst)
    mur := sparseN (ro.map Prod.snd)
    muc := sparseN (ka.map Prod.snd)
    badRefl := bad.any fun n => 65536 ≤ n }

end Sys2Proof.Machine
end

