-- ==== Sys2Proof/Machine/Matrix.lean ====
section
/-! DEFINITION. The matrix instructions and their engine (R198-R216). -/

namespace Sys2Proof.Machine

/-! ## Issue: exchange, the state as the wave's earlier instructions leave it, locks -/

/-- Cycles for which an exchange of MX state stalls the issuing wave: none unless the core holds another wave's (R198). -/
def State.mxDelay (s : State) : Nat :=
  match s.cc.mxHolder with
  | none => 0
  | some h => if h = (s.cur.g, s.cur.w) then 0 else 10240

/-- The core holds the current wave's MX state from now on: the issuing wave stalls for the exchange, and for `more` cycles. -/
def State.mxExchange (s : State) (more : Nat := 0) : State :=
  (if s.cc.mxHolder = some (s.cur.g, s.cur.w) then s
   else s.modCore s.cu fun c => { c with mxHolder := some (s.cur.g, s.cur.w) }).stallMore (s.mxDelay + more)

/-- The wave's MX instructions that the engine has not executed. -/
def State.mxQueued (s : State) : List MxOp := s.cc.mxq.filter fun o => o.group == s.cur.g && o.wave == s.cur.w

/-- A tile's class once the queued instructions have run (R206). -/
def State.tileClass (s : State) (t : Nat) : TileClass :=
  s.mxQueued.foldl (fun c o =>
    if o.t ≠ t then c
    else if o.kind = 9 then .none
    else if (o.kind = 7 ∨ o.kind = 8) ∧ c = .none then (pairClass (fld o.fmt.toNat 0 4) (fld o.fmt.toNat 4 4)).getD .none
    else c) (s.cw.mx.tile t).cls

/-- A tile's scale binding once the queued instructions have run; (0, 0) while a queued MXLD is still to bring it (R210). -/
def State.tileBinding (s : State) (t : Nat) : Nat × Nat :=
  s.mxQueued.foldl (fun c o => if o.t = t ∧ o.kind = 9 then (o.seg, o.mode) else if o.t = t ∧ o.kind = 4 then (0, 0) else c)
    ((s.cw.mx.tile t).seg, (s.cw.mx.tile t).mode)

/-- The format and sparsity that a slot records once the queued instructions have run (R206). -/
def State.slotFormat (s : State) (b : Nat) : Nat × Nat :=
  s.mxQueued.foldl (fun c o => if o.kind = 0 ∧ o.b = b then (fld o.fmt.toNat 4 4, fld o.fmt.toNat 16 2) else c)
    ((s.cw.mx.slot b).fmt, (s.cw.mx.slot b).spn)

/-- The ranges of checked rows: one in global memory, or one for each allocation they reach (R167, R215). -/
def spanOf (scr isWrite : Bool) (n : Nat → Nat) (ps : List (Nat × Nat × List Place)) : List OpRange :=
  if scr then
    let rs := ps.filterMap fun p => match p.2.2 with
      | .scratch g o :: _ => some (g, o, o + n p.1, p.2.1)
      | .global _ :: _ => none
      | [] => none
    ((rs.map fun r => r.1).eraseDups).filterMap fun g =>
      let mine := rs.filter fun r => r.1 == g
      match mine with
      | [] => none
      | f :: _ =>
        let lo := mine.foldl (fun m r => min m r.2.1) f.2.1
        let hi := mine.foldl (fun m r => max m r.2.2.1) f.2.2.1
        some ⟨some g, isWrite, lo, hi, (mine.foldl (fun (m : Nat × Nat) r => if r.2.1 < m.1 then (r.2.1, r.2.2.2) else m) (f.2.1, f.2.2.2)).2⟩
  else
    match ps with
    | [] => []
    | f :: _ =>
      let lo := ps.foldl (fun m p => min m p.2.1) f.2.1
      let hi := ps.foldl (fun m p => max m (p.2.1 + n p.1)) (f.2.1 + n f.1)
      [⟨none, isWrite, lo, hi, lo⟩]

/-- The locks of an operation's ranges. -/
def locksOf (g id : Nat) (rs : List OpRange) : List Lock :=
  rs.map fun r => { group := g, op := id, scratchOf := r.sp, isWrite := r.isWrite, lo := r.lo, hi := r.hi }

/-- The number of entries an instruction takes, for its wait at issue. -/
def lockNeed (scr : Bool) (ps : List (Nat × Nat × List Place)) : Nat := (spanOf scr false (fun _ => 0) ps).length

/-- An operation enters the engine's queue, counted on MXC (R200). -/
def State.mxAccept (s : State) (o : MxOp) (rs : List OpRange) (more : Nat := 0) : State :=
  let id := s.nextId
  let o := { o with id := id, group := s.cur.g, wave := s.cur.w, fmt := s.csp.fmt, exec := s.csp.exec,
                    waits := s.waveWrites s.cur.g s.cur.w, region := s.regionNow }
  let t := (s.fresh.addLocks s.cur.g (locksOf s.cur.g id rs)).modCore s.cu fun c => { c with mxq := c.mxq ++ [o] }
  ((t.modW fun W => W.addCount .mxc 1).retire).mxExchange more

/-- The address that RANGE reports: of the lowest conflicting row, and `x` where the conflict lies between the rows (R333). -/
def State.rangeAt (s : State) (scr isWrite : Bool) (n : Nat → Nat) (ps : List (Nat × Nat × List Place)) (x : Nat) : Nat :=
  (s.checkLocks scr isWrite n ps).getD x

/-- Checks addresses, then the ranges of the rows under R168, and goes on. -/
def State.mxChecked (s : State) (scr isWrite : Bool) (al : Nat) (n : Nat → Nat) (okLeaf : Leaf → Nat → Nat → Bool)
    (las : List (Nat × Nat)) (k : List (Nat × Nat × List Place) → List OpRange → State → State) : State :=
  s.checked (s.addrCheck scr al n (if isWrite then .write else .read) okLeaf las) fun ps s =>
    let rs := spanOf scr isWrite n ps
    match minList (s.rangeHits s.cur.g rs) with
    | some x => s.raise cRange 0 (s.rangeAt scr isWrite n ps x)
    | none => k ps rs s

def placesOf (ps : List (Nat × Nat × List Place)) : List Place := ps.flatMap fun p => p.2.2

/-- `%fmt` fields of the current split. -/
def State.fmtFld (s : State) (lo w : Nat) : Nat := fld s.csp.fmt.toNat lo w

/-! ## Loading (R202, R204, R205) -/

/-- The address of row `k` of rows of natural size `z`. -/
def State.rowAddr (s : State) (ad : Addr) (z k : Nat) : Nat :=
  match ad with
  | .base b d => wrap64 (((s.rdS b.val).toNat : Int) + d.toInt + (k * z : Nat))
  | .lane b c => s.addr (.lane b c) k
  | .laneDisp b c d => s.addr (.laneDisp b c d) k
  | .vreg b c x => s.addr (.vreg b c x) k

/-- The scale of the lane forms. -/
def addrScale (ad : Addr) : Option Nat :=
  match ad with
  | .base _ _ => none
  | .lane _ c => some (2 ^ c.val)
  | .laneDisp _ c _ => some (2 ^ c.val)
  | .vreg _ _ _ => none

/-- The rows of an MXLB, and its index block as row 128. -/
def State.mxlbRows (s : State) (ad : Addr) : List (Nat × Nat) :=
  let z := 16 * opWidth (s.fmtFld 4 4)
  (List.range (if s.fmtFld 16 2 = 0 then 128 else 129)).map fun k => (k, s.rowAddr ad z k)

def State.mxlbLen (s : State) (k : Nat) : Nat := if k = 128 then 16384 else 16 * opWidth (s.fmtFld 4 4)

def execMxlb (l : Fin 4) (ad : Addr) (q : Fin 2) (s : State) : Out :=
  .next (
    let z := 16 * opWidth (s.fmtFld 4 4)
    if (match addrScale ad with | some c => decide (c < z) | none => false) then s.raise cIllegal
    else
      s.mxChecked (q.val == 1) false 16 s.mxlbLen anyLeaf (s.mxlbRows ad) fun ps rs s =>
        s.mxAccept { id := 0, group := 0, wave := 0, kind := 0, b := l.val, places := placesOf ps } rs)

def execMxra (sg : Fin 8) (ad : Addr) (q : Fin 2) (s : State) : Out :=
  .next (
    s.mxChecked (q.val == 1) false 16 (fun _ => 128) anyLeaf (s.laneAddrs ad) fun ps rs s =>
      s.mxAccept { id := 0, group := 0, wave := 0, kind := 1, seg := sg.val, places := placesOf ps
                   data := ps.map fun p => (p.1, []) } rs)

/-- MXRV: the registers are read at issue (R205). -/
def execMxrv (sg : Fin 8) (v : Fin 128) (n : Fin 32) (s : State) : Out :=
  .next (
    if s.cw.v.length < v.val + n.val + 1 then s.raise cIllegal
    else
      let ls := maskLanes s.csp.exec
      s.mxAccept { id := 0, group := 0, wave := 0, kind := 2, seg := sg.val
                   data := ls.map fun l => (l, s.laneData v.val (n.val + 1) l)
                   poison := ls.flatMap fun l => ((List.range (n.val + 1)).filter fun m => s.cw.vPoison.contains (v.val + m, l)).flatMap
                     fun m => (List.range 4).map fun i => (l, 4 * m + i) } [])

/-! ## Accumulating, clearing, injecting -/

/-- A tile joins the region's written set before its MXCLR (R123). -/
def State.regionWrites (s : State) (t : Nat) : State :=
  if s.cw.region.isOpen ∧ !s.cw.region.cleared.contains t ∧ !s.cw.region.written.contains t then
    s.modW fun W => { W with region := { W.region with written := W.region.written ++ [t] } }
  else s

/-- The checks of MXMAC and MXMACS at issue (R206). -/
def State.macOk (s : State) (sparseForm : Bool) (t b seg : Nat) : Bool :=
  let a := s.fmtFld 0 4
  let bf := s.fmtFld 4 4
  let sf := s.slotFormat b
  let k := if sparseForm then 128 * 32 / spN sf.2 else 128
  let nseg := ceilDiv (k * opWidth a) 1024
  (match pairClass a bf with
   | none => false
   | some c => s.tileClass t == .none || s.tileClass t == c) &&
  seg + nseg ≤ 8 && sf.1 == bf && (if sparseForm then sf.2 != 0 && sf.2 == s.fmtFld 16 2 else sf.2 == 0)

def State.macIssue (s : State) (sparseForm : Bool) (t b seg : Nat) : State :=
  if s.macOk sparseForm t b seg then
    (s.regionWrites t).mxAccept { id := 0, group := 0, wave := 0, kind := if sparseForm then 8 else 7, t := t, b := b, seg := seg } []
  else s.raise cIllegal

def execMxmac (t b : Fin 4) (sg : Fin 8) (s : State) : Out := .next (s.macIssue false t.val b.val sg.val)
def execMxmacs (t b : Fin 4) (sg : Fin 8) (s : State) : Out := .next (s.macIssue true t.val b.val sg.val)

def execMxclr (t : Fin 4) (sg : Fin 8) (m : Fin 4) (s : State) : Out :=
  .next (
    let s := if s.cw.region.isOpen then
      s.modW fun W => { W with region := { W.region with cleared := W.region.cleared ++ [t.val] } } else s
    s.mxAccept { id := 0, group := 0, wave := 0, kind := 9, t := t.val, seg := sg.val, mode := m.val } [])

def execMxinj (t : Fin 4) (a : Fin 64) (x : Fin 8) (s : State) : Out :=
  .next (
    let v := (s.rdS a.val).toNat
    if 4 < x.val ∨ bit v 15 ∨ s.tileClass t.val = .none then s.raise cIllegal
    else if !(s.ctx s.cctx).diag then s.raise cProt
    else
      (s.regionWrites t.val).mxAccept
        { id := 0, group := 0, wave := 0, kind := 11, t := t.val, seg := fld v 0 5, mode := fld v 8 7
          val := sfld (fld v 16 48) 48 * 2 ^ (8 * x.val) } [])

/-! ## Checking a tile at issue (R208, R209, R212) -/

/-- The detail of an MXINT (R212). -/
def mxintDetail (x : Tile) (c : Check) (t : Nat) : Nat :=
  if x.damaged then 0xFFFF + 65536 * t else c.r.length + 256 * c.c.length + 65536 * t

/-- Stage 2: poison, then the check; with a correction a flicker event of 64 (R208, R209, R212). -/
def State.checkTile (s : State) (t : Nat) (k : Check → State → State) : State :=
  let x := s.cw.mx.tile t
  if x.poison ≠ [] ∨ x.badRefl then s.raise cPoison
  else
    let c := x.check
    if !c.ok then s.raise cMxint (mxintDetail x c t)
    else
      match c.fix with
      | none => k c s
      | some _ => k c ((s.modW fun W => { W with mx := W.mx.setTile t (x.corrected c) }).flicker s.cu 64)

/-- MXCHK's status (R213). -/
def chkStatus (x : Tile) (c : Check) : Nat :=
  let f := match c.fix with
    | none => 0
    | some f => 1 + 256 * f.1 + 65536 * f.2.1
  f + (if x.overflow then 4 else 0) + (if x.nans ≠ [] then 8 else 0) + (if x.sat ≠ [] then 16 else 0) +
    (if x.cls = .wide then 32 else 0) + (if x.cls = .none then 64 else 0) + 2 ^ 24 * c.xr.length + 2 ^ 32 * c.xc.length

def execMxchk (t : Fin 4) (d : Fin 64) (s : State) : Out :=
  .next (
    s.checkTile t.val fun c s =>
      let x := s.cw.mx.tile t.val
      ((s.fresh.addResult
        { id := s.nextId, kind := .vals, counter := .mxc, sregs := [d.val]
          out := [(.s d.val, BitVec.ofNat 64 (chkStatus x c))], region := s.regionNow }).retire).mxExchange)

/-! ## Draining (R211, R212) -/

/-- The rows of a drain, and for MXDRNT the transposed region as row 32. -/
def State.drainRows (s : State) (ad : Addr) (transposed : Bool) : List (Nat × Nat) :=
  let z := 16 * outWidth (s.fmtFld 8 4)
  let rows := (List.range 32).map fun i => (i, s.rowAddr ad z i)
  if transposed then rows ++ [(32, (s.rowAddr ad z 31 + z) % 2 ^ 64)] else rows

def State.drainLen (s : State) (i : Nat) : Nat :=
  if i = 32 then 512 * outWidth (s.fmtFld 8 4) else 16 * outWidth (s.fmtFld 8 4)

/-- The ranges a drain locks: its rows', and the transposed region's. -/
def State.drainRanges (s : State) (scr : Bool) (ps : List (Nat × Nat × List Place)) : List OpRange :=
  spanOf scr true s.drainLen (ps.filter fun p => p.1 != 32) ++ spanOf scr true s.drainLen (ps.filter fun p => p.1 == 32)

/-- The checks a drain makes before it waits: ILLEGAL, ALIGN, PAGE, PROT. -/
def State.drainCheck (s : State) (transposed : Bool) (t : Nat) (ad : Addr) (scr : Bool) : Checked :=
  let b := s.tileBinding t
  if transposed ∧ b.2 ≠ 0 ∧ b.1 = 7 then .fault cIllegal 0 []
  else s.addrCheck scr 64 s.drainLen .write s.plainStoreOk (s.drainRows ad transposed)

/-- Every draw of a drain is made at issue: 32 calls of each lane, 64 for MXDRNT (R51, R211). -/
def State.drainDraws (s : State) (transposed : Bool) : State :=
  if s.fmtFld 12 3 = 4 then s.modW fun W => W.bump 0xFFFFFFFF (if transposed then 64 else 32) else s

/-- A drain at issue (R211, R212). One to global memory closes the region before its tile is checked (R123, R125; log 83). -/
def State.drainIssue (s : State) (transposed : Bool) (t : Nat) (ad : Addr) (q : Nat) : State :=
  let scr := q == 1
  s.checked (s.drainCheck transposed t ad scr) fun ps s =>
    let rs := s.drainRanges scr ps
    -- the two ranges of one drain are not checked against each other
    match minList (rs.flatMap fun r => s.rangeHits s.cur.g [r]) with
    | some x => s.raise cRange 0 (s.rangeAt scr true s.drainLen ps x)
    | none =>
      let s := if scr then s else s.closeRegion
      s.checkTile t fun _ s =>
        let b := if s.cw.actB then s.cg.bankB else s.cg.bankA
        let rng := (List.range 32).map fun l => (s.cw.key.toList.getD l 0, s.cw.ctr.toList.getD l 0)
        let act := s.fmtFld 18 2 = 1
        if act ∧ s.bankBad ≠ [] then s.raise cPoison
        else
          let t := (s.drainDraws transposed).mxAccept
            { id := 0, group := 0, wave := 0, kind := if transposed then 6 else 5, t := t, places := placesOf ps
              bank := if act then b else [], rng := if s.fmtFld 12 3 = 4 then rng else [], vas := pagePairs ps } rs
            (if act then s.actDelay else 0)
          if act then t.actTake else t

def execMxdrn (t : Fin 4) (ad : Addr) (q : Fin 2) (s : State) : Out := .next (s.drainIssue false t.val ad q.val)
def execMxdrnt (t : Fin 4) (ad : Addr) (q : Fin 2) (s : State) : Out := .next (s.drainIssue true t.val ad q.val)

/-! ## Moving a tile (R215) -/

def execMxst (t : Fin 4) (b : Fin 64) (disp : Word) (q : Fin 2) (s : State) : Out :=
  .next (
    s.mxChecked (q.val == 1) true 64 (fun _ => 69632) s.plainStoreOk [(0, s.addr (.base b disp) 0)] fun ps rs s =>
      let s := if q.val = 1 then s else s.closeRegion
      s.mxAccept { id := 0, group := 0, wave := 0, kind := 3, t := t.val, places := placesOf ps, vas := pagePairs ps } rs)

def execMxld (t : Fin 4) (b : Fin 64) (disp : Word) (q : Fin 2) (s : State) : Out :=
  .next (
    s.mxChecked (q.val == 1) false 64 (fun _ => 69632) anyLeaf [(0, s.addr (.base b disp) 0)] fun ps rs s =>
      (s.regionWrites t.val).mxAccept { id := 0, group := 0, wave := 0, kind := 4, t := t.val, places := placesOf ps } rs)

/-! ## The engine -/

/-- The first byte of data that would land in a frozen frame, with its virtual page. -/
def State.frozenHit (s : State) (vas : List (Nat × Nat)) (ps : List Place) : Option Nat :=
  (ps.findSome? fun p => match p with
    | .global pa => if s.frozenAt pa then some pa else none
    | .scratch _ _ => none).map fun pa =>
      match vas.find? fun v => v.2 == pa / 65536 * 65536 with
      | some v => v.1
      | none => 0

/-- Groups bytes into writes of one line, or one 64-byte piece of an allocation, each (R192). -/
def lineSteps : Nat → List (Place × Byte) → List (List (Place × Byte))
  | 0, _ => []
  | _, [] => []
  | n + 1, (p, b) :: r =>
    let key (p : Place) : Nat × Nat := match p with
      | .global pa => (0, pa / 64)
      | .scratch g o => (g + 1, o / 64)
    let same := ((p, b) :: r).takeWhile fun x => key x.1 == key p
    same :: lineSteps n (((p, b) :: r).drop same.length)

/-- The next write of an image: the bytes of one line from byte `done` on, with their poison (R192). -/
def imageStep (ps : List Place) (image : List Byte) (bad : Nat → Bool) (done : Nat) : List (Place × Byte × Bool) :=
  let xs := ((ps.zip image).zipIdx.drop done).map fun p => (p.1.1, p.1.2, bad p.2)
  xs.take ((lineSteps 1 (xs.map fun p => (p.1, p.2.1))).headD []).length

/-- A write of an engine's operation, issued on core `u`, with its pages for a replay (R270, R332). -/
def State.protoEngine (s : State) (g w op u : Nat) (vas : List (Nat × Nat)) : GWrite :=
  { id := 0, op := op, ctx := s.ctxOf g, group := g, wave := w, unit := (s.group g).unit, home := 0, payld := .bytes [], vas := vas
    issuer := some u }

/-- Performs one step of an engine's writes. -/
def State.engineStep (s : State) (x : GWrite) (st : List (Place × Byte)) : State :=
  s.engineStore x (st.map fun p => (p.1, p.2, false))

/-- The bytes of places, and the positions of the poisoned ones. -/
def State.engineData (s : State) (ps : List Place) : List Byte × List Nat :=
  let d := ps.map s.enginePeek
  (d.map Prod.fst, (d.zipIdx.filter fun p => p.1.2).map Prod.snd)

/-- What an MX instruction does to its wave's MX state (R202-R206, R210, R214, R215). -/
def mxEffect (o : MxOp) (data : List Byte) (bad : List Nat) (free : Nat → Int) (m : MxState) : MxState :=
  match o.kind with
  | 0 =>
    let bf := fld o.fmt.toNat 4 4
    let spn := fld o.fmt.toNat 16 2
    let w := opWidth bf
    let x : BSlot := {
      fmt := bf
      spn := spn
      elems := (chunks (16 * w) 128 data).flatMap (elemsOf w 128)
      index := if spn = 0 then [] else (data.drop (2048 * w)).map BitVec.toNat
      poison := (List.range 16384).filter fun e => !bad.isEmpty && bad.any fun p =>
        (p < 2048 * w && p / (16 * w) == e / 128 && (p % (16 * w)) * 8 < (e % 128 + 1) * w && (e % 128) * w < (p % (16 * w) + 1) * 8) ||
        (2048 * w ≤ p && p - 2048 * w == e) }
    { m with slots := Tbl.set m.slots o.b { x with refl := x.reflection } }
  | 1 =>
    (o.data.zip (chunks 128 o.data.length data)).zipIdx.foldl (fun m p =>
      m.fillRow p.1.1.1 (128 * o.seg) p.1.2 ((bad.filter fun n => n / 128 == p.2).map fun n => n % 128)) m
  | 2 =>
    o.data.foldl (fun m p =>
      m.fillRow p.1 (128 * o.seg) (p.2 ++ zeros (128 - p.2.length)) ((o.poison.filter fun q => q.1 == p.1).map Prod.snd)) m
  | 4 => m.setTile o.t (tileOf data bad (free 0).natAbs)
  | 9 => m.setTile o.t { seg := o.seg, mode := o.mode }
  | 11 =>
    let x := m.tile o.t
    let n := 128 * o.seg + o.mode
    let w := Tbl.getD x.words n 0
    let w' : Int := if x.cls = .wide then
        (((fp32F.convert .rne (addVal (fp32F.decode w.toNat) (dyadic o.val 32)).1).1 : Nat) : Int)
      else clampRaw (w + o.val)
    m.setTile o.t (x.setWord n w')
  | _ => m.setTile o.t ((m.tile o.t).mac m (m.slot o.b) (fld o.fmt.toNat 0 4) o.seg o.exec free)

/-- The drain's bytes in the order of its places: the rows, then the transposed copy. -/
def drainData (o : MxOp) (m : MxState) : List Byte × Flags :=
  let x := m.tile o.t
  let w := outWidth (fld o.fmt.toNat 8 4)
  let a := x.quantised m o.fmt.toNat o.bank o.rng false
  let main := a.1.flatMap fun r => natLE (16 * w) (packBits w r)
  if o.kind = 5 then (main, a.2)
  else
    let b := x.quantised m o.fmt.toNat o.bank o.rng true
    (main ++ ((columns 128 b.1).flatMap fun c => natLE (4 * w) (packBits w c)), a.2 ||| b.2)

/-- An MX instruction completes. -/
def State.mxComplete (s : State) (g w id : Nat) : State := (s.dropLocks g id).modWave g w fun W => W.addCount .mxc (-1)

/-- An MX instruction leaves its queue and completes; the notice of its dropped writes is posted (R332). -/
def State.mxFinish (s : State) (unit : Nat) (o : MxOp) : State :=
  let d := ((s.core unit).mxq.find? fun p => p.id == o.id).bind MxOp.dropped
  ((s.postDropped o.group unit d).modCore unit fun c => { c with mxq := c.mxq.filter fun p => p.id != o.id }).mxComplete o.group o.wave o.id

/-- The next step of an MXST's writes: the bytes of one line of its tile's image. -/
def MxOp.nextStep (o : MxOp) (x : Tile) : List (Place × Byte × Bool) := imageStep o.places x.image x.imageBad o.done

/-- An MXST at the head of the queue of core `unit` writes its next line; it completes when its last write is performed (R192, R200,
R215). -/
def State.storeTile (s : State) (unit : Nat) (o : MxOp) : State :=
  let put (f : MxOp → MxOp) (s : State) : State :=
    s.modCore unit fun c => { c with mxq := c.mxq.map fun p => if p.id = o.id then f p else p }
  if o.places.length ≤ o.done then (if s.engineFlying o.group o.id then s else s.mxFinish unit o)
  else
    let st := o.nextStep ((s.wave o.group o.wave).mx.tile o.t)
    let ps := st.map Prod.fst
    if !s.placesOk unit ps || s.stillWriting o.waits ps then s
    else
      match s.frozenHit o.vas ps with
      | some va => s.engineWait o.group o.id va 4 0xFF false (put fun p => { p with paged := true })
      | none =>
        let t := put (fun p => { p with done := p.done + st.length })
          (s.engineStore (s.protoEngine o.group o.wave o.id unit o.vas) st)
        if o.places.length ≤ o.done + st.length && !t.engineFlying o.group o.id then t.mxFinish unit o else t

/-- MX_ENGINE_EXECUTE (R200): the engine executes the oldest instruction of its queue; of an MXST, its next write. -/
def execMxEngineExecute (unit : Nat) (s : State) : Out :=
  .next (
    match (s.core unit).mxq with
    | [] => s
    | o :: rest =>
      if o.paged then s.retryEngine o.group o.id
      else if o.kind = 3 then s.storeTile unit o
      else if !s.placesOk unit o.places ∨ (o.kind ≠ 5 ∧ o.kind ≠ 6 ∧ (s.stillWriting o.waits o.places ||
          s.readsHeld (s.ctxOf o.group) (remotePas o.places))) then s
      else
        let m := (s.wave o.group o.wave).mx
        if o.kind = 5 ∨ o.kind = 6 then
          let d := drainData o m
          let steps := lineSteps 65536 (o.places.zip d.1)
          let x : Drain := { id := o.id, group := o.group, wave := o.wave, steps := steps, vas := o.vas, flags := d.2, waits := o.waits
                             region := o.region }
          s.modCore unit fun c => { c with mxq := rest, drains := c.drains ++ [x] }
        else
          let d := s.engineData o.places
          let n := s.freeNo
          let free (k : Nat) : Int := ((Config.freeValue (n + k)).setWidth 80).toInt
          let s := (({ s with freeNo := n + 4096 } : State).engineTouch o.places).countReads (s.ctxOf o.group) (remotePas o.places)
          (s.modWave o.group o.wave fun W => { W with mx := mxEffect o d.1 d.2 free W.mx }).mxFinish unit o)

/-- A drain completes and ORs its flags; the notice of its dropped writes is posted (R211, R332). -/
def State.drainFinish (s : State) (unit : Nat) (d : Drain) : State :=
  let e := ((s.core unit).drains.find? fun e => e.id == d.id).bind Drain.dropped
  (((s.postDropped d.group unit e).modCore unit fun c => { c with drains := c.drains.filter fun e => e.id != d.id }).modWave d.group d.wave
    fun W => { W with fxf := W.fxf ||| d.flags }).mxComplete d.group d.wave d.id

/-- DRAIN_WRITE (R211): the next step of a drain's writes; it completes when the last one is performed. -/
def execDrainWrite (unit id : Nat) (s : State) : Out :=
  .next (
    let C := s.core unit
    match C.drains.find? fun d => d.id == id with
    | none => s
    | some d =>
      let put (f : Drain → Drain) (s : State) : State :=
        s.modCore unit fun c => { c with drains := c.drains.map fun e => if e.id = id then f e else e }
      match d.steps with
      | [] => if s.engineFlying d.group id then s else s.drainFinish unit d
      | st :: rest =>
        if d.paged then s.retryEngine d.group id
        else if !s.placesOk unit (st.map Prod.fst) ∨ s.stillWriting d.waits (st.map Prod.fst) then s
        else
          match s.frozenHit d.vas (st.map Prod.fst) with
          | some va => s.engineWait d.group id va 4 0xFF false (put fun e => { e with paged := true })
          | none =>
            let t := s.engineStep (s.protoEngine d.group d.wave id unit d.vas) st
            if rest.isEmpty && !t.engineFlying d.group id then t.drainFinish unit d else put (fun e => { e with steps := rest }) t)

end Sys2Proof.Machine
end

