-- ==== Sys2Proof/Machine/TaperOps.lean ====
section
/-! DEFINITION. Tapers (R221-R235, R306). -/

namespace Sys2Proof.Machine

/-! ## Operators (R223) -/

def loW (x : DWord) : Word := x.setWidth 32
def hiW (x : DWord) : Word := (x >>> 32).setWidth 32
def mkD (hi lo : Word) : DWord := (hi ++ lo : BitVec 64)

/-- key(y) ≥ key(x) of argmax: numeric, -0 below +0, the NaN above +∞. -/
def keyGe (y x : Word) : Bool :=
  let a := f32 y
  let b := f32 x
  if isNan a then true
  else if isNan b then false
  else if valLt b a then true
  else if valLt a b then false
  else !(isNeg a && !isNeg b)

/-- x ⊕ y, the older on the left. -/
def tapOp (op : Nat) (x y : DWord) : DWord :=
  match op with
  | 0 => x + y
  | 1 => mkD 0 (fAdd (loW x) (loW y)).1
  | 2 => if y.slt x then y else x
  | 3 => if x.slt y then y else x
  | 4 => mkD 0 (fMinMax true (loW x) (loW y)).1
  | 5 => mkD 0 (fMinMax false (loW x) (loW y)).1
  | 6 => x &&& y
  | 7 => x ||| y
  | 8 => x ^^^ y
  | 9 => mkD (fFma (loW y) (hiW x) (hiW y)).1 (fMul (loW y) (loW x)).1
  | _ => if keyGe (loW y) (loW x) then y else x

def tapIdentity (op : Nat) : DWord :=
  match op with
  | 1 => 0x80000000
  | 2 => 0x7FFFFFFFFFFFFFFF
  | 3 => 0x8000000000000000
  | 4 => 0x7F800000
  | 5 => 0xFF800000
  | 6 => 0xFFFFFFFFFFFFFFFF
  | 9 => 0x3F800000
  | 10 => 0xFFFFFFFFFF800000
  | _ => 0

def canonF (x : Word) : Word := if isNan (f32 x) then canonNan else x

/-- A contribution as it is stored (R223, R231). -/
def tapStore (op : Nat) (c : DWord) : DWord :=
  if op = 1 ∨ op = 4 ∨ op = 5 then mkD 0 (canonF (loW c))
  else if op = 9 then mkD (canonF (hiW c)) (canonF (loW c))
  else if op = 10 then mkD (hiW c) (canonF (loW c))
  else c

/-! ## The two stacks (R224, R227) -/

/-- The front stack that a flip of the back stack leaves; `acc` is the aggregate of the newer entries. -/
def flipFrom (op : Nat) : List (DWord × Bool) → DWord × Bool → List (DWord × Bool)
  | [], acc => [acc]
  | x :: r, acc => acc :: flipFrom op r (tapOp op x.1 acc.1, x.2 || acc.2)

/-- flip: back to front, newest first. -/
def Taper.flip (x : Taper) : Taper :=
  match x.back.reverse with
  | [] => x
  | b :: r => { x with front := flipFrom x.op r b, back := [], bagg := 0, baggPoison := false }

def Taper.expire (x : Taper) : Taper :=
  let y := if x.front.isEmpty then x.flip else x
  { y with front := y.front.dropLast }

/-- insert: one contribution with its mark. -/
def Taper.insert (x : Taper) (c : DWord) (mark : Bool) : Taper :=
  let y := if x.front.length + x.back.length = x.w then x.expire else x
  { y with
    bagg := if y.back.isEmpty then c else tapOp y.op y.bagg c
    baggPoison := if y.back.isEmpty then mark else y.baggPoison || mark
    back := y.back ++ [(c, mark)]
    n := y.n + 1 }

def Taper.insertAll (x : Taper) (cs : List (DWord × Bool)) : Taper := cs.foldl (fun y c => y.insert c.1 c.2) x

/-- The next front entry of a flip, the newest back entry first; after the last one the back stack is empty (R224). -/
def Taper.flipOne (x : Taper) : Taper :=
  let k := x.front.length
  match x.back[x.back.length - 1 - k]? with
  | none => x
  | some b =>
    let acc := if k = 0 then b else (tapOp x.op b.1 x.flipAcc.1, b.2 || x.flipAcc.2)
    if k + 1 = x.back.length then
      { x with front := x.front ++ [acc], back := [], bagg := 0, baggPoison := false, flipping := false, flipAcc := (0, false) }
    else { x with front := x.front ++ [acc], flipping := true, flipAcc := acc }

/-- One cycle of a flip: four entries (R225). -/
def Taper.flipCycle (x : Taper) : Taper :=
  let y := x.flipOne
  let y := if y.flipping then y.flipOne else y
  let y := if y.flipping then y.flipOne else y
  if y.flipping then y.flipOne else y

/-- A cycle of the port with the remaining lanes of a TAPIN: a flip goes on, or one that the next lane needs begins, or the next
lane is inserted (R226, R228, R306). -/
def Taper.portCycle (x : Taper) : List (Nat × DWord × Bool) → Taper × List (Nat × DWord × Bool)
  | [] => (x, [])
  | c :: r =>
    if x.flipping ∨ (x.front.isEmpty ∧ x.back.length = x.w) then (x.flipCycle, c :: r) else (x.insert c.2.1 c.2.2, r)

/-- Cycles that the flips of these insertions hold the wave for (R225, R306). -/
def Taper.hold (x : Taper) : List (DWord × Bool) → Nat
  | [] => 0
  | c :: r =>
    (if x.front.length + x.back.length = x.w ∧ x.front.isEmpty then ceilDiv x.back.length 4 else 0) + (x.insert c.1 c.2).hold r

/-- query: the value and its mark. -/
def Taper.query (x : Taper) : DWord × Bool :=
  match x.front.getLast?, x.back with
  | none, [] => (tapIdentity x.op, false)
  | none, _ :: _ => (x.bagg, x.baggPoison)
  | some f, [] => f
  | some f, _ :: _ => (tapOp x.op f.1 x.bagg, f.2 || x.baggPoison)

/-- Entries whose words hold double-bit errors are marked (R227). -/
def Taper.absorb (x : Taper) : Taper :=
  if x.storeErr.isEmpty then x
  else
    let mark (base : Nat) (xs : List (DWord × Bool)) : List (DWord × Bool) :=
      xs.zipIdx.map fun p => (p.1.1, p.1.2 || x.storeErr.contains (base + p.2))
    { x with
      front := mark 0 x.front, back := mark 512 x.back, baggPoison := x.baggPoison || x.storeErr.contains 1024, storeErr := [] }

def Group.taper (x : Group) (k : Nat) : Taper := (Tbl.getD x.tapers k {}).absorb
def State.setTaper (s : State) (g k : Nat) (y : Taper) : State := s.modGroup g fun x => { x with tapers := Tbl.set x.tapers k y }

def Taper.usable (x : Taper) : Bool := x.configured && !x.damaged

/-! ## The port (R221, R226) -/

/-- Cycles for which an exchange of tapers stalls the issuing wave: none unless the store holds another group's, as in the run of
R308, whose first taper instructions on either core stall for none (R221). -/
def State.tapDelay (s : State) : Nat :=
  match s.cc.tapHolder with
  | none => 0
  | some h => if h = s.cur.g then 0 else 4096

/-- The store holds the current group's tapers from now on: the issuing wave stalls for the exchange, and for `more` cycles. -/
def State.tapExchange (s : State) (more : Nat := 0) : State :=
  (s.modCore s.cu fun c => { c with tapHolder := some s.cur.g }).stallMore (s.tapDelay + more)

/-- The split that waits at the port before this one, if any (R226). -/
def State.portBehind (s : State) : Bool :=
  let me := (s.cur.g, s.cur.w, s.cur.sl)
  ((s.cc.portWait.takeWhile fun o => o != me).any fun o => s.standsReady o.1 o.2.1 o.2.2)

/-- The port takes the instruction when it is idle and no other instruction reached issue before it. -/
def State.portFree (s : State) (tap : Nat) : Bool :=
  !s.cc.portBusy && !s.portBehind && !(s.cg.taper tap).restoring

/-- The split joins the line at the port; one that stands in it keeps its place. -/
def State.joinPort (s : State) : State :=
  let me := (s.cur.g, s.cur.w, s.cur.sl)
  s.modCore s.cu fun c => { c with portWait := if c.portWait.contains me then c.portWait else c.portWait ++ [me] }

/-- The split waits at the port, or the port takes its instruction. -/
def State.atPort (s : State) (tap : Nat) (k : State → State) : State :=
  let me := (s.cur.g, s.cur.w, s.cur.sl)
  if s.portFree tap then
    k (s.modCore s.cu fun c => { c with portWait := c.portWait.filter fun o => o != me })
  else s.joinPort

/-- TAPCFG (R230). -/
def execTapcfg (w : Fin 16) (a : Fin 64) (s : State) : Out :=
  .next (
    let v := (s.rdS a.val).toNat
    let win := fld v 0 10
    if win = 0 ∨ 512 < win ∨ fld v 10 6 ≠ 0 ∨ 10 < fld v 16 4 ∨ v / 2 ^ 20 ≠ 0 then s.raise cIllegal
    else s.atPort w.val fun s =>
      ((s.closeRegion.setTaper s.cur.g w.val { configured := true, op := fld v 16 4, w := win }).retire).tapExchange)

/-- The contribution of lane `l`, the k-th of the instruction (R231), with its mark. -/
def State.contribution (s : State) (x : Taper) (v mode l k : Nat) : DWord × Bool :=
  let lo := s.rdVL v l
  let hi : Word :=
    match mode with
    | 0 => s.rdVL (v + 1) l
    | 1 => if x.op = 0 ∨ x.op = 2 ∨ x.op = 3 then (if lo.msb then 0xFFFFFFFF else 0) else 0
    | _ => (x.n + BitVec.ofNat 64 k).setWidth 32
  (tapStore x.op (mkD hi lo), s.cw.vPoison.contains (v, l) || (mode == 0 && s.cw.vPoison.contains (v + 1, l)))

/-- TAPIN (R231): the registers are read at issue; the port inserts the lanes in its turn. -/
def execTapin (w : Fin 16) (v : Fin 128) (m : Fin 4) (s : State) : Out :=
  .next (
    if s.cw.v.length ≤ v.val + (if m.val = 0 then 1 else 0) then s.raise cIllegal
    else if !(s.cg.taper w.val).usable ∧ s.portFree w.val then s.raise cIllegal
    else s.atPort w.val fun s =>
      let x := s.cg.taper w.val
      let cs := (maskLanes s.csp.exec).zipIdx.map fun p => (p.1, s.contribution x v.val m.val p.1 p.2)
      let s := (s.closeRegion.retire).modG fun G => { G with tapWork := some ⟨w.val, cs⟩ }
      (s.modCore s.cu fun c => { c with portWork := c.portWork ++ [s.cur.g] }).tapExchange (x.hold (cs.map Prod.snd)))

/-- A port result written to a scalar; `q`: TAPQ's, in order within its split. -/
def State.tapResult (s : State) (d : Nat) (v : DWord) (mark : Bool) (q : Option Nat) : State :=
  (s.fresh.addResult { id := s.nextId, kind := .vals, counter := .none, sregs := [d], out := [(.s d, v)], poisoned := mark
                       tap := true, tapq := q, region := s.regionNow }).retire

/-- TAPQ (R232). -/
def execTapq (w : Fin 16) (d : Fin 64) (s : State) : Out :=
  .next (
    if !(s.cg.taper w.val).usable ∧ s.portFree w.val then s.raise cIllegal
    else s.atPort w.val fun s =>
      let q := (s.cg.taper w.val).query
      (s.tapResult d.val q.1 q.2 (some s.cur.sl)).tapExchange)

/-- TAPCLR (R233). -/
def execTapclr (w : Fin 16) (s : State) : Out :=
  .next (
    let x := s.cg.taper w.val
    if !x.usable ∧ s.portFree w.val then s.raise cIllegal
    else s.atPort w.val fun s =>
      ((s.closeRegion.setTaper s.cur.g w.val { configured := true, op := x.op, w := x.w }).retire).tapExchange)

def Taper.marked (x : Taper) : Bool := x.baggPoison || x.front.any Prod.snd || x.back.any Prod.snd

/-- TAPSTAT's value (R234). -/
def Taper.stat (x : Taper) (sel : Nat) : DWord :=
  if sel = 1 then x.n
  else BitVec.ofNat 64 (x.front.length + x.back.length + 2 ^ 16 * (if x.configured then x.w else 0) + 2 ^ 26 * x.op +
    (if x.configured then 2 ^ 30 else 0) + (if x.damaged then 2 ^ 31 else 0) + (if x.marked then 2 ^ 32 else 0))

/-- TAPSTAT (R234). -/
def execTapstat (w : Fin 16) (d : Fin 64) (x : Fin 2) (s : State) : Out :=
  .next (s.atPort w.val fun s => (s.tapResult d.val ((s.cg.taper w.val).stat x.val) false none).tapExchange)

/-- TAPER_PORT_ACCEPT (R226): a cycle of the port, with the TAPIN that it has accepted first; after its last lane the port goes on
to the next, and is free where there is none. -/
def execTaperPortAccept (unit : Nat) (s : State) : Out :=
  .next (
    match (s.core unit).portWork with
    | [] => s
    | g :: rest =>
      match (s.group g).tapWork with
      | none => s.modCore unit fun c => { c with portWork := rest }
      | some k =>
        let r := ((s.group g).taper k.tap).portCycle k.lanes
        let t := s.setTaper g k.tap r.1
        if r.2.isEmpty then (t.modGroup g fun x => { x with tapWork := none }).modCore unit fun c => { c with portWork := rest }
        else t.modGroup g fun x => { x with tapWork := some { k with lanes := r.2 } })

/-! ## Saving and restoring (R235) -/

/-- The image of a taper (R235); `rest` are the remaining lanes of an interrupted TAPIN (R228). -/
def Taper.image (x : Taper) (rest : List (Nat × DWord × Bool) := []) : List Byte :=
  if x.damaged then [0, 2] ++ zeros 8510
  else if !x.configured then zeros 8512
  else
    let es (xs : List (DWord × Bool)) : List Byte := xs.flatMap fun p => natLE 8 p.1.toNat
    let fl := 1 + (if rest.isEmpty then 0 else 4) + (if x.flipping then 8 else 0)
    let lane (l : Nat) : List Byte :=
      match rest.find? fun c => c.1 == l with
      | some c => natLE 8 c.2.1.toNat
      | none => zeros 8
    [BitVec.ofNat 8 x.op, BitVec.ofNat 8 fl] ++ natLE 2 x.w ++ natLE 2 (if x.flipping then 0 else x.front.length) ++
      natLE 2 x.back.length ++ natLE 8 x.n.toNat ++ natLE 8 (if x.back.isEmpty then 0 else x.bagg.toNat) ++
      natLE 8 x.flipAcc.1.toNat ++ natLE 2 (if x.flipping then x.front.length else 0) ++
      natLE 2 (if x.flipping then x.back.length else 0) ++ natLE 4 (rest.foldl (fun n c => n + 2 ^ c.1) 0) ++ zeros 24 ++
      (List.range 32).flatMap lane ++
      es x.front ++ zeros (4096 - 8 * x.front.length) ++ es x.back ++ zeros (4096 - 8 * x.back.length)

/-- The positions of the image's poisoned bytes (R227). -/
def Taper.imagePoison (x : Taper) : List Nat :=
  let es (base : Nat) (xs : List (DWord × Bool)) : List Nat :=
    xs.zipIdx.flatMap fun p => if p.1.2 then (List.range 8).map fun i => base + 8 * p.2 + i else []
  (if x.baggPoison then (List.range 8).map fun i => 16 + i else []) ++ es 320 x.front ++ es 4416 x.back

/-- The image of a group's taper that a pre-emption saves in the pool (R87, R228, R309). -/
def Group.savedImage (x : Group) (k : Nat) : List Byte :=
  (x.taper k).image (match x.tapWork with
    | some w => if w.tap = k then w.lanes else []
    | none => [])

/-- The taper that an image leaves; `bad` are the positions of poisoned bytes. Poison in its first 16 bytes marks no entry (log 41). -/
def taperOf (bs : List Byte) (bad : List Nat) : Taper :=
  let n (k w : Nat) : Nat := leNat ((bs.drop k).take w)
  let op := n 0 1
  let fl := n 1 1
  let w := n 2 2
  let nf := n 4 2
  let nb := n 6 2
  let clean (a b : Nat) : Bool := ((bs.drop a).take (b - a)).all fun x => x == 0
  if bit fl 1 then { damaged := true }
  else if !bit fl 0 then (if bs.all fun x => x == 0 then {} else { damaged := true })
  else if 4 ≤ fl ∨ 10 < op ∨ w = 0 ∨ 512 < w ∨ w < nf + nb ∨ (nb = 0 ∧ n 16 8 ≠ 0) ∨ !clean 24 320 ∨
      !clean (320 + 8 * nf) 4416 ∨ !clean (4416 + 8 * nb) 8512 then { damaged := true }
  else
    let mark (k : Nat) : Bool := bad.any fun p => k ≤ p && p < k + 8
    let es (base len : Nat) : List (DWord × Bool) :=
      (List.range len).map fun k => (BitVec.ofNat 64 (n (base + 8 * k) 8), mark (base + 8 * k))
    { configured := true, op := op, w := w, n := BitVec.ofNat 64 (n 8 8), front := es 320 nf, back := es 4416 nb
      bagg := BitVec.ofNat 64 (n 16 8), baggPoison := mark 16 }

/-- TAPRST cannot read its image yet: a write of the wave to it is still to be performed (R192), or its bytes are not reached. -/
def State.restoreWaits (s : State) (ps : List Place) : Bool :=
  s.stillWriting (s.waveWrites s.cur.g s.cur.w) ps || !s.placesOk s.cu ps || s.readsHeld s.cctx (remotePas ps)

/-- TAPSAV and TAPRST take their locks and enter the engine, counted on CPC. -/
def State.tapMove (s : State) (isSave : Bool) (tap : Nat) (b : Fin 64) (disp : Word) (q : Nat) : State :=
  s.mxChecked (q == 1) isSave 64 (fun _ => 8512) (if isSave then s.plainStoreOk else anyLeaf) [(0, s.addr (.base b disp) 0)]
    fun ps rs s =>
      if !isSave && s.restoreWaits (placesOf ps) then s.joinPort
      else s.atPort tap fun s =>
        let s := if isSave then s else s.closeRegion
        let id := s.nextId
        let x := s.cg.taper tap
        let d := if isSave then (x.image, x.imagePoison) else s.engineData (placesOf ps)
        let s := if isSave then s else (s.engineTouch (placesOf ps)).countReads s.cctx (remotePas (placesOf ps))
        let o : TapOp := { id := id, wave := s.cur.w, unit := s.cu, tap := tap, isSave := isSave, image := d.1, poison := d.2, places := placesOf ps
                           vas := pagePairs ps, waits := s.waveWrites s.cur.g s.cur.w }
        let s := (s.fresh.addLocks s.cur.g (locksOf s.cur.g id rs)).modG fun G => { G with tapOps := G.tapOps ++ [o] }
        let s := if isSave then s else s.setTaper s.cur.g tap { x with restoring := true }
        ((s.modW fun W => W.addCount .cpc 1).retire).tapExchange

def execTapsav (w : Fin 16) (b : Fin 64) (disp : Word) (q : Fin 2) (s : State) : Out := .next (s.tapMove true w.val b disp q.val)
def execTaprst (w : Fin 16) (b : Fin 64) (disp : Word) (q : Fin 2) (s : State) : Out := .next (s.tapMove false w.val b disp q.val)

/-- A taper save or restore leaves its engine; the notice of its dropped writes is posted (R332). -/
def State.tapFinish (s : State) (g : Nat) (o : TapOp) : State :=
  let d := ((s.group g).tapOps.find? fun p => p.id == o.id).bind TapOp.dropped
  (((s.postDropped g o.unit d).dropLocks g o.id).modGroup g fun x => { x with tapOps := x.tapOps.filter fun p => p.id != o.id }).modWave g o.wave
    fun W => W.addCount .cpc (-1)

def State.modTapOp (s : State) (g id : Nat) (f : TapOp → TapOp) : State :=
  s.modGroup g fun x => { x with tapOps := x.tapOps.map fun p => if p.id = id then f p else p }

/-- The next step of a taper save: the bytes of one line of the image, with their poison (R192). -/
def TapOp.nextStep (o : TapOp) : List (Place × Byte × Bool) :=
  imageStep o.places o.image (fun k => o.poison.contains k) o.done

/-- TAPER_SAVE_OR_RESTORE_COMPLETE (R192, R235): a save writes its next line, and is complete when its last write is performed; a restore
replaces the taper's state. -/
def execTaperSaveOrRestoreComplete (g id : Nat) (s : State) : Out :=
  .next (
    match (s.group g).tapOps.find? fun o => o.id == id with
    | none => s
    | some o =>
      let u := (s.group g).unit
      if o.isSave && o.image.length ≤ o.done then (if s.engineFlying g id then s else s.tapFinish g o)
      else if s.engineHeld g then s
      else if o.paged then s.retryEngine g id
      else if o.isSave then
        let st := o.nextStep
        let ps := st.map Prod.fst
        if !s.placesOk u ps ∨ s.stillWriting o.waits ps then s
        else
          match s.frozenHit o.vas ps with
          | some va => s.engineWait g id va 4 0xFF false fun s => s.modTapOp g id fun p => { p with paged := true }
          | none =>
            let t := (s.engineStore (s.protoEngine g o.wave id o.unit o.vas) st).modTapOp g id fun p => { p with done := p.done + st.length }
            if o.image.length ≤ o.done + st.length && !t.engineFlying g id then t.tapFinish g o else t
      else if !s.placesOk u o.places ∨ s.stillWriting o.waits o.places then s
      else (s.setTaper g o.tap (taperOf o.image o.poison)).tapFinish g o)

end Sys2Proof.Machine
end

