-- ==== Sys2Proof/Machine/Issue.lean ====
section
/-! DEFINITION. ISSUE: entering clauses (R18-R22), fetch and decoding, the limits of R33 and R36, what an instruction waits for at
issue (R20, R26, R114, R183), STALL (R25), and the schedulers' choice (R115, R116). -/

namespace Sys2Proof.Machine

/-! ## What an instruction reads and writes (R25, R26, R33) -/

/-- Registers an instruction reads (vector registers with the lanes whose words its result takes) and writes. -/
structure Uses where
  rv : List (Nat × Word) := []
  wv : List Nat := []
  rs : List Nat := []
  ws : List Nat := []
  rm : List Nat := []
  wm : List Nat := []
  deriving DecidableEq, Repr

def Uses.and (a b : Uses) : Uses :=
  ⟨a.rv ++ b.rv, a.wv ++ b.wv, a.rs ++ b.rs, a.ws ++ b.ws, a.rm ++ b.rm, a.wm ++ b.wm⟩

/-- A vector instruction reads its sources in every lane (R129). -/
def Uses.everyLane (u : Uses) : Uses := { u with rv := u.rv.map fun p => (p.1, 0xFFFFFFFF) }

/-- `k` registers from `r`, in the lanes `e`. -/
def regsFrom (e : Word) (r k : Nat) : List (Nat × Word) := (List.range k).map fun j => (r + j, e)

def numsFrom (r k : Nat) : List Nat := (List.range k).map fun j => r + j

def addrUses (e : Word) (ad : Addr) : Uses :=
  { rs := [addrSbase ad], rv := (addrVreg ad).toList.map fun r => (r, e) }

def aaddrUses (e : Word) (ad : AAddr) : Uses :=
  { rs := [aaddrSbase ad], rv := (aaddrVreg ad).toList.map fun r => (r, e) }

def opaUses (e : Word) (a : OpA) : Uses :=
  match a with
  | .vreg r => { rv := [(r.val, e)] }
  | .sreg r => { rs := [r.val] }
  | .short _ => {}

/-- A vector instruction of two sources. -/
def v3Uses (e : Word) (d a b : Fin 128) : Uses := { rv := [(a.val, e), (b.val, e)], wv := [d.val] }
def v2Uses (e : Word) (d a : Fin 128) : Uses := { rv := [(a.val, e)], wv := [d.val] }
def viUses (e : Word) (d : Fin 128) (a : OpA) : Uses := { opaUses e a with wv := [d.val] }
def s3Uses (d a b : Fin 64) : Uses := { rs := [a.val, b.val], ws := [d.val] }
def s2Uses (d a : Fin 64) : Uses := { rs := [a.val], ws := [d.val] }
def mUses (d a b : Fin 8) : Uses := { rm := [a.val, b.val], wm := [d.val] }
def voteUses (d : Fin 64) (a : Fin 8) : Uses := { rm := [a.val], ws := [d.val] }
def atomUses (e : Word) (v : Fin 128) (ad : AAddr) (t : Fin 4) : Uses :=
  let k := if t.val < 2 then 1 else 2
  (aaddrUses e ad).and { rv := regsFrom e v.val k, wv := numsFrom v.val k }
def loadUses (e : Word) (v : Fin 128) (ad : Addr) (q : Fin 4) : Uses := (addrUses e ad).and { wv := numsFrom v.val (2 ^ q.val) }
def storeUses (e : Word) (v : Fin 128) (ad : Addr) (q : Fin 4) : Uses := (addrUses e ad).and { rv := regsFrom e v.val (2 ^ q.val) }

/-- The lanes that a permutation reads. -/
def lanesRead (e : Word) (f : Nat → Nat) : Word := maskOf fun k => (maskLanes e).any fun l => f l == k

/-- What an instruction reads and writes, for the current split. -/
def State.uses (s : State) (i : Instr) : Uses :=
  let e := s.csp.exec
  let all : Word := 0xFFFFFFFF
  match i with
  | .brc a _ => { rs := [a.val] }
  | .bdiv m _ _ => { rm := [m.val] }
  | .call d _ => { ws := [d.val] }
  | .ret a => { rs := [a.val] }
  | .setfmtScalar a => { rs := [a.val] }
  | .getfmt d => { ws := [d.val] }
  | .mrst m => { rm := [m.val] }
  | .mand d a b => mUses d a b
  | .mor d a b => mUses d a b
  | .mxor d a b => mUses d a b
  | .mnot d a => { rm := [a.val], wm := [d.val] }
  | .msav d => { wm := [d.val] }
  | .mpopc d a => voteUses d a
  | .voteAny d a => voteUses d a
  | .voteAll d a => voteUses d a
  | .voteBallot d a => voteUses d a
  | .sadd d a b => s3Uses d a b
  | .ssub d a b => s3Uses d a b
  | .smul d a b => s3Uses d a b
  | .smulhI64 d a b => s3Uses d a b
  | .smulhN64 d a b => s3Uses d a b
  | .sand d a b => s3Uses d a b
  | .sor d a b => s3Uses d a b
  | .sxor d a b => s3Uses d a b
  | .scmp d a b _ => s3Uses d a b
  | .sshl d a b => s3Uses d a b
  | .sshr d a b => s3Uses d a b
  | .ssra d a b => s3Uses d a b
  | .ssel d a b => { rs := [d.val, a.val, b.val], ws := [d.val] }
  | .smov d a => s2Uses d a
  | .srd d _ => { ws := [d.val] }
  | .swr _ a => { rs := [a.val] }
  | .saddImm d a _ => s2Uses d a
  | .sandImm d a _ => s2Uses d a
  | .scmpImm d a _ _ => s2Uses d a
  | .smovImm d _ => { ws := [d.val] }
  | .sshlImm d a _ => s2Uses d a
  | .sshrImm d a _ => s2Uses d a
  | .caprd d a _ => s2Uses d a
  | .noteGet d => { ws := [d.val, d.val + 1] }
  | .noteCnt d _ => { ws := [d.val] }
  | .ctxNew d a => s2Uses d a
  | .ctxSw d a _ => s2Uses d a
  | .ctxEnd d a => s2Uses d a
  | .exitK a _ => { rs := [a.val] }
  | .vaddI32 d a b => v3Uses e d a b
  | .vsubI32 d a b => v3Uses e d a b
  | .vmulI32 d a b => v3Uses e d a b
  | .vmulhI32 d a b => v3Uses e d a b
  | .vmulhN32 d a b => v3Uses e d a b
  | .vmadI32 d a b => (v3Uses e d a b).and { rv := [(d.val, e)] }
  | .vminI32 d a b => v3Uses e d a b
  | .vmaxI32 d a b => v3Uses e d a b
  | .vminN32 d a b => v3Uses e d a b
  | .vmaxN32 d a b => v3Uses e d a b
  | .vand d a b => v3Uses e d a b
  | .vor d a b => v3Uses e d a b
  | .vxor d a b => v3Uses e d a b
  | .vshl d a b => v3Uses e d a b
  | .vshr d a b => v3Uses e d a b
  | .vsra d a b => v3Uses e d a b
  | .vaddI32Vi d a _ => viUses e d a
  | .vsubI32Vi d a _ => viUses e d a
  | .vmulI32Vi d a _ => viUses e d a
  | .vandVi d a _ => viUses e d a
  | .vorVi d a _ => viUses e d a
  | .vxorVi d a _ => viUses e d a
  | .vshlVi d a _ => viUses e d a
  | .vshrVi d a _ => viUses e d a
  | .vsraVi d a _ => viUses e d a
  | .vmovI32 d a => v2Uses e d a
  | .vmovI32Vi d a => viUses e d a
  | .vsel d m b => { rv := [(b.val, e &&& s.rdM m.val)], wv := [d.val], rm := [m.val] }
  | .vbfe d a b => v3Uses e d a b
  | .vbfi d a b => (v3Uses e d a b).and { rv := [(d.val, e)] }
  | .vcmp m _ a b => { rv := [(a.val, e), (b.val, e)], wm := [m.val] }
  | .vcmpVi m _ a _ => { opaUses e a with wm := [m.val] }
  | .vaddI16x2 d a b => v3Uses e d a b
  | .vsubI16x2 d a b => v3Uses e d a b
  | .vaddI8x4 d a b => v3Uses e d a b
  | .vsubI8x4 d a b => v3Uses e d a b
  | .vfadd d a b => v3Uses e d a b
  | .vfsub d a b => v3Uses e d a b
  | .vfmul d a b => v3Uses e d a b
  | .vfma d a b => (v3Uses e d a b).and { rv := [(d.val, e)] }
  | .vfmin d a b => v3Uses e d a b
  | .vfmax d a b => v3Uses e d a b
  | .vfcmp m _ a b => { rv := [(a.val, e), (b.val, e)], wm := [m.val] }
  | .vfaddVi d a _ => viUses e d a
  | .vfmulVi d a _ => viUses e d a
  | .vfcmpVi m _ a _ => { opaUses e a with wm := [m.val] }
  | .vcvt d a _ _ => v2Uses e d a
  | .vqnt d a b =>
    let k := min (32 / outWidth s.ofmt) (s.alloc - a.val)
    { rv := (b.val, e) :: regsFrom e a.val k, wv := [d.val] }
  | .vdqnt d a b =>
    let k := min (32 / outWidth s.ofmt) (s.alloc - d.val)
    { rv := [(a.val, e), (b.val, e)], wv := numsFrom d.val k }
  | .vexp2 d a => v2Uses e d a
  | .vlog2 d a => v2Uses e d a
  | .vrcp d a => v2Uses e d a
  | .vrsq d a => v2Uses e d a
  | .vsin d a => v2Uses e d a
  | .vcos d a => v2Uses e d a
  | .vtanh d a => v2Uses e d a
  | .vact d a => v2Uses e d a
  | .actld b _ _ => { rs := [b.val] }
  | .rng d => { wv := numsFrom d.val 4 }
  | .rngskip a => { rv := regsFrom e a.val 4 }
  | .rngset a b => { rv := regsFrom e a.val 2 ++ regsFrom e b.val 4 }
  | .vshfl d a b =>
    let y := s.rdV b.val
    { rv := [(a.val, lanesRead e fun l => (y.lane l).toNat % 32), (b.val, e)], wv := [d.val] }
  | .vbcast d a n =>
    let k := if n.val = 0x40 then (maskLanes e).headD 0 else n.val
    { rv := [(a.val, lanesRead e fun _ => k)], wv := [d.val] }
  | .vred d a _ => v2Uses e d a
  | .vscan d a _ => v2Uses e d a
  | .vrot d a n => { rv := [(a.val, lanesRead e fun l => (l + n.val) % 32)], wv := [d.val] }
  | .vbal d m => { wv := [d.val], rm := [m.val] }
  | .xsend a k _ => if k.val = 0 then { rv := [(a.val, all)] } else {}
  | .xrecv d k _ => if k.val = 0 then { wv := [d.val] } else {}
  | .ldg v ad q => loadUses e v ad q
  | .stg v ad q => storeUses e v ad q
  | .ldsp v ad q => loadUses e v ad q
  | .stsp v ad q => storeUses e v ad q
  | .ldk v ad q => loadUses e v ad q
  | .cas v ad t _ _ =>
    let k := if t.val < 2 then 1 else 2
    (aaddrUses e ad).and { rv := regsFrom e v.val (2 * k), wv := numsFrom v.val k }
  | .atomAdd v ad t _ _ => atomUses e v ad t
  | .atomMin v ad t _ _ => atomUses e v ad t
  | .atomMax v ad t _ _ => atomUses e v ad t
  | .atomAnd v ad t _ _ => atomUses e v ad t
  | .atomOr v ad t _ _ => atomUses e v ad t
  | .atomXor v ad t _ _ => atomUses e v ad t
  | .atomExch v ad t _ _ => atomUses e v ad t
  | .atomFadd v ad _ _ => atomUses e v ad 0
  | .cpy _ _ c d _ _ => { rs := [c.val, d.val] }
  | .cpyg _ _ c d _ _ _ => { rs := [c.val, d.val] }
  | .cpys _ _ c d _ _ _ => { rs := [c.val, d.val] }
  | .fwait d _ => { ws := [d.val] }
  | .ftest d _ => { ws := [d.val] }
  | .mxlb _ ad _ => addrUses all ad
  | .mxra _ ad _ => addrUses e ad
  | .mxrv _ v n => { rv := regsFrom e v.val (min (n.val + 1) (s.alloc - v.val)) }
  | .mxst _ b _ _ => { rs := [b.val] }
  | .mxld _ b _ _ => { rs := [b.val] }
  | .mxdrn _ ad _ => addrUses all ad
  | .mxdrnt _ ad _ => addrUses all ad
  | .mxchk _ d => { ws := [d.val] }
  | .mxinj _ a _ => { rs := [a.val] }
  | .tapcfg _ a => { rs := [a.val] }
  | .tapin _ v m => { rv := regsFrom e v.val (min (if m.val = 0 then 2 else 1) (s.alloc - v.val)) }
  | .tapq _ d => { ws := [d.val] }
  | .tapsav _ b _ _ => { rs := [b.val] }
  | .taprst _ b _ _ => { rs := [b.val] }
  | .tapstat _ d _ => { ws := [d.val] }
  | .tnow d a => { ws := [d.val, a.val] }
  | .pub v ad _ => (addrUses e ad).and { rv := [(v.val, e)] }
  | .ldat v ad st md => (addrUses e ad).and { wv := [v.val], rs := [st.val], wm := [md.val] }
  | .sig v ad =>
    let l : Word := BitVec.ofNat 32 ((maskLanes e).take 1 |>.foldl (fun _ l => 2 ^ l) 0)
    (addrUses l ad).and { rv := regsFrom l v.val 2 }
  | .barArv d _ => { ws := [d.val] }
  | .barArvCount d a _ => s2Uses d a
  | .barWait a _ => { rs := [a.val] }
  | .mbxSend d a b _ => s3Uses d a b
  | .mbxWait d _ => { ws := [d.val] }
  | .rett m => if m.val = 2 then { rs := [62] } else {}
  | .launch d a b => s3Uses d a b
  | .fqPop d a => { rs := [a.val], ws := numsFrom d.val 4 }
  | .fqDone d a _ => s2Uses d a
  | .tlbinv d a b _ => s3Uses d a b
  | .snap d a => s2Uses d a
  | _ => {}

/-- Every vector register lies below the allocation; the group registers of VQNT, VDQNT, MXRV and TAPIN are judged in their
entries (R33, R141, R205, R231). -/
def Uses.allocOk (u : Uses) (alloc : Nat) : Bool := (u.rv.all fun p => p.1 < alloc) && u.wv.all fun r => r < alloc

/-- A result of the wave is pending in a register that the instruction reads or overwrites (R26). -/
def Wave.pendingOn (x : Wave) (u : Uses) : Bool :=
  x.results.any fun r =>
    (r.vregs.any fun k => (u.rv.any fun p => p.1 == k) || u.wv.contains k) ||
    (r.sregs.any fun k => k != 0 && (u.rs.contains k || u.ws.contains k)) ||
    (r.mregs.any fun k => u.rm.contains k || u.wm.contains k)

/-- The instruction reads a register whose newest producer is not yet readable (R25). -/
def Wave.readsEarly (x : Wave) (c : Nat) (u : Uses) : Bool :=
  let es := x.inflight.reverse
  (u.rv.any fun p => (maskLanes p.2).any fun l => tooEarly c (.v p.1 l) es) ||
  (u.rs.any fun r => r != 0 && tooEarly c (.s r) es) || u.rm.any fun r => tooEarly c (.m r) es

/-- A poisoned source word: a scalar, a mask, or a vector register's in a lane the instruction reads (R15). -/
def Wave.readsPoison (x : Wave) (u : Uses) : Bool :=
  (u.rv.any fun p => x.vPoison.any fun q => q.1 == p.1 && p.2.getLsbD q.2) ||
  (u.rs.any fun r => x.sPoison.contains r) || u.rm.any fun r => x.mPoison.contains r

/-! ## Classes, ports, counters (R20, R21, R35, R115, R183) -/

/-- The clause class of a (major, function) pair; none: any. -/
def classOf (major fn : Nat) : Option Nat :=
  match major with
  | 0x00 => if fn = 0 ∨ fn = 4 then none else some 4
  | 0x01 => if fn = 4 ∨ fn = 5 ∨ fn = 6 then none else some 4
  | 0x02 => none
  | 0x04 => none
  | 0x05 => none
  | 0x06 => none
  | 0x08 => some 5
  | 0x09 => some 5
  | 0x28 => some 1
  | 0x29 => some 1
  | 0x2A => some 1
  | 0x30 => some 2
  | 0x31 => some 2
  | 0x38 => some 3
  | 0x3C => some 1
  | 0x3D => some 4
  | 0x3E => some 5
  | _ => some 0

/-- Issue ports: 0 none, 1 vector, 2 memory, 3 matrix, 4 taper, 5 control and system; 9 a word that never pairs. -/
def portOf (major : Nat) : Nat :=
  if 0x10 ≤ major ∧ major ≤ 0x18 then 1
  else if major = 0x28 ∨ major = 0x29 ∨ major = 0x2A ∨ major = 0x3C then 2
  else if major = 0x30 ∨ major = 0x31 then 3
  else if major = 0x38 then 4
  else if major = 0x02 ∨ major = 0x04 ∨ major = 0x05 ∨ major = 0x06 then 0
  else 5

/-- Functions assigned in a major (R35). -/
def functionsOf (major : Nat) : Nat :=
  match major with
  | 0x00 => 8 | 0x01 => 8 | 0x02 => 4 | 0x04 => 8 | 0x05 => 7 | 0x06 => 6 | 0x08 => 3 | 0x09 => 4 | 0x10 => 8 | 0x11 => 8
  | 0x12 => 8 | 0x13 => 8 | 0x14 => 4 | 0x15 => 8 | 0x16 => 5 | 0x17 => 7 | 0x18 => 8 | 0x28 => 7 | 0x29 => 8 | 0x2A => 6
  | 0x30 => 7 | 0x31 => 5 | 0x38 => 7 | 0x3C => 8 | 0x3D => 8 | 0x3E => 8
  | _ => 0

def counterOf (major fn : Nat) : Counter :=
  match major with
  | 0x28 => if fn = 5 then .none else .vmc
  | 0x29 => .vmc
  | 0x17 => if fn = 2 then .vmc else .none
  | 0x3C => if fn = 0 then .smc else if fn = 1 ∨ fn = 2 ∨ fn = 7 then .vmc else .none
  | 0x08 => .smc
  | 0x3E => if fn = 2 ∨ fn = 3 then .smc else .none
  | 0x3D => if fn = 6 then .smc else .none
  | 0x30 => .mxc
  | 0x31 => .mxc
  | 0x2A => if fn < 3 then .cpc else .none
  | 0x38 => if fn = 4 ∨ fn = 5 then .cpc else .none
  | _ => .none

/-- A FENCE of the wave holds the instruction (R183). -/
def heldByFence (major fn : Nat) : Bool :=
  match major with
  | 0x28 => true
  | 0x29 => true
  | 0x2A => true
  | 0x30 => true
  | 0x38 => fn == 4 || fn == 5
  | 0x3C => fn == 1 || fn == 2 || fn == 5 || fn == 7
  | 0x17 => fn == 2
  | 0x3E => fn == 2
  | _ => false

/-- The committing instructions (R123). -/
def commits (i : Instr) : Bool :=
  match i with
  | .stg _ _ _ | .cas _ _ _ _ _ | .atomAdd _ _ _ _ _ | .atomMin _ _ _ _ _ | .atomMax _ _ _ _ _ | .atomAnd _ _ _ _ _
  | .atomOr _ _ _ _ _ | .atomXor _ _ _ _ _ | .atomExch _ _ _ _ _ | .atomFadd _ _ _ _ | .sig _ _ | .pub _ _ _ | .pubtxB _
  | .pubtxC | .pubtxA | .cpys _ _ _ _ _ _ _ | .fcan _ | .tapin _ _ _ | .tapcfg _ _ | .tapclr _ | .taprst _ _ _ _
  | .mbxSend _ _ _ _ | .mbxWait _ _ | .barJoin _ | .barLeave _ | .barArv _ _ | .barArvCount _ _ _ | .barWait _ _ | .barSync _
  | .dbar | .launch _ _ _ | .exit | .yieldR _ | .xsend _ _ _ | .xrecv _ _ _ | .noteGet _ | .actld _ _ _ | .actsw | .rngset _ _
  | .rngskip _ | .halt | .exitK _ _ | .ctxNew _ _ | .ctxSw _ _ _ | .ctxEnd _ _ | .fqPop _ _ | .fqDone _ _ _ | .tlbinv _ _ _ _
  | .snap _ _ => true
  | .cpy _ _ _ _ e _ => e.val == 1 || e.val == 2
  | .mxdrn _ _ q => q.val != 1
  | .mxdrnt _ _ q => q.val != 1
  | .mxst _ _ _ q => q.val != 1
  | .noteCnt _ x => x.val == 1
  | .swr n _ => n.val == 0x0E
  | _ => false

/-! ## What an instruction waits for at issue -/

def State.locksLeft (s : State) : Nat := 32 - s.lockCount s.cu

/-- The lock entries that rows would take; none where they fault. -/
def State.rowsNeed (s : State) (scr : Bool) (al : Nat) (n : Nat → Nat) (acc : Acc) (okLeaf : Leaf → Nat → Nat → Bool)
    (las : List (Nat × Nat)) : Option (List (Nat × Nat × List Place)) :=
  match s.addrCheck scr al n acc okLeaf las with
  | .ok ps _ => if (minList (s.rangeHits s.cur.g (spanOf scr (acc == .write) n ps))).isSome then none else some ps
  | .fault _ _ _ => none
  | .page _ _ _ _ _ => none
  | .refused => none

/-- Earlier accesses of this core's waves to bytes of the group's allocation that the bank has not performed. -/
def State.listBusy (s : State) (off n : Nat) : Bool :=
  s.memory.writes.any fun x => x.unit == s.cu && !x.engine && (List.range (4 * n)).any fun i => x.touches (.scratch s.cur.g (off + i))

def State.copyWaits (s : State) (h ch : Nat) (k : CopyChk) : Bool :=
  match k with
  | .fault _ _ => false
  | .poison => false
  | .ok _ rs => (s.cw.handle h).isPending || 12 ≤ (s.cg.copies.filter fun c => c.ch == ch).length || s.locksLeft < rs.length

/-- An MXLD of the tile is queued (R206). -/
def State.tileLoading (s : State) (t : Nat) : Bool := s.mxQueued.any fun o => o.kind == 4 && o.t == t

def State.queueFull (s : State) : Bool := 8 ≤ s.cc.mxq.length

def State.mxWaits (s : State) (scr : Bool) (need : Option (List (Nat × Nat × List Place))) : Bool :=
  match need with
  | none => false
  | some ps => s.queueFull || s.locksLeft < lockNeed scr ps

def State.drainWaits (s : State) (transposed : Bool) (t : Fin 4) (ad : Addr) (q : Fin 2) : Bool :=
  let scr := q.val == 1
  match s.drainCheck transposed t.val ad scr with
  | .ok ps _ => s.cw.mxc != 0 || s.queueFull || s.locksLeft < (s.drainRanges scr ps).length
  | .fault _ _ _ => false
  | .page _ _ _ _ _ => false
  | .refused => true

/-- A NOTE.GET of the wave has not taken its entry: what it acquires is not read before (R302, R305; DEDUCED, log 70). -/
def Wave.awaitsNotice (x : Wave) : Bool :=
  x.results.any fun r =>
    match r.kind with
    | .noteGet _ => true
    | .load _ | .ldk _ | .atomic _ _ _ | .vals | .tnow _ _ | .ldat _ _ _ | .actld _ | .launch _ _ | .mbx _ _ => false

/-- The instruction waits at issue, and joins no line of waiting splits. -/
def State.issueWaits (s : State) (i : Instr) : Bool :=
  match i with
  | .cpy a b c d e len =>
    s.copyWaits a.val b.val (let x := s.cpyArgs a b c d e len.val; s.cpyCheck e.val x.dst x.src len.val)
  | .cpyg a b c d e off n =>
    s.listBusy off.val n.val ||
    s.copyWaits a.val b.val (s.cpygCheck true (s.rdS c.val).toNat (s.rdS d.val).toNat off.val n.val (elemSize e.val))
  | .cpys a b c d e off n =>
    s.listBusy off.val n.val ||
    s.copyWaits a.val b.val (s.cpygCheck false (s.rdS d.val).toNat (s.rdS c.val).toNat off.val n.val (elemSize e.val))
  | .mxlb _ ad q => s.mxWaits (q.val == 1) (s.rowsNeed (q.val == 1) 16 s.mxlbLen .read anyLeaf (s.mxlbRows ad))
  | .mxra _ ad q => s.mxWaits (q.val == 1) (s.rowsNeed (q.val == 1) 16 (fun _ => 128) .read anyLeaf (s.laneAddrs ad))
  | .mxrv _ _ _ => s.queueFull
  | .mxst _ b disp q =>
    s.mxWaits (q.val == 1) (s.rowsNeed (q.val == 1) 64 (fun _ => 69632) .write s.plainStoreOk [(0, s.addr (.base b disp) 0)])
  | .mxld _ b disp q =>
    s.mxWaits (q.val == 1) (s.rowsNeed (q.val == 1) 64 (fun _ => 69632) .read anyLeaf [(0, s.addr (.base b disp) 0)])
  | .mxdrn t ad q => s.drainWaits false t ad q
  | .mxdrnt t ad q => s.drainWaits true t ad q
  | .mxmac t _ _ => s.queueFull || s.tileLoading t.val
  | .mxmacs t _ _ => s.queueFull || s.tileLoading t.val
  | .mxclr _ _ _ => s.queueFull
  | .mxchk _ _ => s.cw.mxc != 0 || s.queueFull
  | .mxinj t _ _ => s.queueFull || s.tileLoading t.val
  | .tapsav _ b disp q =>
    match s.rowsNeed (q.val == 1) 64 (fun _ => 8512) .write s.plainStoreOk [(0, s.addr (.base b disp) 0)] with
    | some ps => s.locksLeft < lockNeed (q.val == 1) ps
    | none => false
  | .taprst _ b disp q =>
    match s.rowsNeed (q.val == 1) 64 (fun _ => 8512) .read anyLeaf [(0, s.addr (.base b disp) 0)] with
    | some ps => s.locksLeft < lockNeed (q.val == 1) ps || s.stillWriting (s.waveWrites s.cur.g s.cur.w) (placesOf ps)
    | none => false
  | .pub _ ad h =>
    match s.pubCheck ad with
    | .ok _ _ => s.pubWaits h.val
    | .fault _ _ _ => false
    | .page _ _ _ _ _ => false
    | .refused => true
  | .ldat _ ad st _ =>
    match s.ldatCheck ad (s.rdS st.val).toNat with
    | .ok _ _ => s.time.lo ≤ (s.rdS st.val).toNat
    | .fault _ _ _ => false
    | .page _ _ _ _ _ => false
    | .refused => true
  | .snap _ _ => !s.snapWalkOk
  | .srd _ n => n.val == 0x10 && s.cw.awaitsNotice
  | .caprd _ _ _ => s.cw.awaitsNotice
  | .pubtxB h => s.cw.tx.isNone && (s.cw.handle h.val).isPending
  | .pubtxC =>
    match s.openTx with
    | some x => s.time.pen ≤ (s.ctx s.cctx).penmax && x.pubs != 0 && s.holdFull
    | none => false
  | _ => false

/-- The instruction joins a line at a rendezvous slot or at the taper port and waits there: what joins. -/
inductive Line where
  | slot (k : Nat) (send : Bool)
  | port
  deriving DecidableEq, Repr

/-- The line at which an instruction is served, and whether it has to wait there. -/
abbrev AtLine := Option (Line × Bool)

/-- The taper instruction is served at the port, unless it faults. -/
def State.portLine (s : State) (tap : Fin 16) (faults : Bool) : AtLine :=
  if faults then none else some (.port, !s.portFree tap.val)

def State.lineFor (s : State) (i : Instr) : AtLine :=
  match i with
  | .xsend _ _ sg => some (.slot sg.val true, (s.cg.slot sg.val).full.isSome || s.slotBehind sg.val true)
  | .xrecv _ _ sg => some (.slot sg.val false, (s.cg.slot sg.val).full.isNone || s.slotBehind sg.val false)
  | .tapcfg w _ => s.portLine w false
  | .tapin w _ _ => s.portLine w false
  | .tapq w _ => s.portLine w false
  | .tapclr w => s.portLine w false
  | .tapstat w _ _ => s.portLine w false
  | .tapsav w b disp q =>
    s.portLine w (s.rowsNeed (q.val == 1) 64 (fun _ => 8512) .write s.plainStoreOk [(0, s.addr (.base b disp) 0)]).isNone
  | .taprst w b disp q =>
    s.portLine w (s.rowsNeed (q.val == 1) 64 (fun _ => 8512) .read anyLeaf [(0, s.addr (.base b disp) 0)]).isNone
  | _ => none

/-- The current split joins a line; one that stands in it keeps its place. -/
def State.join (s : State) (l : Line) : State :=
  match l with
  | .slot k send => s.joinSlot k send
  | .port => s.joinPort

/-! ## Entering a clause (R18-R22) -/

inductive Enter where
  | at (sp : Split) (ls : List Leaf)
  | wait
  | fault (sp : Split) (code len : Nat)
  | page (va kind level : Nat) (malformed : Bool)
  | poison
  deriving DecidableEq, Repr

/-- A malformed header (R19). -/
def headerBad (h : Nat) : Bool := fld h 28 4 == 0 || 6 ≤ fld h 25 3 || fld h 0 12 != 0

def headerWaits (h : Nat) : Thresholds := ⟨fld h 22 3, fld h 19 3, fld h 16 3, fld h 13 3⟩

def headerClause (a : DWord) (h : Nat) : Clause := { hdr := a, n := fld h 28 4, cls := fld h 25 3, chk := bit h 12, idx := 0 }

/-- Reads the header at the split's pc and goes on. -/
def State.readHeader (s : State) (sp : Split) (k : Nat → List Leaf → Enter) (ls : List Leaf) : Enter :=
  match s.rdCode sp.pc with
  | .ok h l => if headerBad h then .fault sp cIllegal (fld h 28 4 + 1) else k h (ls ++ [l])
  | .page va lv m => .page va 3 lv m
  | .prot _ => .fault sp cProt 1
  | .poison => .poison
  | .refused => .wait

/-- The split enters the clause whose header stands at its pc, once the header's wait is met (R20). -/
def State.enterHeader (s : State) (sp : Split) (ls : List Leaf) : Enter :=
  s.readHeader sp (fun h ls =>
    if (headerWaits h).met s.cw then
      .at { sp with ctx := headerClause sp.pc h, pc := sp.pc + 4, entering := .no } ls
    else .wait) ls

/-- Falling through to the header at the split's pc: the header map is consulted (R22). -/
def State.enterFall (s : State) (sp : Split) (ls : List Leaf) : Enter :=
  match s.headerBit s.cur.g (s.imgOf s.cur.g s.cur.w) sp.pc.toNat with
  | .yes l => s.enterHeader sp (ls ++ [l])
  | .no => .fault sp cBadTarget 1
  | .page va lv m => .page va 1 lv m
  | .prot _ => .fault sp cProt 1
  | .poison => .poison
  | .refused => .wait

/-- The split at its next word. -/
def State.enter (s : State) (sp : Split) : Enter :=
  match sp.entering with
  | .no => .at sp []
  | .checked => s.enterHeader sp []
  | .fall => s.enterFall sp []
  | .rejoin =>
    s.readHeader sp (fun h ls =>
      let c := headerClause sp.pc h
      if 1 < c.n then .at { sp with ctx := { c with idx := 1 }, pc := c.addr 1, entering := .no } ls
      else s.enterFall { sp with ctx := c, pc := c.next, entering := .fall } ls) []

/-! ## Fetch and decoding (R27) -/

inductive Got where
  | ok (d : Decoded) (word len : Nat) (ls : List Leaf)
  | ill (word len : Nat)
  | prot
  | page (va level : Nat) (malformed : Bool)
  | poison
  | wait                               -- the bridges refuse the fetch, or stall it (R269, R278)
  deriving DecidableEq, Repr

/-- Fetches up to `fuel` further literal words while the instruction asks for them and the clause has them. -/
def State.fetchMore (s : State) (sp : Split) (w0 : Nat) (ws : List Word) (ls : List Leaf) : Nat → Got
  | 0 => .ill w0 ws.length
  | fuel + 1 =>
    match decode ws with
    | .ok d => .ok d w0 ws.length ls
    | .error .truncated =>
      if sp.ctx.idx + ws.length < sp.ctx.n then
        match s.rdCode (sp.pc + BitVec.ofNat 64 (4 * ws.length)) with
        | .ok v l => s.fetchMore sp w0 (ws ++ [BitVec.ofNat 32 v]) (ls ++ [l]) fuel
        | .page va lv m => .page va lv m
        | .prot _ => .prot
        | .poison => .poison
        | .refused => .wait
      else .ill w0 ws.length
    | .error .unassigned => .ill w0 1
    | .error .reserved => .ill w0 ws.length
    | .error .twoLiterals => .ill w0 ws.length

/-- The instruction at the split's pc. -/
def State.fetch (s : State) (sp : Split) : Got :=
  match s.rdCode sp.pc with
  | .ok v l => s.fetchMore sp v [BitVec.ofNat 32 v] [l] 3
  | .page va lv m => .page va lv m
  | .prot _ => .prot
  | .poison => .poison
  | .refused => .wait

/-! ## What a split would do if it were chosen -/

inductive Peek where
  | wait
  | line (l : Line)                    -- it waits in a line
  | fault (sp : Split) (code len port : Nat)
  | page (sp : Split) (va kind level : Nat) (malformed : Bool)
  | poison (sp : Split) (commits : Bool) (port : Nat)
  | run (sp : Split) (i : Instr) (len stall port : Nat) (ls : List Leaf)
  deriving DecidableEq, Repr

def Peek.isReady (p : Peek) : Bool :=
  match p with
  | .wait => false
  | .line _ => false
  | .fault _ _ _ _ => true
  | .page _ _ _ _ _ => true
  | .poison _ _ _ => true
  | .run _ _ _ _ _ _ => true

def Peek.port (p : Peek) : Nat :=
  match p with
  | .wait => 0
  | .line _ => 0
  | .fault _ _ _ k => k
  | .page _ _ _ _ _ => 0
  | .poison _ _ k => k
  | .run _ _ _ _ k _ => k

/-- Stall codes as cycles (R23). -/
def stallCycles (k : Nat) : Nat := [0, 1, 3, 7].getD k 0

/-- A pair that R35 assigns has its port; a word of another never pairs (R115). -/
def wordPort (w : Nat) : Nat := if fld w 21 3 < functionsOf (fld w 24 6) then portOf (fld w 24 6) else 9

/-- MXRV, TAPIN and PUB carry the poison of their data registers as marks (R205, R231, R244): what is left of their uses. -/
def Uses.unmarked (u : Uses) (i : Instr) : Uses :=
  match i with
  | .mxrv _ _ _ => { u with rv := [] }
  | .tapin _ _ _ => { u with rv := [] }
  | .pub v _ _ => { u with rv := u.rv.filter fun p => p.1 != v.val }
  | _ => u

/-- A word of the RNG rows is poisoned in a lane of `e` (R15, R127). -/
def Wave.rngBad (x : Wave) (e : Word) : Bool := x.rngPoison.any fun p => e.getLsbD p.1

/-- A poisoned word that an instruction reads beside its register operands: of the activation bank (VACT), of the RNG rows (RNG,
RNGSKIP and what rounds with srn), of a handle register, of a token in the spill area, or of an entry of the core's range-lock table
that an access is checked against (R15). -/
def State.readsBadTable (s : State) (i : Instr) (checksLocks : Bool) : Bool :=
  (match i with
   | .vact _ a => (s.bankReads a.val).any fun k => s.bankBad.contains k
   | .rng _ => s.cw.rngBad s.csp.exec
   | .rngskip _ => s.cw.rngPoison.any fun p => p.2 < 2 && s.csp.exec.getLsbD p.1
   | .vcvt _ _ _ r => r.val == 4 && s.cw.rngBad s.csp.exec
   | .vqnt _ _ _ => s.rndCode == 4 && s.cw.rngBad s.csp.exec
   | .vdqnt _ _ _ => s.rndCode == 4 && s.cw.rngBad s.csp.exec
   | .mxdrn _ _ _ => s.rndCode == 4 && s.cw.rngBad 0xFFFFFFFF
   | .mxdrnt _ _ _ => s.rndCode == 4 && s.cw.rngBad 0xFFFFFFFF
   | .fwait _ h => s.cw.hPoison.contains h.val
   | .ftest _ h => s.cw.hPoison.contains h.val
   | .fcan h => s.cw.hPoison.contains h.val
   | .xsend a k _ => k.val == 1 && s.cw.hPoison.contains (a.val % 16)
   | .join => s.splitTokens.any fun t => t.poison && t.pending &&& s.csp.members != 0
   | .brk _ _ => s.splitTokens.any fun t => t.poison && t.pending &&& s.csp.members != 0
   | .exit => (stackTokens s.cg s.cw).any fun t => t.poison && t.pending &&& s.csp.exec != 0
   | _ => false) ||
  (checksLocks && s.groups.any fun e => e.2.unit == s.cu && !e.2.isSaved && e.2.locks.any Lock.poison)

/-- A decoded instruction at its word: the limits, the waits, STALL, poison. `s` is the state with the split at that word. -/
def State.judge (s : State) (sp : Split) (d : Decoded) (w len : Nat) (ls : List Leaf) : Peek :=
  let major := fld w 24 6
  let fn := fld w 21 3
  let port := portOf major
  let i := d.instr
  let u := s.uses i
  let W := s.cw
  if (match classOf major fn with | some c => c != sp.ctx.cls | none => false) || !i.wf || !u.allocOk s.alloc then
    .fault sp cIllegal len port
  else if W.pendingOn u || (counterOf major fn != .none && 63 ≤ W.count (counterOf major fn)) ||
      (heldByFence major fn && !W.fences.isEmpty) then .wait
  else
    match (s.lineFor i).filter fun l => l.2 || s.issueWaits i with
    | some l => .line l.1
    | none =>
      if s.issueWaits i then .wait
      else if (sp.ctx.chk || (W.chkNext.getD W.chk)) && W.readsEarly s.cyc (if port = 1 then u.everyLane else u) then
        .fault sp cStall len port
      else if W.readsPoison (u.unmarked i) || s.readsBadTable i (heldByFence major fn) then .poison sp (commits i) port
      else .run sp i len (stallCycles d.stall.val) port ls

/-- The split is kept from issuing by its group, wave or mode, whatever its next word is (R114). -/
def State.held (s : State) (u : Nat) (same : Bool) : Bool :=
  let G := s.cg
  let W := s.cw
  let p := s.csp
  !G.isPlaced || G.unit != u || G.preempt == .now || !G.mbxWaits.isEmpty || W.ended || (G.det && G.running != s.cur.w) ||
  p.mode == .frozen || (!same && s.cyc < W.nextIssue) || !p.wait.met W ||
  (match p.block with
   | .none => false
   | .pageFull => 256 ≤ (s.ctx s.cctx).fq.length
   | .fwait _ _ | .dusk _ | .bar _ _ | .barArrive _ _ | .dbar | .mbx | .ctxEnd _ _ | .fqDone _ _ _ _ | .tlbinv _ _
   | .tlbSend _ _ _ _ _ | .snap _ _ | .page _ _ => true)

/-- What a split would do. What faults, waits for a page or consumes poison before a word is decoded uses no port, but for the words
of R115 that never pair (DESIGN CHOICE, log 82). -/
def State.peek (s : State) (u g w sl : Nat) (same : Bool) : Peek :=
  let s := { s with cur := ⟨g, w, sl, 1, 0⟩ }
  if s.held u same then .wait
  else
    let sp₀ := { s.csp with wait := {}, block := .none }
    match s.enter sp₀ with
    | .wait => .wait
    | .fault sp c n => .fault sp c n (if c = cIllegal then 9 else 0)
    | .page va k lv m => .page sp₀ va k lv m
    | .poison => .poison sp₀ false 0
    | .at sp ls =>
      let t := s.modSp fun _ => sp
      match t.fetch sp with
      | .ok d w0 len ls' => t.judge sp d w0 len (ls ++ ls')
      | .ill w0 len => .fault sp cIllegal len (wordPort w0)
      | .prot => .fault sp cProt 1 0
      | .page va lv m => .page sp va 3 lv m
      | .poison => .poison sp false 0
      | .wait => .wait

/-! ## The schedulers (R115, R116) -/

/-- The live splits on a core, of one scheduler: (group, wave, split). -/
def State.splitsOn (s : State) (u k : Nat) : List (Nat × Nat × Nat) :=
  s.groups.flatMap fun e =>
    if e.2.isPlaced && e.2.unit == u then
      e.2.waves.flatMap fun w =>
        if !w.2.ended && w.2.wslot % 4 == k then w.2.splits.map fun p => (e.1, w.1, p.1) else []
    else []

/-- Every wave on a core takes the steps of its fences whose conditions hold (R183). -/
def State.settleCore (s : State) (u : Nat) : State :=
  s.groups.foldl (fun t e =>
    if e.2.isPlaced && e.2.unit == u then
      e.2.waves.foldl (fun t w => if w.2.fences.isEmpty then t else t.settleFences e.1 w.1) t
    else t) s

/-- Deterministic groups choose a running wave where theirs cannot run; within a cycle it issues from the next one on (R116). -/
def State.pickAll (s : State) (u : Nat) : State :=
  let c := (s.core u).cyc + (if (s.core u).pos = 0 then 0 else 1)
  { s with groups := Tbl.mapVals s.groups fun x =>
      if x.isPlaced && x.unit == u && x.det && !x.runnable.contains x.running then x.turnTo c else x }

/-- The live splits on a core in ascending order of wave number, then of group and split. -/
def State.splitsByWave (s : State) (u : Nat) : List (Nat × Nat × Nat) :=
  let all := (List.range 4).flatMap fun k => s.splitsOn u k
  (List.range 32).flatMap fun w => all.filter fun p => p.2.1 == w

/-- The line of a split that has reached issue at a rendezvous slot or the taper port, whether it has to wait there or not. -/
def State.lineAt (s : State) (u : Nat) (p : Nat × Nat × Nat) : Option Line :=
  match s.peek u p.1 p.2.1 p.2.2 false with
  | .line l => some l
  | .wait => none
  | .fault _ _ _ _ => none
  | .page _ _ _ _ _ => none
  | .poison _ _ _ => none
  | .run sp i _ _ _ _ => (({ s with cur := ⟨p.1, p.2.1, p.2.2, 1, 0⟩ }.modSp fun _ => sp).lineFor i).map Prod.fst

/-- Splits that reach issue at a rendezvous slot or the taper port in this cycle join its line, the lower wave first (R150,
R226). -/
def State.joinAll (s : State) (u : Nat) : State :=
  (s.splitsByWave u).foldl (fun t p =>
    match s.lineAt u p with
    | some l => { t with cur := ⟨p.1, p.2.1, p.2.2, 1, 0⟩ }.join l
    | none => t) s

/-- The reads of entering a clause: header-map bytes and headers. -/
def State.entryReads (s : State) (sp : Split) : List (Nat × Acc) :=
  let i := s.imgOf s.cur.g s.cur.w
  let header (a : DWord) : List (Nat × Acc) := [(a.toNat, .fetch)]
  let fallen (a : DWord) : List (Nat × Acc) := i.mapVa a.toNat ++ header a
  match s.csp.entering with
  | .no => []
  | .checked => header s.csp.pc
  | .fall => fallen s.csp.pc
  | .rejoin => header s.csp.pc ++ (if sp.ctx.hdr = s.csp.pc then [] else fallen sp.ctx.hdr)

/-- The reads that brought a split to `len` words at `sp`: of the clause's entry, and the words. -/
def State.fetchReads (s : State) (sp : Split) (len : Nat) : List (Nat × Acc) :=
  s.entryReads sp ++ (List.range len).map fun k => ((sp.pc + BitVec.ofNat 64 (4 * k)).toNat, .fetch)

/-- A split that nothing else keeps from issuing enters the clause at its pc when the header's wait is met: that wait is evaluated
once, and is not asked again (R20). -/
def State.enterSplit (s : State) (u : Nat) (p : Nat × Nat × Nat) : State :=
  let t := { s with cur := ⟨p.1, p.2.1, p.2.2, 1, 0⟩ }
  if t.csp.entering = .no || t.held u false then s
  else match t.enter { t.csp with wait := {}, block := .none } with
    | .at sp ls => ((t.touchVas (t.entryReads sp)).modSp fun _ => sp).keepAll ls
    | .wait => s
    | .fault _ _ _ => s
    | .page _ _ _ _ => s
    | .poison => s

/-- The splits of a core that enter a clause in this cycle. -/
def State.enterAll (s : State) (u : Nat) : State := (s.splitsByWave u).foldl (fun t p => t.enterSplit u p) s

/-- The ages of R114 at the start of a cycle, of one scheduler. -/
def State.ageAll (s : State) (u k : Nat) : State :=
  (s.splitsOn u k).foldl (fun t p =>
    let r := (t.peek u p.1 p.2.1 p.2.2 false).isReady
    let x := t.split p.1 p.2.1 p.2.2
    if r then
      if x.readySince.isNone then t.modSplit p.1 p.2.1 p.2.2 fun y => { y with readySince := some (t.core u).cyc } else t
    else if x.readySince.isSome then t.modSplit p.1 p.2.1 p.2.2 fun y => { y with readySince := none } else t) s

/-- The start of a core's cycle: what enters its clause, what joins a line, and what is ready. A split that becomes ready later in the
cycle reaches issue in the next (R114, R115, R150, R226). -/
def State.beginCycle (s : State) (u : Nat) : State :=
  (List.range 4).foldl (fun t k => t.ageAll u k) ((s.enterAll u).joinAll u)

/-- The split was ready at the start of the cycle, and is so still (R114). -/
def State.readyNow (s : State) (u : Nat) (p : Nat × Nat × Nat) (same : Bool) : Bool :=
  (s.split p.1 p.2.1 p.2.2).readySince.isSome && (s.peek u p.1 p.2.1 p.2.2 same).isReady

/-- A split's place in the order of R115: the wave's start, its slot, the split's slot. -/
def State.rank (s : State) (p : Nat × Nat × Nat) : Nat × Nat × Nat :=
  ((s.wave p.1 p.2.1).started, (s.wave p.1 p.2.1).wslot, p.2.2)

def rankLt (a b : Nat × Nat × Nat) : Bool :=
  a.1 < b.1 || (a.1 == b.1 && (a.2.1 < b.2.1 || (a.2.1 == b.2.1 && a.2.2 < b.2.2)))

/-- The first of a list under an order. -/
def leastBy (lt : Nat × Nat × Nat → Nat × Nat × Nat → Bool) (key : Nat × Nat × Nat → Nat × Nat × Nat) :
    List (Nat × Nat × Nat) → Option (Nat × Nat × Nat)
  | [] => none
  | x :: r =>
    match leastBy lt key r with
    | none => some x
    | some y => if lt (key y) (key x) then some y else some x

def State.age (s : State) (u : Nat) (p : Nat × Nat × Nat) : Nat :=
  match (s.split p.1 p.2.1 p.2.2).readySince with
  | some c => (s.core u).cyc - c
  | none => 0

/-- The splits of running waves of deterministic groups, where there is one; otherwise all: the waves of other groups issue in
cycles that a running wave leaves free (R116, log 37). -/
def State.runningFirst (s : State) (ps : List (Nat × Nat × Nat)) : List (Nat × Nat × Nat) :=
  let run := ps.filter fun p => (s.group p.1).det
  if run.isEmpty then ps else run

/-- Decoder 0's choice (R115). -/
def State.choose0 (s : State) (u k : Nat) : Option (Nat × Nat × Nat) :=
  let ready := s.runningFirst ((s.splitsOn u k).filter fun p => s.readyNow u p false)
  let aged := ready.filter fun p => 192 ≤ s.age u p
  match leastBy rankLt (fun p => (2 ^ 64 - s.age u p, (s.rank p).2)) aged with
  | some p => some p
  | none =>
    match Tbl.get? (s.core u).claims k with
    | some p => if ready.contains p && (s.split p.1 p.2.1 p.2.2).claimed && !(s.wave p.1 p.2.1).yielded then some p else leastBy rankLt s.rank ready
    | none => leastBy rankLt s.rank ready

/-- The 4-lane slices that hold members (R100). -/
def slices (m : Word) : List Nat := (List.range 8).filter fun k => (List.range 4).any fun i => m.getLsbD (4 * k + i)

/-- Two instructions pair (R115). -/
def portsPair (u a b : Nat) : Bool :=
  a != 9 && b != 9 && (a != b || a == 0 || (a == 1 && 4 ≤ unitDie u))

/-- Decoder 1's choice: the first ready split, in the order of age of waves, that pairs with decoder 0's. -/
def State.choose1 (s : State) (u k : Nat) (f : Nat × Nat × Nat × Nat × Word) : Option (Nat × Nat × Nat) :=
  let (g, w, sl, port, members) := f
  leastBy rankLt s.rank ((s.splitsOn u k).filter fun p =>
    p != (g, w, sl) && (!(s.group g).det || (s.group p.1).det) &&
    (let same := p.1 == g && p.2.1 == w
     s.readyNow u p same && portsPair u port (s.peek u p.1 p.2.1 p.2.2 same).port &&
     (!same || (slices (s.split p.1 p.2.1 p.2.2).members).all fun x => !(slices members).contains x)))

/-- The chosen split acts: its instruction is latched, or it faults, waits in the fault queue, or consumes poison. -/
def State.act (s : State) (p : Nat × Nat × Nat) (q : Peek) : State :=
  let (g, w, sl) := p
  let at' (len stall : Nat) (sp : Split) : State :=
    let t := { s with cur := ⟨g, w, sl, len, stall⟩ }
    (t.touchVas (t.fetchReads sp len)).modSp fun _ => sp
  let stops (len : Nat) (sp : Split) : State :=
    let t := { s with cur := ⟨g, w, sl, len, 0⟩ }
    ((t.walkVas (t.fetchReads sp len)).touchVas (t.fetchReads sp len)).modSp fun _ => sp
  match q with
  | .wait => s
  | .line _ => s
  | .fault sp c len _ => (stops len sp).raise c
  | .page sp va k lv m => (stops 1 sp).pageWait va k lv m
  | .poison sp commits _ =>
    let t := stops 1 sp
    let t := if commits then t.closeRegion else t
    t.consumePoison g w t.regionNow
  | .run sp i len stall _ ls =>
    let t := (at' len stall sp).keepAll ls
    { t.modW fun W => { W with chk := W.chkNext.getD W.chk, chkNext := none } with latch := some i }

/-- Decoder 0 takes a split: it claims the next cycle, unless its wave yields from now on (R115). -/
def State.claim (s : State) (p : Nat × Nat × Nat) : State :=
  (s.modWave p.1 p.2.1 fun W => { W with yielded := false }).modSplit p.1 p.2.1 p.2.2 fun x => { x with claimed := true }

/-- The end of a cycle of a core. -/
def State.endCycle (s : State) (u : Nat) : State := s.modCore u fun c => { c with cyc := c.cyc + 1, pos := 0, first := none }

/-- The remaining decisions of a core's cycle, up to the first that acts. -/
def State.decide' (s : State) (u : Nat) : Nat → State
  | 0 => s.endCycle u
  | fuel + 1 =>
    let pos := (s.core u).pos
    if 8 ≤ pos then s.endCycle u
    else
      let k := pos / 2
      if pos % 2 = 0 then
        let t := if pos = 0 then s.beginCycle u else s
        let t := t.modCore u fun c => { c with pos := pos + 1 }
        match t.choose0 u k with
        | none => (t.modCore u fun c => { c with pos := pos + 2, first := none, claims := Tbl.del c.claims k }).decide' u fuel
        | some p =>
          let t := t.claim p
          let q := t.peek u p.1 p.2.1 p.2.2 false
          (t.modCore u fun c => { c with
            first := some (p.1, p.2.1, p.2.2, q.port, (t.split p.1 p.2.1 p.2.2).members)
            claims := Tbl.set c.claims k p }).act p q
      else
        let f := (s.core u).first
        let t := s.modCore u fun c => { c with pos := pos + 1, first := none }
        match f with
        | none => t.decide' u fuel
        | some f =>
          match t.choose1 u k f with
          | none => t.decide' u fuel
          | some p => t.act p (t.peek u p.1 p.2.1 p.2.2 (p.1 == f.1 && p.2.1 == f.2.1))

/-- ISSUE (R115, R186): the next decision of a core's schedulers that acts; or its cycle ends. -/
def execIssue (unit : Nat) (s : State) : Out :=
  .next (if isUnit unit then ((s.settleCore unit).pickAll unit).decide' unit 9 else s)

end Sys2Proof.Machine
end

