-- ==== Sys2Proof/Machine/Dispatch.lean ====
section
/-! DEFINITION. One arm per instruction: each calls its one meaning. -/

namespace Sys2Proof.Machine

def exec (i : Instr) (s : State) : Host.Outcome State Fault Refusal :=
  match i with
  | .nop => Sys2Proof.Machine.execNop s
  | .bra t => Sys2Proof.Machine.execBra t s
  | .brc a t => Sys2Proof.Machine.execBrc a t s
  | .bdiv m t rej => Sys2Proof.Machine.execBdiv m t rej s
  | .join => Sys2Proof.Machine.execJoin s
  | .brk n t => Sys2Proof.Machine.execBrk n t s
  | .call d t => Sys2Proof.Machine.execCall d t s
  | .ret a => Sys2Proof.Machine.execRet a s
  | .yield => Sys2Proof.Machine.execYield s
  | .yieldR im => Sys2Proof.Machine.execYieldR im s
  | .exit => Sys2Proof.Machine.execExit s
  | .region => Sys2Proof.Machine.execRegion s
  | .waitc v sg m c => Sys2Proof.Machine.execWaitc v sg m c s
  | .setfmt lit => Sys2Proof.Machine.execSetfmt lit s
  | .setfmtScalar a => Sys2Proof.Machine.execSetfmtScalar a s
  | .getfmt d => Sys2Proof.Machine.execGetfmt d s
  | .mrst m => Sys2Proof.Machine.execMrst m s
  | .mand d a b => Sys2Proof.Machine.execMand d a b s
  | .mor d a b => Sys2Proof.Machine.execMor d a b s
  | .mxor d a b => Sys2Proof.Machine.execMxor d a b s
  | .mnot d a => Sys2Proof.Machine.execMnot d a s
  | .msav d => Sys2Proof.Machine.execMsav d s
  | .mpopc d a => Sys2Proof.Machine.execMpopc d a s
  | .voteAny d a => Sys2Proof.Machine.execVoteAny d a s
  | .voteAll d a => Sys2Proof.Machine.execVoteAll d a s
  | .voteBallot d a => Sys2Proof.Machine.execVoteBallot d a s
  | .sadd d a b => Sys2Proof.Machine.execSadd d a b s
  | .ssub d a b => Sys2Proof.Machine.execSsub d a b s
  | .smul d a b => Sys2Proof.Machine.execSmul d a b s
  | .smulhI64 d a b => Sys2Proof.Machine.execSmulhI64 d a b s
  | .smulhN64 d a b => Sys2Proof.Machine.execSmulhN64 d a b s
  | .sand d a b => Sys2Proof.Machine.execSand d a b s
  | .sor d a b => Sys2Proof.Machine.execSor d a b s
  | .sxor d a b => Sys2Proof.Machine.execSxor d a b s
  | .scmp d a b x => Sys2Proof.Machine.execScmp d a b x s
  | .sshl d a b => Sys2Proof.Machine.execSshl d a b s
  | .sshr d a b => Sys2Proof.Machine.execSshr d a b s
  | .ssra d a b => Sys2Proof.Machine.execSsra d a b s
  | .ssel d a b => Sys2Proof.Machine.execSsel d a b s
  | .smov d a => Sys2Proof.Machine.execSmov d a s
  | .srd d n => Sys2Proof.Machine.execSrd d n s
  | .swr n a => Sys2Proof.Machine.execSwr n a s
  | .saddImm d a im => Sys2Proof.Machine.execSaddImm d a im s
  | .sandImm d a im => Sys2Proof.Machine.execSandImm d a im s
  | .scmpImm d a x im => Sys2Proof.Machine.execScmpImm d a x im s
  | .smovImm d im => Sys2Proof.Machine.execSmovImm d im s
  | .sshlImm d a im => Sys2Proof.Machine.execSshlImm d a im s
  | .sshrImm d a im => Sys2Proof.Machine.execSshrImm d a im s
  | .caprd d a x => Sys2Proof.Machine.execCaprd d a x s
  | .noteGet d => Sys2Proof.Machine.execNoteGet d s
  | .noteCnt d x => Sys2Proof.Machine.execNoteCnt d x s
  | .ctxNew d a => Sys2Proof.Machine.execCtxNew d a s
  | .ctxSw d a x => Sys2Proof.Machine.execCtxSw d a x s
  | .ctxEnd d a => Sys2Proof.Machine.execCtxEnd d a s
  | .exitK a c => Sys2Proof.Machine.execExitK a c s
  | .vaddI32 d a b => Sys2Proof.Machine.execVaddI32 d a b s
  | .vsubI32 d a b => Sys2Proof.Machine.execVsubI32 d a b s
  | .vmulI32 d a b => Sys2Proof.Machine.execVmulI32 d a b s
  | .vmulhI32 d a b => Sys2Proof.Machine.execVmulhI32 d a b s
  | .vmulhN32 d a b => Sys2Proof.Machine.execVmulhN32 d a b s
  | .vmadI32 d a b => Sys2Proof.Machine.execVmadI32 d a b s
  | .vminI32 d a b => Sys2Proof.Machine.execVminI32 d a b s
  | .vmaxI32 d a b => Sys2Proof.Machine.execVmaxI32 d a b s
  | .vminN32 d a b => Sys2Proof.Machine.execVminN32 d a b s
  | .vmaxN32 d a b => Sys2Proof.Machine.execVmaxN32 d a b s
  | .vand d a b => Sys2Proof.Machine.execVand d a b s
  | .vor d a b => Sys2Proof.Machine.execVor d a b s
  | .vxor d a b => Sys2Proof.Machine.execVxor d a b s
  | .vshl d a b => Sys2Proof.Machine.execVshl d a b s
  | .vshr d a b => Sys2Proof.Machine.execVshr d a b s
  | .vsra d a b => Sys2Proof.Machine.execVsra d a b s
  | .vaddI32Vi d a b => Sys2Proof.Machine.execVaddI32Vi d a b s
  | .vsubI32Vi d a b => Sys2Proof.Machine.execVsubI32Vi d a b s
  | .vmulI32Vi d a b => Sys2Proof.Machine.execVmulI32Vi d a b s
  | .vandVi d a b => Sys2Proof.Machine.execVandVi d a b s
  | .vorVi d a b => Sys2Proof.Machine.execVorVi d a b s
  | .vxorVi d a b => Sys2Proof.Machine.execVxorVi d a b s
  | .vshlVi d a b => Sys2Proof.Machine.execVshlVi d a b s
  | .vshrVi d a b => Sys2Proof.Machine.execVshrVi d a b s
  | .vsraVi d a b => Sys2Proof.Machine.execVsraVi d a b s
  | .vmovI32 d a => Sys2Proof.Machine.execVmovI32 d a s
  | .vmovI32Vi d a => Sys2Proof.Machine.execVmovI32Vi d a s
  | .vsel d m b => Sys2Proof.Machine.execVsel d m b s
  | .vbfe d a b => Sys2Proof.Machine.execVbfe d a b s
  | .vbfi d a b => Sys2Proof.Machine.execVbfi d a b s
  | .vcmp m c a b => Sys2Proof.Machine.execVcmp m c a b s
  | .vcmpVi m c a b => Sys2Proof.Machine.execVcmpVi m c a b s
  | .vaddI16x2 d a b => Sys2Proof.Machine.execVaddI16x2 d a b s
  | .vsubI16x2 d a b => Sys2Proof.Machine.execVsubI16x2 d a b s
  | .vaddI8x4 d a b => Sys2Proof.Machine.execVaddI8x4 d a b s
  | .vsubI8x4 d a b => Sys2Proof.Machine.execVsubI8x4 d a b s
  | .vfadd d a b => Sys2Proof.Machine.execVfadd d a b s
  | .vfsub d a b => Sys2Proof.Machine.execVfsub d a b s
  | .vfmul d a b => Sys2Proof.Machine.execVfmul d a b s
  | .vfma d a b => Sys2Proof.Machine.execVfma d a b s
  | .vfmin d a b => Sys2Proof.Machine.execVfmin d a b s
  | .vfmax d a b => Sys2Proof.Machine.execVfmax d a b s
  | .vfcmp m c a b => Sys2Proof.Machine.execVfcmp m c a b s
  | .vfaddVi d a b => Sys2Proof.Machine.execVfaddVi d a b s
  | .vfmulVi d a b => Sys2Proof.Machine.execVfmulVi d a b s
  | .vfcmpVi m c a b => Sys2Proof.Machine.execVfcmpVi m c a b s
  | .vcvt d a c r => Sys2Proof.Machine.execVcvt d a c r s
  | .vqnt d a b => Sys2Proof.Machine.execVqnt d a b s
  | .vdqnt d a b => Sys2Proof.Machine.execVdqnt d a b s
  | .vexp2 d a => Sys2Proof.Machine.execVexp2 d a s
  | .vlog2 d a => Sys2Proof.Machine.execVlog2 d a s
  | .vrcp d a => Sys2Proof.Machine.execVrcp d a s
  | .vrsq d a => Sys2Proof.Machine.execVrsq d a s
  | .vsin d a => Sys2Proof.Machine.execVsin d a s
  | .vcos d a => Sys2Proof.Machine.execVcos d a s
  | .vtanh d a => Sys2Proof.Machine.execVtanh d a s
  | .vact d a => Sys2Proof.Machine.execVact d a s
  | .actld b disp q => Sys2Proof.Machine.execActld b disp q s
  | .actsw => Sys2Proof.Machine.execActsw s
  | .rng d => Sys2Proof.Machine.execRng d s
  | .rngskip a => Sys2Proof.Machine.execRngskip a s
  | .rngset a b => Sys2Proof.Machine.execRngset a b s
  | .vshfl d a b => Sys2Proof.Machine.execVshfl d a b s
  | .vbcast d a n => Sys2Proof.Machine.execVbcast d a n s
  | .vred d a p => Sys2Proof.Machine.execVred d a p s
  | .vscan d a p => Sys2Proof.Machine.execVscan d a p s
  | .vrot d a n => Sys2Proof.Machine.execVrot d a n s
  | .vbal d m => Sys2Proof.Machine.execVbal d m s
  | .xsend a k sg => Sys2Proof.Machine.execXsend a k sg s
  | .xrecv d k sg => Sys2Proof.Machine.execXrecv d k sg s
  | .ldg v ad q => Sys2Proof.Machine.execLdg v ad q s
  | .stg v ad q => Sys2Proof.Machine.execStg v ad q s
  | .ldsp v ad q => Sys2Proof.Machine.execLdsp v ad q s
  | .stsp v ad q => Sys2Proof.Machine.execStsp v ad q s
  | .ldk v ad q => Sys2Proof.Machine.execLdk v ad q s
  | .fence x ord => Sys2Proof.Machine.execFence x ord s
  | .cas v ad t r p => Sys2Proof.Machine.execCas v ad t r p s
  | .atomAdd v ad t r p => Sys2Proof.Machine.execAtomAdd v ad t r p s
  | .atomMin v ad t r p => Sys2Proof.Machine.execAtomMin v ad t r p s
  | .atomMax v ad t r p => Sys2Proof.Machine.execAtomMax v ad t r p s
  | .atomAnd v ad t r p => Sys2Proof.Machine.execAtomAnd v ad t r p s
  | .atomOr v ad t r p => Sys2Proof.Machine.execAtomOr v ad t r p s
  | .atomXor v ad t r p => Sys2Proof.Machine.execAtomXor v ad t r p s
  | .atomExch v ad t r p => Sys2Proof.Machine.execAtomExch v ad t r p s
  | .atomFadd v ad r p => Sys2Proof.Machine.execAtomFadd v ad r p s
  | .cpy a b c d e len => Sys2Proof.Machine.execCpy a b c d e len s
  | .cpyg a b c d e off n => Sys2Proof.Machine.execCpyg a b c d e off n s
  | .cpys a b c d e off n => Sys2Proof.Machine.execCpys a b c d e off n s
  | .fwait d h => Sys2Proof.Machine.execFwait d h s
  | .ftest d h => Sys2Proof.Machine.execFtest d h s
  | .fcan h => Sys2Proof.Machine.execFcan h s
  | .mxlb l ad q => Sys2Proof.Machine.execMxlb l ad q s
  | .mxra sg ad q => Sys2Proof.Machine.execMxra sg ad q s
  | .mxrv sg v n => Sys2Proof.Machine.execMxrv sg v n s
  | .mxst t b disp q => Sys2Proof.Machine.execMxst t b disp q s
  | .mxld t b disp q => Sys2Proof.Machine.execMxld t b disp q s
  | .mxdrn t ad q => Sys2Proof.Machine.execMxdrn t ad q s
  | .mxdrnt t ad q => Sys2Proof.Machine.execMxdrnt t ad q s
  | .mxmac t b sg => Sys2Proof.Machine.execMxmac t b sg s
  | .mxmacs t b sg => Sys2Proof.Machine.execMxmacs t b sg s
  | .mxclr t sg m => Sys2Proof.Machine.execMxclr t sg m s
  | .mxchk t d => Sys2Proof.Machine.execMxchk t d s
  | .mxinj t a x => Sys2Proof.Machine.execMxinj t a x s
  | .tapcfg w a => Sys2Proof.Machine.execTapcfg w a s
  | .tapin w v m => Sys2Proof.Machine.execTapin w v m s
  | .tapq w d => Sys2Proof.Machine.execTapq w d s
  | .tapclr w => Sys2Proof.Machine.execTapclr w s
  | .tapsav w b disp q => Sys2Proof.Machine.execTapsav w b disp q s
  | .taprst w b disp q => Sys2Proof.Machine.execTaprst w b disp q s
  | .tapstat w d x => Sys2Proof.Machine.execTapstat w d x s
  | .tnow d a => Sys2Proof.Machine.execTnow d a s
  | .pub v ad h => Sys2Proof.Machine.execPub v ad h s
  | .ldat v ad st md => Sys2Proof.Machine.execLdat v ad st md s
  | .dusk => Sys2Proof.Machine.execDusk s
  | .pubtxB h => Sys2Proof.Machine.execPubtxB h s
  | .pubtxC => Sys2Proof.Machine.execPubtxC s
  | .pubtxA => Sys2Proof.Machine.execPubtxA s
  | .sig v ad => Sys2Proof.Machine.execSig v ad s
  | .barJoin b => Sys2Proof.Machine.execBarJoin b s
  | .barLeave b => Sys2Proof.Machine.execBarLeave b s
  | .barArv d b => Sys2Proof.Machine.execBarArv d b s
  | .barArvCount d a b => Sys2Proof.Machine.execBarArvCount d a b s
  | .barWait a b => Sys2Proof.Machine.execBarWait a b s
  | .barSync b => Sys2Proof.Machine.execBarSync b s
  | .dbar => Sys2Proof.Machine.execDbar s
  | .mbxSend d a b x => Sys2Proof.Machine.execMbxSend d a b x s
  | .mbxWait d x => Sys2Proof.Machine.execMbxWait d x s
  | .trap im => Sys2Proof.Machine.execTrap im s
  | .rett m => Sys2Proof.Machine.execRett m s
  | .launch d a b => Sys2Proof.Machine.execLaunch d a b s
  | .fqPop d a => Sys2Proof.Machine.execFqPop d a s
  | .fqDone d a x => Sys2Proof.Machine.execFqDone d a x s
  | .tlbinv d a b x => Sys2Proof.Machine.execTlbinv d a b x s
  | .snap d a => Sys2Proof.Machine.execSnap d a s
  | .halt => Sys2Proof.Machine.execHalt s
  | .hostLaunch port dg => Sys2Proof.Machine.execHostLaunch port dg s
  | .hostPodLaunch port dg => Sys2Proof.Machine.execHostPodLaunch port dg s
  | .installReplacementImage port dg => Sys2Proof.Machine.execInstallReplacementImage port dg s
  | .contextCreate port dg => Sys2Proof.Machine.execContextCreate port dg s
  | .contextSuspend port dg => Sys2Proof.Machine.execContextSuspend port dg s
  | .contextResume port dg => Sys2Proof.Machine.execContextResume port dg s
  | .contextEnd port dg => Sys2Proof.Machine.execContextEnd port dg s
  | .setQueuePriority port dg => Sys2Proof.Machine.execSetQueuePriority port dg s
  | .resumeHaltedGroup port dg => Sys2Proof.Machine.execResumeHaltedGroup port dg s
  | .endHaltedGroup port dg => Sys2Proof.Machine.execEndHaltedGroup port dg s
  | .journalRead port dg => Sys2Proof.Machine.execJournalRead port dg s
  | .releaseSnapshot port dg => Sys2Proof.Machine.execReleaseSnapshot port dg s
  | .defineReduceWindow port dg => Sys2Proof.Machine.execDefineReduceWindow port dg s
  | .removeReduceWindow port dg => Sys2Proof.Machine.execRemoveReduceWindow port dg s
  | .readMonitor port dg => Sys2Proof.Machine.execReadMonitor port dg s
  | .retireUnit port dg => Sys2Proof.Machine.execRetireUnit port dg s
  | .reinstateUnit port dg => Sys2Proof.Machine.execReinstateUnit port dg s
  | .setChannelWeight port dg => Sys2Proof.Machine.execSetChannelWeight port dg s
  | .setTenantPartition port dg => Sys2Proof.Machine.execSetTenantPartition port dg s
  | .attestation port dg => Sys2Proof.Machine.execAttestation port dg s
  | .readStatus port dg => Sys2Proof.Machine.execReadStatus port dg s
  | .orderlyShutdown cause => Sys2Proof.Machine.execOrderlyShutdown cause s
  | .podLaunchBeacon msg => Sys2Proof.Machine.execPodLaunchBeacon msg s
  | .podLaunchAcknowledgement src msg => Sys2Proof.Machine.execPodLaunchAcknowledgement src msg s
  | .podLaunchRefusal src msg => Sys2Proof.Machine.execPodLaunchRefusal src msg s
  | .podLaunchStart msg => Sys2Proof.Machine.execPodLaunchStart msg s
  | .podLaunchAbort msg => Sys2Proof.Machine.execPodLaunchAbort msg s
  | .acknowledgementTimeout q => Sys2Proof.Machine.execAcknowledgementTimeout q s
  | .startTimeout k => Sys2Proof.Machine.execStartTimeout k s
  | .darkStartTimeout k => Sys2Proof.Machine.execDarkStartTimeout k s
  | .armedKernelStart k => Sys2Proof.Machine.execArmedKernelStart k s
  | .launchAcceptance id => Sys2Proof.Machine.execLaunchAcceptance id s
  | .dispatchDecision => Sys2Proof.Machine.execDispatchDecision s
  | .groupBitmapSet g => Sys2Proof.Machine.execGroupBitmapSet g s
  | .kernelComplete k => Sys2Proof.Machine.execKernelComplete k s
  | .kernelFailed k => Sys2Proof.Machine.execKernelFailed k s
  | .contextFree c => Sys2Proof.Machine.execContextFree c s
  | .preemptionPoint g => Sys2Proof.Machine.execPreemptionPoint g s
  | .resultWrite g w id => Sys2Proof.Machine.execResultWrite g w id s
  | .barrierArrival g w sl => Sys2Proof.Machine.execBarrierArrival g w sl s
  | .dieBarrierArrival g => Sys2Proof.Machine.execDieBarrierArrival g s
  | .mailboxWaitServed k die slot => Sys2Proof.Machine.execMailboxWaitServed k die slot s
  | .copyStep g id => Sys2Proof.Machine.execCopyStep g id s
  | .copyEngineStop g id => Sys2Proof.Machine.execCopyEngineStop g id s
  | .mxEngineExecute unit => Sys2Proof.Machine.execMxEngineExecute unit s
  | .drainWrite unit id => Sys2Proof.Machine.execDrainWrite unit id s
  | .taperPortAccept unit => Sys2Proof.Machine.execTaperPortAccept unit s
  | .issue unit => Sys2Proof.Machine.execIssue unit s
  | .read g w id home => Sys2Proof.Machine.execRead g w id home s
  | .advance id => Sys2Proof.Machine.execAdvance id s
  | .perform id => Sys2Proof.Machine.execPerform id s
  | .deliver peer ctx ordered seq msg => Sys2Proof.Machine.execDeliver peer ctx ordered seq msg s
  | .fill unit line => Sys2Proof.Machine.execFill unit line s
  | .drop unit line => Sys2Proof.Machine.execDrop unit line s
  | .correctedWriteBack line => Sys2Proof.Machine.execCorrectedWriteBack line s
  | .syncRequest plane => Sys2Proof.Machine.execSyncRequest plane s
  | .syncReply plane tm em => Sys2Proof.Machine.execSyncReply plane tm em s
  | .holdoverTimeout => Sys2Proof.Machine.execHoldoverTimeout s
  | .darkTransition => Sys2Proof.Machine.execDarkTransition s
  | .clockAttestation lo => Sys2Proof.Machine.execClockAttestation lo s
  | .oscillatorMonitorFail backup => Sys2Proof.Machine.execOscillatorMonitorFail backup s
  | .oscillatorMonitorPass => Sys2Proof.Machine.execOscillatorMonitorPass s
  | .versionArrival unit id home far => Sys2Proof.Machine.execVersionArrival unit id home far s
  | .homeAcknowledgement unit id home => Sys2Proof.Machine.execHomeAcknowledgement unit id home s
  | .duskRelease unit id => Sys2Proof.Machine.execDuskRelease unit id s
  | .versionVisible id home => Sys2Proof.Machine.execVersionVisible id home s
  | .homeUnreachable unit id home => Sys2Proof.Machine.execHomeUnreachable unit id home s
  | .darkDiscard unit id => Sys2Proof.Machine.execDarkDiscard unit id s
  | .frontierSend => Sys2Proof.Machine.execFrontierSend s
  | .frontierArrival src lo => Sys2Proof.Machine.execFrontierArrival src lo s
  | .snapshotRequest c snap frame => Sys2Proof.Machine.execSnapshotRequest c snap frame s
  | .snapshotFreeze c snap => Sys2Proof.Machine.execSnapshotFreeze c snap s
  | .invalidationAcknowledgement id die => Sys2Proof.Machine.execInvalidationAcknowledgement id die s
  | .resetEntryMessage die => Sys2Proof.Machine.execResetEntryMessage die s
  | .dieFence die => Sys2Proof.Machine.execDieFence die s
  | .flitCrcFail bridge again => Sys2Proof.Machine.execFlitCrcFail bridge again s
  | .frequencyStep die mhz => Sys2Proof.Machine.execFrequencyStep die mhz s
  | .clockRelock die => Sys2Proof.Machine.execClockRelock die s
  | .dieResetComplete die => Sys2Proof.Machine.execDieResetComplete die s
  | .linkTraining link port => Sys2Proof.Machine.execLinkTraining link port s
  | .ackTimeout link => Sys2Proof.Machine.execAckTimeout link s
  | .retryTimeout link => Sys2Proof.Machine.execRetryTimeout link s
  | .linkAcknowledgement link upto => Sys2Proof.Machine.execLinkAcknowledgement link upto s
  | .linkRetraining link => Sys2Proof.Machine.execLinkRetraining link s
  | .contributionArrival src ctx line round data => Sys2Proof.Machine.execContributionArrival src ctx line round data s
  | .roundAbandon line round => Sys2Proof.Machine.execRoundAbandon line round s
  | .combinedWrite line bytes => Sys2Proof.Machine.execCombinedWrite line bytes s
  | .leaseStart unit => Sys2Proof.Machine.execLeaseStart unit s
  | .withdrawalDeadline unit => Sys2Proof.Machine.execWithdrawalDeadline unit s
  | .testingStart unit => Sys2Proof.Machine.execTestingStart unit s
  | .patternPass unit => Sys2Proof.Machine.execPatternPass unit s
  | .patternMismatch unit pattern => Sys2Proof.Machine.execPatternMismatch unit pattern s
  | .testTimeout unit => Sys2Proof.Machine.execTestTimeout unit s
  | .laneGroupTestEnd unit pattern => Sys2Proof.Machine.execLaneGroupTestEnd unit pattern s
  | .channelCopyEnd unit => Sys2Proof.Machine.execChannelCopyEnd unit s
  | .monitorSample sensors => Sys2Proof.Machine.execMonitorSample sensors s
  | .lifetimeCounterWrite => Sys2Proof.Machine.execLifetimeCounterWrite s
  | .journalPersist n => Sys2Proof.Machine.execJournalPersist n s
  | .thermalStepDown die eighths deciwatts => Sys2Proof.Machine.execThermalStepDown die eighths deciwatts s
  | .thermalStepUp die => Sys2Proof.Machine.execThermalStepUp die s
  | .supplyInRange => Sys2Proof.Machine.execSupplyInRange s
  | .imageVerify imgs => Sys2Proof.Machine.execImageVerify imgs s
  | .memoryLinkTraining failed ports => Sys2Proof.Machine.execMemoryLinkTraining failed ports s
  | .bootStarting => Sys2Proof.Machine.execBootStarting s
  | .taperSaveOrRestoreComplete g id => Sys2Proof.Machine.execTaperSaveOrRestoreComplete g id s
  | .mailboxMessageAcceptance id => Sys2Proof.Machine.execMailboxMessageAcceptance id s
  | .flitReceipt link seq => Sys2Proof.Machine.execFlitReceipt link seq s
  | .hostPortFailure port => Sys2Proof.Machine.execHostPortFailure port s
  | .uncleanReset => Sys2Proof.Machine.execUncleanReset s

end Sys2Proof.Machine
end

