-- ==== Sys2Proof/Machine/Schedule.lean ====
section
/-! DEFINITION. What a step does: the next event of the agenda, or where the agenda is empty an event of the default order (log 1);
the instruction that ISSUE latches runs in the same step. Also how one instruction word is placed for a step. -/

namespace Sys2Proof.Machine

/-! ## The default order (log 1) -/

/-- READ and RESULT_WRITE of a wave's outstanding results. -/
def resultEvents (g w : Nat) (r : Result) : List Instr :=
  (((r.reqs.filter Req.unread).map fun q => placeHome q.place) ++ r.pas.map fun p => homeOf p.2).eraseDups.map (fun h => Instr.read g w r.id h) ++
  [Instr.resultWrite g w r.id]

/-- Steps of a group's engines, arrivals and saves. -/
def groupEvents (g : Nat) (G : Group) : List Instr :=
  List.flatten (α := Instr)
    [ G.waves.flatMap fun w => w.2.results.flatMap (resultEvents g w.1),
      G.waves.flatMap fun w => w.2.arrivals.map fun a => Instr.barrierArrival g w.1 a.sl,
      G.copies.map fun c => if c.stopping = 0 then Instr.copyStep g c.id else Instr.copyEngineStop g c.id,
      G.tapOps.map fun o => Instr.taperSaveOrRestoreComplete g o.id,
      if G.waves.any fun w => w.2.splits.any fun p => p.2.block == .dbar then [Instr.dieBarrierArrival g] else [],
      G.mbxWaits.map fun x => Instr.mailboxWaitServed G.kernel (unitDie G.unit) x.2.2.2.2,
      match G.preempt with
      | .now => if G.isPlaced then [Instr.preemptionPoint g] else []
      | .no => []
      | .atYield => [] ]

/-- Steps of a hold's entry, by the writer's number (R243). -/
def holdEvents (n : Nat) (h : Hold) : List Instr :=
  let hs := (h.vers.map fun v => homeOf v.slot).eraseDups
  List.flatten (α := Instr)
    [ hs.map fun k => Instr.versionArrival n h.id k [],
      hs.map fun k => Instr.homeAcknowledgement n h.id k,
      [Instr.duskRelease n h.id] ]

/-- Steps of a core's engines and of its dusk hold. -/
def coreEvents (m u : Nat) (c : Core) : List Instr :=
  List.flatten (α := Instr)
    [ if c.mxq.isEmpty then [] else [Instr.mxEngineExecute u],
      c.drains.map fun d => Instr.drainWrite u d.id,
      if c.portWork.isEmpty then [] else [Instr.taperPortAccept u],
      c.hold.flatMap (holdEvents (512 * m + u)) ]

/-- Steps of kernels and contexts. -/
def kernelEvents (k : Nat) (K : Kernel) : List Instr :=
  match K.st with
  | .armed => [.armedKernelStart k]
  | .retiring => [.kernelComplete k]
  | .failing => [.kernelFailed k]
  | .queued => []
  | .running => []
  | .complete => []
  | .failed => []

def ctxEvents (c : Nat) (x : Context) : List Instr :=
  List.flatten (α := Instr)
    [ x.snaps.flatMap fun n => n.2.asked.map fun f => Instr.snapshotRequest c n.1 f.1,
      x.snaps.map fun n => Instr.snapshotFreeze c n.1,
      if x.st == .ending then [Instr.contextFree c] else [] ]

/-- Time-outs of a leased unit. -/
def unitEvents (u : Nat) (x : LUnit) : List Instr :=
  match x.st with
  | .withdrawing => [.testingStart u, .withdrawalDeadline u]
  | .testing => [.testTimeout u]
  | .retesting => [.testTimeout u]
  | .inService => []
  | .retired => []

/-- Time-outs of a held entry; `lost` are the homes that its core has lost. -/
def holdTimeouts (n : Nat) (lost : Nat → Bool) (h : Hold) : List Instr :=
  ((((h.vers.filter fun v => !v.acked).map fun v => homeOf v.slot).eraseDups.filter lost).map fun k => Instr.homeUnreachable n h.id k) ++
  [.darkDiscard n h.id]

/-- Time-outs of an armed kernel. -/
def podTimeouts (k : Nat) (K : Kernel) : List Instr :=
  match K.pod with
  | none => []
  | some _ => if K.st == .armed then [.startTimeout k, .darkStartTimeout k] else []

/-- The time-outs that may fall due. -/
def State.timeouts (s : State) : List Instr :=
  List.flatten (α := Instr)
    [ if s.time.tclk.isDark then [] else [Instr.darkTransition, Instr.holdoverTimeout],
      s.lamp.units.flatMap fun e => unitEvents e.1 e.2,
      s.cores.flatMap fun c => c.2.hold.flatMap (holdTimeouts (512 * s.mod + c.1) (s.lost c.1)),
      s.disp.kernels.flatMap fun e => podTimeouts e.1 e.2,
      s.disp.origins.map fun o => Instr.acknowledgementTimeout o.queue,
      s.invals.flatMap fun v => v.dies.map fun d => Instr.dieFence d,
      s.pod.links.flatMap fun e => [Instr.ackTimeout e.1, Instr.retryTimeout e.1],
      s.pod.rounds.map fun r => Instr.roundAbandon r.line r.round ]

/-- Work waits at the dispatcher. -/
def State.dispatchWork (s : State) : Bool := s.disp.queues.any (fun q => !q.2.cmds.isEmpty) || s.groups.any fun e => e.2.isSaved

/-- The steps that the state's outstanding work allows, in the default order; the time-outs that are due come after them. -/
def State.pendingEvents (s : State) : List Instr :=
  List.flatten (α := Instr)
    [ s.groups.flatMap fun e => groupEvents e.1 e.2,
      s.memory.writes.flatMap fun x => [Instr.perform x.id, Instr.advance x.id],
      s.memory.pending.map fun e => Instr.versionVisible e.2.1 (homeOf e.2.2.slot),
      s.cores.flatMap fun c => coreEvents s.mod c.1 c.2,
      s.disp.mbxMsgs.map fun m => Instr.mailboxMessageAcceptance m.id,
      s.disp.launches.map fun m => Instr.launchAcceptance m.id,
      s.invals.flatMap fun v => v.dies.map fun d => Instr.invalidationAcknowledgement v.id d,
      s.disp.kernels.flatMap fun e => kernelEvents e.1 e.2,
      s.ctxs.flatMap fun e => ctxEvents e.1 e.2,
      (s.groups.filter fun e => e.2.isEnded && !e.2.bit && !e.2.failed && (s.kernel e.2.kernel).tracked).map fun e => Instr.groupBitmapSet e.1,
      (s.host.recent.filter fun r => !r.sent).map fun r => Instr.journalPersist r.seq,
      (s.host.ring.filter fun e => !s.flash.journal.any fun x => x.seq == e.2.seq && x.st == e.2.st).map fun e => Instr.journalPersist e.2.seq,
      s.pod.responses.map fun r => Instr.advance r.id,
      s.pod.formed.map fun e => Instr.combinedWrite e.2.2.1 e.2.2.2.1,
      if s.dispatchWork then [Instr.dispatchDecision] else [] ]

/-- The event changes the state. -/
def State.moves? (s : State) (e : Instr) : Bool :=
  match exec e s with
  | .next t => t != s
  | .fault _ => true
  | .refused _ => true

/-- The core that acts in the default order: of those with a group, the one whose cycle count is least. -/
def State.slowestCore (s : State) : Option Nat :=
  s.groups.foldl (fun (b : Option Nat) e =>
    if e.2.isPlaced then
      match b with
      | none => some e.2.unit
      | some u =>
        let x := (s.core e.2.unit).cyc
        let y := (s.core u).cyc
        if x < y ∨ (x = y ∧ e.2.unit < u) then some e.2.unit else b
    else b) none

/-- The port on which a command arrives. -/
def commandPort (e : Instr) : Option (Fin 2) :=
  match e with
  | .hostLaunch p _ => some p
  | .hostPodLaunch p _ => some p
  | .installReplacementImage p _ => some p
  | .contextCreate p _ => some p
  | .contextSuspend p _ => some p
  | .contextResume p _ => some p
  | .contextEnd p _ => some p
  | .setQueuePriority p _ => some p
  | .resumeHaltedGroup p _ => some p
  | .endHaltedGroup p _ => some p
  | _ => none

/-- The first command on a port among the entries of the same instant that follow, and the entries without it. -/
def sameInstant (port : Fin 2) : List (Nat × Instr) → Option (Instr × List (Nat × Instr))
  | [] => none
  | (n, e) :: r =>
    if n ≠ 0 then none
    else if commandPort e = some port then some (e, r)
    else (sameInstant port r).map fun x => (x.1, (0, e) :: x.2)

/-- Of commands that arrive on both ports at the same instant, those on port 0 come first, and those on port 1 right behind them, so that
their numbers are consecutive (R328). -/
def port0First (e : Instr) (r : List (Nat × Instr)) : Instr × List (Nat × Instr) :=
  match commandPort e with
  | some 0 =>
    match sameInstant 1 r with
    | some x => (e, (0, x.1) :: x.2)
    | none => (e, r)
  | some 1 =>
    match sameInstant 0 r with
    | some x => (x.1, (0, e) :: x.2)
    | none => (e, r)
  | none => (e, r)

/-- The event of the next step, and the state as it meets it. -/
def State.nextEvent (s : State) : State × Option Instr :=
  match s.agenda with
  | (n, e) :: r =>
    let x := port0First e r
    (({ s with agenda := x.2 } : State).elapse n, some x.1)
  | [] =>
    match (s.pendingEvents ++ s.timeouts).find? s.moves? with
    | some e => (s, some e)
    | none =>
      match s.slowestCore with
      | some u => (s, some (.issue u))
      | none => (s.elapse 1, none)

/-- The least cycle count of the cores with a group has risen. -/
def State.cyclePassed (s t : State) : Bool :=
  match s.slowestCore with
  | none => false
  | some u =>
    let c := (s.core u).cyc
    c < (t.core u).cyc && t.groups.all fun e => !e.2.isPlaced || c < (t.core e.2.unit).cyc

/-- After an event: the instruction that it has latched runs. In the default order 1 ns passes with each cycle (log 1). -/
def State.afterEvent (s t : State) : Host.Outcome State Fault Refusal :=
  let t := if s.agenda.isEmpty && s.cyclePassed t then t.elapse 1 else t
  match t.latch with
  | some i => exec i { t with latch := none }
  | none => .next t

/-- One step. -/
def State.oneStep (s : State) : Host.Outcome State Fault Refusal :=
  let n := s.nextEvent
  match n.2 with
  | none => .next n.1
  | some e =>
    match exec e { n.1 with latch := none } with
    | .next t => s.afterEvent t
    | .fault f => .fault f
    | .refused r => .refused r

/-- A halted module with nothing left in its agenda and no reply to send has stopped (R325). -/
def State.stepOnce (s : State) : Host.Outcome State Fault Refusal :=
  match s.boot with
  | .halted k => if s.agenda.isEmpty && s.host.recent.all Recent.sent then .fault (.halted k) else s.oneStep
  | .off | .verifying | .training | .timing | .starting | .ready => s.oneStep

/-! ## One instruction placed for the next step (log 13) -/

/-- Where the instruction stands: virtual and physical address of its first word. -/
def placeAt : Nat := 0x10004

/-- Words of the instruction: as many as its decoding asks for, of a word and zeros. -/
def wordsNeeded (ws : List Word) : Nat → Nat
  | 0 => ws.length
  | n + 1 =>
    match decode ws with
    | .error .truncated => wordsNeeded (ws ++ [0]) n
    | .ok _ => ws.length
    | .error .unassigned => ws.length
    | .error .reserved => ws.length
    | .error .twoLiterals => ws.length

/-- The words whose bits are `w`, `nbits` of them, the first at the least significant end. -/
def wordsOf (nbits w : Nat) : List Word := (List.range (max 1 ((nbits + 31) / 32))).map fun i => BitVec.ofNat 32 (w / 2 ^ (32 * i))

/-- The state with the instruction placed: in memory, in a clause of its class and length, as the next word of the one split of a
wave on core 0 whose context is live and holds every right; the next event is ISSUE on that core. -/
def State.place (s : State) (nbits w : Nat) : State :=
  let ws := wordsOf nbits w
  let w0 := (ws.headD 0).toNat
  let n := max (wordsNeeded ws 3) ws.length
  let bytes := (ws ++ List.replicate (4 - ws.length) 0).flatMap fun (x : Word) => natLE 4 x.toNat
  let sp : Split :=
    { pc := BitVec.ofNat 64 placeAt
      ctx := { hdr := BitVec.ofNat 64 (placeAt - 4), n := n, cls := (classOf (fld w0 24 6) (fld w0 21 3)).getD 0, chk := false, idx := 0 }
      entering := .no, members := 0xFFFFFFFF, exec := 0xFFFFFFFF }
  let W : Wave := { v := List.replicate 128 zeroRow, splits := [(0, sp)] }
  let G : Group := { kernel := 0, place := .placed, unit := 0, scratchSize := 4096, waves := [(0, W)]
                     bars := [(0, { member := [(0, 0xFFFFFFFF)], e := 32 })] }
  let K : Kernel := { st := .running, img := { codeWords := 1, regs := 128 } }
  let leaf : Leaf := ⟨0, 0, 1073741824, 0, true, true, true, false⟩
  { s with
    boot := .ready
    agenda := (0, .issue 0) :: s.agenda
    ctxs := Tbl.set s.ctxs 0 { s.ctx 0 with st := .live, priv := true, diag := true, tenant := 1 }
    groups := Tbl.set (s.groups.filter fun e => e.1 != 0 && e.2.unit != 0) 0 G
    disp := { s.disp with kernels := Tbl.set s.disp.kernels 0 K }
    cores := Tbl.set s.cores 0 {}
    dies := Tbl.set (Tbl.mapVals s.dies fun d => { d with relocking := false }) 0
      { s.die 0 with tlb := [leaf], fenced := false, relocking := false }
    memory := { s.memory with
      mem := Mem.writeBytes s.memory.mem placeAt bytes
      poison := s.memory.poison.filter fun l => l != lineOf placeAt
      errs := Tbl.del s.memory.errs (lineOf placeAt) } }

end Sys2Proof.Machine
end

