-- ==== Sys2Proof/Safety.lean ====
section
/-! DEFINITION. The terms of the statements: what a reader of a register finds, what an instruction leaves unchanged, what an
instruction that issues does to its split and its wave, and the machine's invariant. -/

namespace Sys2Proof.Machine

/-! ## Reading -/

/-- What a reader at cycle `c` finds in a register of the current wave: it passes over each fixed-latency producer whose
result is not yet readable (R25); s0 reads zero (R33). -/
def State.regAt (s : State) (c : Nat) (d : Dest) : DWord :=
  match d with
  | .s r => if r = 0 then 0 else pipeVal c (.s r) (s.cw.s.toList.getD r 0) s.cw.inflight.reverse
  | .m r => pipeVal c (.m r) ((s.cw.m.toList.getD r 0).setWidth 64) s.cw.inflight.reverse
  | .v r l => pipeVal c (.v r l) ((s.cw.rawV r l).setWidth 64) s.cw.inflight.reverse
  | .h _ => 0

/-- No byte of memory and no byte of an allocation differs. -/
structure SameBytes (s t : State) : Prop where
  memory : ∀ a, t.byteAt a = s.byteAt a
  scratch : ∀ g a, t.scratchRead g a = s.scratchRead g a

/-- The state with the writes under way as another has them. -/
def State.withWrites (s t : State) : State := { s with memory := { s.memory with writes := t.memory.writes } }

/-- Of the writes under way only the waves noted as their readers may differ, and none is lost (R187, R190). -/
def SameWrites (s t : State) : Prop :=
  t.memory.writes.length = s.memory.writes.length ∧
  ∀ (n : Nat) (x y : GWrite), s.memory.writes[n]? = some x → t.memory.writes[n]? = some y → { y with seen := x.seen } = x ∧ ∀ r, r ∈ x.seen → r ∈ y.seen

/-- A wave reads nothing older than the writes of its group that have left their store buffers: it has acquired at group scope (R189,
R190; log 61). -/
def AcquiredGroup (t : State) (g w : Nat) : Prop :=
  ∀ x, x ∈ t.memory.writes → x.scratchOf = none → x.engine = false → x.stage ≠ .store → x.group = g → (g, w) ∈ x.seen

/-- The machine's invariant: the memory and every allocation stand in canonical form. -/
def State.canonical (s : State) : Prop := Mem.wf s.memory.mem = true ∧ ∀ e, e ∈ s.groups → Mem.wf e.2.scratch = true

/-! ## Frames -/

/-- Only the current wave may differ: no other wave, no other group, no other part of its group or of the machine. -/
structure OnlyWave (s t : State) : Prop where
  machine : { t with groups := s.groups } = s
  groups : ∀ g, g ≠ s.cur.g → Tbl.get? t.groups g = Tbl.get? s.groups g
  group : { t.cg with waves := s.cg.waves } = s.cg
  waves : ∀ w, w ≠ s.cur.w → Tbl.get? t.cg.waves w = Tbl.get? s.cg.waves w
  bytes : SameBytes s t

/-- Of the current wave only registers with fixed-latency results, its `%fxf`, its lanes' counters, its next issue and its
splits may differ: in particular its handles, its other flags, counters, tokens, results, region, trap frame and MX state do
not. -/
def WaveBut (s t : State) : Prop :=
  { t.cw with
    s := s.cw.s, m := s.cw.m, v := s.cw.v, vPoison := s.cw.vPoison, sPoison := s.cw.sPoison, mPoison := s.cw.mPoison
    inflight := s.cw.inflight, fxf := s.cw.fxf
    ctr := s.cw.ctr, nextIssue := s.cw.nextIssue, splits := s.cw.splits } = s.cw

/-- No other split of the wave differs. -/
def OtherSplits (s t : State) : Prop := ∀ k, k ≠ s.cur.sl → Tbl.get? t.cw.splits k = Tbl.get? s.cw.splits k

/-- The instruction has issued: its split stands past its words, and the wave's next issue obeys the stall code (R24). -/
structure Issued (s t : State) : Prop where
  past : t.csp = s.csp.past s.cur.len
  others : OtherSplits s t
  stall : t.cw.nextIssue = max s.cw.nextIssue (s.cyc + 1 + s.cur.stall)

/-- The instruction has issued and its split stands at a header: the address was checked (R22). -/
structure Jumped (s t : State) (a : DWord) : Prop where
  goes : t.csp = s.csp.goto a
  others : OtherSplits s t
  stall : t.cw.nextIssue = max s.cw.nextIssue (s.cyc + 1 + s.cur.stall)

/-- The instruction has issued and waits: its split stands past its words and is blocked. -/
structure IssuedBlocked (s t : State) (b : Block) : Prop where
  past : t.csp = { s.csp.past s.cur.len with block := b }
  others : OtherSplits s t
  stall : t.cw.nextIssue = max s.cw.nextIssue (s.cyc + 1 + s.cur.stall)

/-- Of the current wave only its next issue and its splits differ. -/
def WaveStill (s t : State) : Prop := { t.cw with nextIssue := s.cw.nextIssue, splits := s.cw.splits } = s.cw

/-- No register of the wave reads differently. -/
def RegsStill (s t : State) : Prop := ∀ d c, s.cyc ≤ c → t.regAt c d = s.regAt c d

/-- `s` with what a walk of `t` leaves where its lines hold stored errors (R13): their marks, and the events of their channels. -/
def State.meets (s t : State) : State :=
  { s with
    memory := { s.memory with errs := t.memory.errs, poison := t.memory.poison, writeBacks := t.memory.writeBacks }
    lamp := { s.lamp with units := t.lamp.units, mgmtRing := t.lamp.mgmtRing } }

/-- A die has at most kept a translation (R261): nothing else of any die differs. -/
structure TlbGrows (s t : State) (d : Nat) : Prop where
  others : ∀ e, e ≠ d → t.die e = s.die e
  same : { t.die d with tlb := (s.die d).tlb } = s.die d
  grows : ∀ l, l ∈ (s.die d).tlb → l ∈ (t.die d).tlb

/-- Only the current wave may differ, the translations that its die keeps, and, where errors are stored, what their walks met. -/
structure OnlyWaveTlb (s t : State) : Prop where
  only : OnlyWave { s.meets t with dies := t.dies } t
  tlb : TlbGrows s t (unitDie s.cu)
  quiet : s.memory.errs = [] → s.meets t = s

/-- The header map of the wave's image, read through its context's translation, says that `a` is a header (R22). -/
def State.isHeader (s : State) (a : DWord) : Prop :=
  ∃ l, s.headerBit s.cur.g (s.imgOf s.cur.g s.cur.w) a.toNat = .yes l

/-- The state once the header map has been asked for `a`: its line has met a stored error (R13), and the die has kept the
translation through which the map answered that `a` is a header. -/
def State.headerRead (s : State) (a : DWord) : State :=
  let i := s.imgOf s.cur.g s.cur.w
  let vas := i.mapVa a.toNat
  let t := s.touchVas vas
  match s.headerBit s.cur.g i a.toNat with
  | .yes l => t.keep l
  | .no => t.walkVas vas
  | .prot _ => t.walkVas vas
  | .poison => t.walkVas vas
  | .page _ _ _ => t
  | .refused => t

/-- Results of fixed latency: each register of `W` reads as `val` from `lat` cycles after the issue, and before that as it
did; every other register reads as it did (R25). -/
structure Results (s t : State) (W : Dest → Prop) (val : Dest → DWord) (lat : Nat) : Prop where
  result : ∀ d, W d → ∀ c, s.cyc + lat ≤ c → t.regAt c d = val d
  early : ∀ d, W d → ∀ c, s.cyc ≤ c → c < s.cyc + lat → t.regAt c d = s.regAt c d
  kept : ∀ d, ¬ W d → ∀ c, s.cyc ≤ c → t.regAt c d = s.regAt c d

/-- Poison marks go where a register, or a lane of one, is written, and nowhere else (R15); s0 holds none. -/
structure PoisonClears (s t : State) (W : Dest → Prop) : Prop where
  lanes : ∀ p : Nat × Nat, p ∈ t.cw.vPoison ↔ p ∈ s.cw.vPoison ∧ ¬ W (.v p.1 p.2)
  scalars : ∀ k, k ≠ 0 → (k ∈ t.cw.sPoison ↔ k ∈ s.cw.sPoison ∧ ¬ W (.s k))
  masks : ∀ k, k ∈ t.cw.mPoison ↔ k ∈ s.cw.mPoison ∧ ¬ W (.m k)

/-- The lanes of `e` have made `n` calls of the generator (R153): the low half of the counter counts. -/
def Draws (s t : State) (e : Word) (n : Nat) : Prop :=
  ∀ i, i < 32 → t.cw.ctr.toList.getD i 0 =
    let c := s.cw.ctr.toList.getD i 0
    if e.getLsbD i then BitVec.ofNat 128 (c.toNat / 2 ^ 64 * 2 ^ 64 + (c.toNat + n) % 2 ^ 64) else c

/-- An instruction has queued a result that comes later, counted on its counter (R20, R26): no register reads differently yet. -/
structure Queued (s t : State) (r : Result) : Prop where
  results : t.cw.results = s.cw.results ++ [r]
  counts : t.cw.vmc = s.cw.vmc + (if r.counter = .vmc then 1 else 0) ∧ t.cw.smc = s.cw.smc + (if r.counter = .smc then 1 else 0) ∧
    t.cw.mxc = s.cw.mxc + (if r.counter = .mxc then 1 else 0) ∧ t.cw.cpc = s.cw.cpc + (if r.counter = .cpc then 1 else 0)
  regs : RegsStill s t
  issued : Issued s t

/-- Of the current wave only its results, counters, next issue and splits differ. -/
def WaveQueues (s t : State) : Prop :=
  { t.cw with
    results := s.cw.results, vmc := s.cw.vmc, smc := s.cw.smc, mxc := s.cw.mxc, cpc := s.cw.cpc, nextIssue := s.cw.nextIssue
    splits := s.cw.splits } = s.cw

/-- As WaveQueues, and the region is closed (R123). -/
def WaveQueuesClosed (s t : State) : Prop :=
  t.cw.region.isOpen = false ∧
  { t.cw with
    results := s.cw.results, vmc := s.cw.vmc, smc := s.cw.smc, mxc := s.cw.mxc, cpc := s.cw.cpc, nextIssue := s.cw.nextIssue
    splits := s.cw.splits, region := s.cw.region } = s.cw

/-- Global writes have entered the memory machine behind those under way; no byte of memory has changed yet. -/
structure Entered (s t : State) (new : List GWrite) : Prop where
  writes : t.memory.writes = s.memory.writes ++ new
  rest : { t.memory with writes := s.memory.writes } = (s.meets t).memory
  bytes : SameBytes s t

/-- The writes of one operation of the current wave, as they leave it (R185). -/
def OfOperation (s : State) (x : GWrite) : Prop :=
  x.op = s.nextId ∧ x.ctx = s.cctx ∧ x.group = s.cur.g ∧ x.wave = s.cur.w ∧ x.unit = s.cu ∧ x.stage = .store ∧
  x.engine = false ∧ x.before = s.waveWrites s.cur.g s.cur.w

/-- The writes hold exactly these bytes, each write those of its own home. -/
def HoldBytes (new : List GWrite) (cells : List (Nat × Byte)) : Prop :=
  (∀ x, x ∈ new → ∃ cs, x.payld = .bytes cs ∧ ∀ c, c ∈ cs → c ∈ cells ∧ homeOf c.1 = x.home) ∧
  (∀ c, c ∈ cells → ∃ x cs, x ∈ new ∧ x.payld = .bytes cs ∧ c ∈ cs)

/-- The bytes of registers `v`, `v + 1`, … of the lanes, by physical address: what a store of `k` words a lane stores. -/
def storedCells (s : State) (v k : Nat) (ps : List (Nat × Nat × List Place)) : List (Nat × Byte) :=
  globalCells (ps.flatMap fun p => p.2.2.zip (s.laneData v k p.1))

/-- The whole effect of an instruction of fixed latency: it issues, its registers take their values, `%fxf` gathers `fl`, the
lanes of exec make `n` calls of the generator, and nothing else differs. -/
structure Fixed (s t : State) (W : Dest → Prop) (val : Dest → DWord) (lat : Nat) (fl : Flags) (n : Nat) : Prop where
  results : Results s t W val lat
  flags : t.cw.fxf = s.cw.fxf ||| fl
  poison : PoisonClears s t W
  draws : Draws s t s.csp.exec n
  wave : WaveBut s t
  issued : Issued s t
  only : OnlyWave s t

/-- An instruction completes with one scalar result, whose value is `x`; a write to s0 is discarded (R33). -/
def GivesScalar (i : Instr) (s : State) (d x : Nat) : Prop :=
  ∃ t, exec i s = .next t ∧ Fixed s t (fun r => r = .s d) (fun _ => if d = 0 then 0 else BitVec.ofNat 64 x) 2 0 0

/-- An instruction completes with one mask result of latency `lat`. -/
def GivesMask (i : Instr) (s : State) (d : Nat) (x : Word) (lat : Nat) (fl : Flags) : Prop :=
  ∃ t, exec i s = .next t ∧ Fixed s t (fun r => r = .m d) (fun _ => x.setWidth 64) lat fl 0

/-- The lanes of exec of vector register `d`. -/
def ExecLanes (s : State) (d : Nat) (r : Dest) : Prop := ∃ l, l < 32 ∧ s.csp.exec.getLsbD l = true ∧ r = .v d l

/-- The value of a lane. -/
def laneOf (f : Nat → Nat) (r : Dest) : DWord :=
  match r with
  | .v _ l => BitVec.ofNat 64 (f l)
  | .s _ => 0
  | .m _ => 0
  | .h _ => 0

/-- An instruction completes with one vector result: lane l of exec receives `f l`, and no other lane is written (R129). -/
def GivesVector (i : Instr) (s : State) (d : Nat) (f : Nat → Nat) (fl : Flags) (n : Nat) : Prop :=
  ∃ t, exec i s = .next t ∧ Fixed s t (ExecLanes s d) (laneOf f) 4 fl n

/-- The flags of the lanes of exec, together (R49). -/
def execFlags (s : State) (f : Nat → Flags) : Flags :=
  (maskLanes s.csp.exec).foldl (fun a l => a ||| f l) 0

end Sys2Proof.Machine
end

