-- ==== Sys2Proof/Certificates/Slice0/Obligations.lean ====
section
/-! DEFINITION. The statements for the provers, in the terms of Safety.lean. -/

open Sys2Proof Sys2Proof.Machine

/-! ## Scalars and masks -/

/-- R131: what each three-register scalar form computes, for every operand, with its frame; a write to s0 is discarded. -/
def ruleScalarThreeRegisterForms : Prop :=
  ∀ (s : State) (d a b : Fin 64) (x : Fin 8),
    let A := s.rdS a.val
    let B := s.rdS b.val
    let c := B.toNat % 64
    GivesScalar (.sadd d a b) s d.val ((A.toNat + B.toNat) % 2 ^ 64) ∧
    GivesScalar (.ssub d a b) s d.val ((A.toNat + 2 ^ 64 - B.toNat) % 2 ^ 64) ∧
    GivesScalar (.smul d a b) s d.val (A.toNat * B.toNat % 2 ^ 64) ∧
    GivesScalar (.smulhI64 d a b) s d.val ((A.toInt * B.toInt / 2 ^ 64) % 2 ^ 64).toNat ∧
    GivesScalar (.smulhN64 d a b) s d.val (A.toNat * B.toNat / 2 ^ 64) ∧
    GivesScalar (.sand d a b) s d.val (A.toNat &&& B.toNat) ∧
    GivesScalar (.sor d a b) s d.val (A.toNat ||| B.toNat) ∧
    GivesScalar (.sxor d a b) s d.val (A.toNat ^^^ B.toNat) ∧
    GivesScalar (.scmp d a b x) s d.val (
      [if A = B then 1 else 0, if A ≠ B then 1 else 0, if A.toInt < B.toInt then 1 else 0, if A.toInt ≤ B.toInt then 1 else 0,
       if A.toInt > B.toInt then 1 else 0, if A.toInt ≥ B.toInt then 1 else 0, if A.toNat < B.toNat then 1 else 0,
       if A.toNat ≥ B.toNat then 1 else 0].getD x.val 0) ∧
    GivesScalar (.sshl d a b) s d.val (A.toNat * 2 ^ c % 2 ^ 64) ∧
    GivesScalar (.sshr d a b) s d.val (A.toNat / 2 ^ c) ∧
    GivesScalar (.ssra d a b) s d.val (A.toInt / 2 ^ c % 2 ^ 64).toNat ∧
    GivesScalar (.ssel d a b) s d.val (if (s.rdS d.val).toNat ≠ 0 then A.toNat else B.toNat) ∧
    GivesScalar (.smov d a) s d.val A.toNat

/-- R132: what each immediate form computes; the operand is the six-bit field or the literal, sign-extended, and a shift counts
by the field or by bits 5-0 of the literal. -/
def ruleScalarImmediateForms : Prop :=
  ∀ (s : State) (d a : Fin 64) (x : Fin 8) (im : SImm),
    let A := s.rdS a.val
    let i : Int := match im with
      | .small c => if c.val < 32 then c.val else (c.val : Int) - 64
      | .lit w => w.toInt
    let c : Nat := match im with
      | .small c => c.val
      | .lit w => w.toNat % 64
    GivesScalar (.saddImm d a im) s d.val ((A.toNat + i) % 2 ^ 64).toNat ∧
    GivesScalar (.sandImm d a im) s d.val (A.toNat &&& (i % 2 ^ 64).toNat) ∧
    GivesScalar (.scmpImm d a x im) s d.val (
      [if A.toInt = i then 1 else 0, if A.toInt ≠ i then 1 else 0, if A.toInt < i then 1 else 0, if A.toInt ≤ i then 1 else 0,
       if A.toInt > i then 1 else 0, if A.toInt ≥ i then 1 else 0, if A.toNat < (i % 2 ^ 64).toNat then 1 else 0,
       if A.toNat ≥ (i % 2 ^ 64).toNat then 1 else 0].getD x.val 0) ∧
    GivesScalar (.smovImm d im) s d.val (i % 2 ^ 64).toNat ∧
    GivesScalar (.sshlImm d a im) s d.val (A.toNat * 2 ^ c % 2 ^ 64) ∧
    GivesScalar (.sshrImm d a im) s d.val (A.toNat / 2 ^ c)

/-- R131, R132: what every scalar form computes, with its frame; a write to s0 is discarded. -/
def Obligations.ScalarForms : Prop := ruleScalarThreeRegisterForms ∧ ruleScalarImmediateForms

/-- R113: mask instructions act on whole registers, whatever exec holds; votes read the lanes of exec; the latency is 2. -/
def Obligations.MasksAndVotes : Prop :=
  ∀ (s : State) (d a b : Fin 8) (r : Fin 64),
    let A := s.rdM a.val
    let B := s.rdM b.val
    let e := s.csp.exec
    let count (p : Nat → Bool) : Nat := ((List.range 32).filter p).length
    GivesMask (.mand d a b) s d.val (BitVec.ofNat 32 (A.toNat &&& B.toNat)) 2 0 ∧
    GivesMask (.mor d a b) s d.val (BitVec.ofNat 32 (A.toNat ||| B.toNat)) 2 0 ∧
    GivesMask (.mxor d a b) s d.val (BitVec.ofNat 32 (A.toNat ^^^ B.toNat)) 2 0 ∧
    GivesMask (.mnot d a) s d.val (BitVec.ofNat 32 (2 ^ 32 - 1 - A.toNat)) 2 0 ∧
    GivesMask (.msav d) s d.val e 2 0 ∧
    GivesScalar (.mpopc r a) s r.val (count fun l => A.getLsbD l) ∧
    GivesScalar (.voteAny r a) s r.val (if 0 < count (fun l => A.getLsbD l && e.getLsbD l) then 1 else 0) ∧
    GivesScalar (.voteAll r a) s r.val (if 0 < count (fun l => e.getLsbD l && !A.getLsbD l) then 0 else 1) ∧
    GivesScalar (.voteBallot r a) s r.val (A.toNat &&& e.toNat)

/-! ## Special registers -/

/-- R34, R133, R240: what SRD reads of each special register but `%wp`, zero-extended, at issue; `%penmax` is the context's. -/
def ruleSpecialRegisterReads : Prop :=
  ∀ (s : State) (d : Fin 64),
    let G := s.cg
    let K := s.kernel G.kernel
    let reads (n : Fin 64) (x : Nat) : Prop := GivesScalar (.srd d n) s d.val x
    reads 0x01 s.cur.w ∧ reads 0x02 G.gx ∧ reads 0x03 G.gy ∧ reads 0x04 K.pkt.ngx ∧ reads 0x05 K.pkt.ngy ∧
    reads 0x06 G.gang ∧ reads 0x07 (G.unit / 64) ∧ reads 0x08 s.mod ∧ reads 0x09 (G.unit % 64) ∧ reads 0x0A K.gen ∧
    reads 0x0B s.csp.fmt.toNat ∧ reads 0x0C s.cw.fxf.toNat ∧
    reads 0x0D (if s.time.tclk = .dark then 0xFFFF else (s.time.hi - s.time.lo) / 2) ∧
    reads 0x0E (s.ctx K.ctx).penmax ∧
    reads 0x0F (match s.time.tclk with
      | .healthy => 0
      | .degraded => 1
      | .dark => 2) ∧
    reads 0x10 (((s.partition K.ctx).filter fun u => (s.unit u).st == .inService).length +
      65536 * ((List.range 36).filter s.laneGroupUp).length + 2 ^ 32 * s.lamp.gen.toNat) ∧
    reads 0x11 s.cw.iregpc.toNat ∧ reads 0x12 (s.core G.unit).cyc ∧ reads 0x13 s.time.refVal ∧
    reads 0x14 (if s.cw.chk then 1 else 0)

/-- R133, R166, R189: an SRD of `%wp` gives the channel's count, and acquires what it counts: the core's copies of the lines
landed on the channel are dropped. -/
def ruleProgressRegisterAcquires : Prop :=
  ∀ (s : State) (d : Fin 64) (k : Fin 8) (n : Fin 64), n.val = 0x18 + k.val →
    ∃ t, exec (.srd d n) s = .next t ∧
      Results s t (fun r => r = .s d.val) (fun _ => if d.val = 0 then 0 else s.cg.wp[k]) 2 ∧ Issued s t ∧ WaveBut s t ∧
      (∀ l, Tbl.get? (t.core s.cu).view l =
        if l ∈ Tbl.getD s.cg.landed k.val [] then none else Tbl.get? (s.core s.cu).view l) ∧
      { t.core s.cu with view := (s.core s.cu).view } = s.core s.cu ∧
      (∀ u, u ≠ s.cu → t.core u = s.core u) ∧
      OnlyWave { s with cores := t.cores } t

/-- R34, R133, R166, R240: what SRD reads of every special register; a read of `%wp` acquires what it counts. -/
def ruleSpecialRegisterReadsWhole : Prop := ruleSpecialRegisterReads ∧ ruleProgressRegisterAcquires

/-- R34, R133: SWR within its limits takes effect, and otherwise raises ILLEGAL, or PROT for an unprivileged `%penmax`. -/
def ruleSpecialRegisterWrites : Prop :=
  ∀ (s : State) (n a : Fin 64),
    let v := s.rdS a.val
    let x := v.toNat
    (n.val = 0x0B → x < 2 ^ 32 → fmtOk (v.setWidth 32) = true → ∃ t, exec (.swr n a) s = .next t ∧
      t.csp = { s.csp.past s.cur.len with fmt := v.setWidth 32 } ∧ WaveStill s t ∧ OtherSplits s t ∧ OnlyWave s t) ∧
    (n.val = 0x0B → (2 ^ 32 ≤ x ∨ fmtOk (v.setWidth 32) = false) → exec (.swr n a) s = .next (s.raise cIllegal)) ∧
    (n.val = 0x0C → x < 32 → ∃ t, exec (.swr n a) s = .next t ∧ t.cw.fxf.toNat = x ∧ Issued s t ∧ RegsStill s t ∧ WaveBut s t ∧
      OnlyWave s t) ∧
    (n.val = 0x0C → 32 ≤ x → exec (.swr n a) s = .next (s.raise cIllegal)) ∧
    (n.val = 0x14 → x < 2 → ∃ t, exec (.swr n a) s = .next t ∧ t.cw.chkNext = some (x == 1) ∧ Issued s t ∧
      { t.cw with chkNext := s.cw.chkNext, nextIssue := s.cw.nextIssue, splits := s.cw.splits } = s.cw ∧ OnlyWave s t) ∧
    (n.val = 0x14 → 2 ≤ x → exec (.swr n a) s = .next (s.raise cIllegal)) ∧
    (n.val = 0x0E → (s.ctx s.cctx).priv = true → 0 < x → x < 0xFFFF → ∃ t, exec (.swr n a) s = .next t ∧ Issued s t ∧
      t.ctx s.cctx = { s.ctx s.cctx with penmax := x } ∧ (∀ c, c ≠ s.cctx → t.ctx c = s.ctx c) ∧ t.cw.region.isOpen = false ∧
      { t.cw with region := s.cw.region, nextIssue := s.cw.nextIssue, splits := s.cw.splits } = s.cw ∧
      OnlyWave { s with ctxs := t.ctxs } t) ∧
    (n.val = 0x0E → (x = 0 ∨ 0xFFFF ≤ x) → exec (.swr n a) s = .next (s.raise cIllegal)) ∧
    (n.val = 0x0E → (s.ctx s.cctx).priv = false → 0 < x → x < 0xFFFF → exec (.swr n a) s = .next (s.raise cProt)) ∧
    (n.val ≠ 0x0B → n.val ≠ 0x0C → n.val ≠ 0x0E → n.val ≠ 0x14 → exec (.swr n a) s = .next (s.raise cIllegal))

/-- R34, R133, R166, R240: reads and writes of every special register. -/
def Obligations.SpecialRegisters : Prop := ruleSpecialRegisterReadsWhole ∧ ruleSpecialRegisterWrites

/-! ## Control flow -/

/-- The address `o` words from the header of the current clause (R31). -/
def wordsFromHeader (s : State) (o : Int) : Nat := ((s.csp.ctx.hdr.toNat + 4 * o) % 2 ^ 64).toNat

/-- The offset of a target (R31): fifteen bits, or the literal, in two's complement. -/
def targetOffset (t : Tgt) : Int :=
  match t with
  | .near c => if c.val < 16384 then c.val else (c.val : Int) - 32768
  | .far w => w.toInt

/-- R31, R108: NOP goes on; a branch, call or return whose target is a header goes there, the target of BRC checked whether or
not it is taken; CALL leaves the address of the header after its clause. -/
def ruleUniformControlFlow : Prop :=
  ∀ (s : State) (d a : Fin 64) (t : Tgt),
    let dest : DWord := BitVec.ofNat 64 (wordsFromHeader s (targetOffset t))
    let next : DWord := BitVec.ofNat 64 (s.csp.ctx.hdr.toNat + 4 * (s.csp.ctx.n + 1))
    (∃ u, exec .nop s = .next u ∧ Issued s u ∧ WaveStill s u ∧ OnlyWave s u) ∧
    (s.isHeader dest → ∃ u, exec (.bra t) s = .next u ∧ Jumped s u dest ∧ WaveStill s u ∧ OnlyWaveTlb s u) ∧
    (s.isHeader dest → s.rdS a.val ≠ 0 → ∃ u, exec (.brc a t) s = .next u ∧ Jumped s u dest ∧ WaveStill s u ∧ OnlyWaveTlb s u) ∧
    (s.isHeader dest → s.rdS a.val = 0 → ∃ u, exec (.brc a t) s = .next u ∧ Issued s u ∧ WaveStill s u ∧ OnlyWaveTlb s u) ∧
    (s.isHeader dest → ∃ u, exec (.call d t) s = .next u ∧ Jumped s u dest ∧ OnlyWaveTlb s u ∧
      (∀ c, u.regAt c (.s d.val) = if d.val = 0 then 0 else next) ∧
      (∀ c r, r ≠ .s d.val → u.regAt c r = s.regAt c r) ∧
      { u.cw with s := s.cw.s, inflight := s.cw.inflight, nextIssue := s.cw.nextIssue, splits := s.cw.splits } = s.cw) ∧
    (s.isHeader (s.rdS a.val) → ∃ u, exec (.ret a) s = .next u ∧ Jumped s u (s.rdS a.val) ∧ WaveStill s u ∧ OnlyWaveTlb s u)

/-- R22: a transfer to an address that the header map does not mark raises BADTARGET and does not execute; the map's line meets
what error it stores (R13). -/
def ruleTransferToNoHeaderFaults : Prop :=
  ∀ (s : State) (d a : Fin 64) (n : Fin 32) (t : Tgt),
    let dest : DWord := BitVec.ofNat 64 (wordsFromHeader s (targetOffset t))
    let no (x : DWord) : Prop := s.headerBit s.cur.g (s.imgOf s.cur.g s.cur.w) x.toNat = .no
    let faults (x : DWord) : Out := .next ((s.headerRead x).raise cBadTarget)
    (no dest → exec (.bra t) s = faults dest ∧ exec (.brc a t) s = faults dest ∧ exec (.call d t) s = faults dest) ∧
    (no dest → s.csp.exec = s.csp.members → exec (.brk n t) s = faults dest) ∧
    (no (s.rdS a.val) → exec (.ret a) s = faults (s.rdS a.val))

/-- R22, R31, R108: uniform transfers go to their headers; a target that is no header faults. -/
def Obligations.UniformControlFlow : Prop := ruleUniformControlFlow ∧ ruleTransferToNoHeaderFaults

/-- The address of the header after the current clause (R24). -/
def nextHeader (s : State) : DWord := BitVec.ofNat 64 (s.csp.ctx.hdr.toNat + 4 * (s.csp.ctx.n + 1))

/-- R103, R105: BDIV. Where all lanes agree it pushes no token; otherwise it pushes one, and the lanes taken go to the target in a
new split of the lowest free slot, or in this one while the others wait in the token. -/
def Obligations.DivergentBranches : Prop :=
  ∀ (s : State) (m : Fin 8) (t : Fin 32768) (rej : Word),
    let x := s.csp
    let M := s.rdM m.val
    let T := x.exec &&& M
    let F := x.exec &&& ~~~M
    let dest : DWord := BitVec.ofNat 64 (wordsFromHeader s (targetOffset (.near t)))
    let rejoin : DWord := BitVec.ofNat 64 (wordsFromHeader s rej.toInt)
    let ready := s.headerRead dest
    (x.exec ≠ x.members → exec (.bdiv m t rej) s = .next (s.raise cIllegal)) ∧
    (x.exec = x.members → Tbl.has s.cw.splits s.cur.sl = true → s.isHeader dest → ready.isHeader rejoin →
      ∀ w l, (ready.headerRead rejoin).rdCode (rejoin + 4) = .ok w l → decodeWord w [] = .ok .join →
      (T = 0 → ∃ u, exec (.bdiv m t rej) s = .next u ∧
        u.csp = { x with pc := nextHeader s, entering := .fall, readySince := none } ∧ OtherSplits s u ∧ WaveStill s u ∧
        OnlyWaveTlb s u) ∧
      (T ≠ 0 → F = 0 → ∃ u, exec (.bdiv m t rej) s = .next u ∧ Jumped s u dest ∧ WaveStill s u ∧ OnlyWaveTlb s u) ∧
      (T ≠ 0 → F ≠ 0 → x.mode ≠ .trap → s.cw.tokens.length < 16 → ∀ k, s.cw.freeSlot = some k →
        ∃ u, exec (.bdiv m t rej) s = .next u ∧ u.cw.tokens = ⟨rejoin, 0, x.exec, 0, 0, x.fmt, s.regionNow, false⟩ :: s.cw.tokens ∧
          u.csp = { x with members := F, exec := F, pc := nextHeader s, entering := .fall, readySince := none } ∧
          Tbl.get? u.cw.splits k = some
            { pc := dest, entering := .checked, members := T, exec := T, fmt := x.fmt, mode := x.mode } ∧
          (∀ j, j ≠ s.cur.sl → j ≠ k → Tbl.get? u.cw.splits j = Tbl.get? s.cw.splits j) ∧
          { u.cw with tokens := s.cw.tokens, nextIssue := s.cw.nextIssue, splits := s.cw.splits } = s.cw ∧ OnlyWaveTlb s u) ∧
      (T ≠ 0 → F ≠ 0 → x.mode ≠ .trap → s.cw.tokens.length < 16 → s.cw.freeSlot = none →
        ∃ u, exec (.bdiv m t rej) s = .next u ∧ u.cw.tokens = ⟨rejoin, nextHeader s, x.exec, 0, F, x.fmt, s.regionNow, false⟩ :: s.cw.tokens ∧
          u.csp = { x with members := T, exec := T, pc := dest, entering := .checked, readySince := none } ∧ OtherSplits s u ∧
          { u.cw with tokens := s.cw.tokens, nextIssue := s.cw.nextIssue, splits := s.cw.splits } = s.cw ∧ OnlyWaveTlb s u) ∧
      (T ≠ 0 → F ≠ 0 → x.mode ≠ .trap → 16 ≤ s.cw.tokens.length → (∀ i, i < 16 → Tbl.has s.cg.spill i = true) →
        exec (.bdiv m t rej) s =
          .next ((((ready.headerRead rejoin).touchVas [((rejoin + 4).toNat, .fetch)]).keep l).raise cToken)))

/-- The tokens of a stack that no step settles: each holds running lanes (R104). -/
def StackRuns (ts : List Token) : Prop := ∀ t, t ∈ ts → t.pending ≠ 0 ∧ t.pending &&& ~~~t.arrived &&& ~~~t.waiting ≠ 0

/-- The wave runs outside a trap, with no token spilled. -/
structure PlainWave (s : State) : Prop where
  trap : s.cw.trap = none
  active : s.csp.mode = .active
  spilled : s.cw.spilled = []
  slot : s.cur.sl < 4
  split : Tbl.has s.cw.splits s.cur.sl = true

/-- R104, R106: JOIN. Lanes that no token holds, or whose token rejoins elsewhere, go on; otherwise the split ends and its lanes
arrive, and where none of the token's lanes runs the waiting lanes resume, or all that arrived go on from the rejoin clause. -/
def ruleJoiningLanes : Prop :=
  ∀ (s : State) (tok : Token) (rest : List Token),
    let x := s.csp
    let arrived := tok.arrived ||| x.members
    let runs := tok.pending &&& ~~~arrived &&& ~~~tok.waiting
    let free := ({ s.cw with splits := Tbl.del s.cw.splits s.cur.sl } : Wave).freeSlot
    let still (u : State) : Prop :=
      { u.cw with tokens := s.cw.tokens, nextIssue := s.cw.nextIssue, splits := s.cw.splits } = s.cw ∧ OnlyWave s u
    (x.ctx.idx ≠ 0 → exec .join s = .next (s.raise cIllegal)) ∧
    (x.ctx.idx = 0 → x.mode = .active → s.cw.spilled = [] → (∀ t ∈ s.cw.tokens, t.pending &&& x.members = 0) →
      ∃ u, exec .join s = .next u ∧ Issued s u ∧ WaveStill s u ∧ OnlyWave s u) ∧
    (x.ctx.idx = 0 → PlainWave s → s.cw.tokens = tok :: rest → tok.pending &&& x.members ≠ 0 → tok.rejoin ≠ x.ctx.hdr →
      ∃ u, exec .join s = .next u ∧ Issued s u ∧ WaveStill s u ∧ OnlyWave s u) ∧
    (x.ctx.idx = 0 → PlainWave s → s.cw.tokens = tok :: rest → StackRuns rest → tok.pending &&& x.members ≠ 0 →
      tok.rejoin = x.ctx.hdr →
      (runs ≠ 0 → ∃ u, exec .join s = .next u ∧ u.cw.tokens = { tok with arrived := arrived } :: rest ∧
        Tbl.get? u.cw.splits s.cur.sl = none ∧ OtherSplits s u ∧ still u) ∧
      (runs = 0 → tok.waiting = 0 → ∃ u k, exec .join s = .next u ∧ u.cw.tokens = rest ∧ free = some k ∧
        Tbl.get? u.cw.splits k = some
          { pc := tok.rejoin, entering := .rejoin, members := arrived, exec := arrived, fmt := tok.fmt } ∧
        (∀ j, j ≠ k → j ≠ s.cur.sl → Tbl.get? u.cw.splits j = Tbl.get? s.cw.splits j) ∧ still u) ∧
      (runs = 0 → tok.waiting ≠ 0 → ∃ u k, exec .join s = .next u ∧
        u.cw.tokens = { tok with arrived := arrived, waiting := 0, resume := 0 } :: rest ∧ free = some k ∧
        Tbl.get? u.cw.splits k = some
          { pc := tok.resume, entering := .fall, members := tok.waiting, exec := tok.waiting, fmt := tok.fmt } ∧
        (∀ j, j ≠ k → j ≠ s.cur.sl → Tbl.get? u.cw.splits j = Tbl.get? s.cw.splits j) ∧ still u))

/-- R107: BRK takes the split's lanes out of the first n tokens that hold them and goes to the target; a token left with no lane
goes. -/
def ruleBreakingOut : Prop :=
  ∀ (s : State) (n : Fin 32) (t : Tgt),
    let x := s.csp
    let dest : DWord := BitVec.ofNat 64 (wordsFromHeader s (targetOffset t))
    let still (u : State) : Prop :=
      { u.cw with tokens := s.cw.tokens, nextIssue := s.cw.nextIssue, splits := s.cw.splits } = s.cw ∧ OnlyWaveTlb s u
    (x.exec ≠ x.members → exec (.brk n t) s = .next (s.raise cIllegal)) ∧
    (x.exec = x.members → PlainWave s → s.isHeader dest →
      (StackRuns s.cw.tokens → n.val = 0 → ∃ u, exec (.brk n t) s = .next u ∧ u.cw.tokens = s.cw.tokens ∧ Jumped s u dest ∧
        still u) ∧
      (∀ tok rest, s.cw.tokens = tok :: rest → n.val = 1 → tok.pending &&& x.members ≠ 0 → StackRuns rest →
        StackRuns [{ tok with pending := tok.pending &&& ~~~x.members }] →
        ∃ u, exec (.brk n t) s = .next u ∧ u.cw.tokens = { tok with pending := tok.pending &&& ~~~x.members } :: rest ∧
          Jumped s u dest ∧ still u) ∧
      (∀ tok rest, s.cw.tokens = tok :: rest → n.val = 1 → tok.pending &&& x.members ≠ 0 → StackRuns rest →
        tok.pending &&& ~~~x.members = 0 →
        ∃ u, exec (.brk n t) s = .next u ∧ u.cw.tokens = rest ∧ Jumped s u dest ∧ still u))

/-- R104, R106, R107: JOIN and BRK. -/
def Obligations.TokensJoinAndBreak : Prop := ruleJoiningLanes ∧ ruleBreakingOut

/-- R111, R199: EXIT. Its lanes leave the split and the region closes; a split left with no lane ends, and a wave whose last split ends
with no token ends, and holds the core's MX state no longer (R199). (Where a wave ends, its group has no barrier, is not deterministic, and no install waits for it.) -/
def ruleLanesExit : Prop :=
  ∀ (s : State),
    let x := s.csp
    let left := x.members &&& ~~~x.exec
    (PlainWave s → s.cw.tokens = [] →
      (left ≠ 0 → ∃ u, exec .exit s = .next u ∧ u.csp = { s.csp.past s.cur.len with members := left, exec := left } ∧
        OtherSplits s u ∧ u.cw.region.isOpen = false ∧
        { u.cw with region := s.cw.region, nextIssue := s.cw.nextIssue, splits := s.cw.splits } = s.cw ∧ OnlyWave s u) ∧
      (left = 0 → (∃ k, k ≠ s.cur.sl ∧ Tbl.has s.cw.splits k = true) → ∃ u, exec .exit s = .next u ∧
        Tbl.get? u.cw.splits s.cur.sl = none ∧ OtherSplits s u ∧ u.cw.region.isOpen = false ∧
        { u.cw with region := s.cw.region, nextIssue := s.cw.nextIssue, splits := s.cw.splits } = s.cw ∧ OnlyWave s u)) ∧
    (PlainWave s → s.cw.tokens = [] → s.cg.bars = [] → s.cg.det = false → (∀ y, y ∈ s.disp.installs → y.complete = true) →
      left = 0 → s.cw.splits.length = 1 →
      (∃ w W, w ≠ s.cur.w ∧ (w, W) ∈ s.cg.waves ∧ W.ended = false) → Tbl.get? s.cg.waves s.cur.w ≠ none →
      ∃ u, exec .exit s = .next u ∧ u.cw.ended = true ∧ u.cw.splits = [] ∧ u.cg.place = s.cg.place ∧
        OnlyWave { s with cores := u.cores } u ∧ (∀ k, k ≠ s.cu → u.core k = s.core k) ∧
        u.core s.cu = if s.cc.mxHolder = some (s.cur.g, s.cur.w) then { s.cc with mxHolder := none } else s.cc)

/-- R109, R143, R291: YIELD. The wave adopts the group's current bank and loses the greedy claim; where a lease withdraws the
core, the gang is pre-empted now. YIELD.r with no image pending does the same and closes the region (R95). -/
def ruleYielding : Prop :=
  ∀ (s : State) (im : Fin 4096),
    let effect (u : State) : Prop := Issued s u ∧ u.cw.actB = s.cg.curB ∧ u.cw.actPending = false ∧ u.cw.yielded = true
    (s.cg.det = false → s.cg.preempt ≠ .atYield → ∃ u, exec .yield s = .next u ∧ effect u ∧ OnlyWave s u ∧
      { u.cw with actB := s.cw.actB, actPending := s.cw.actPending, yielded := s.cw.yielded, nextIssue := s.cw.nextIssue
                  splits := s.cw.splits } = s.cw) ∧
    (s.cg.det = false → s.cg.preempt = .atYield → s.cg.place = .placed → ∃ u, exec .yield s = .next u ∧ effect u ∧
      u.cg.preempt = .now ∧ (∀ g, g ≠ s.cur.g → u.group g =
        if (s.group g).kernel = s.cg.kernel ∧ (s.group g).gang = s.cg.gang ∧ (s.group g).place = .placed ∧
            Tbl.get? s.groups g ≠ none
        then { s.group g with preempt := .now } else s.group g)) ∧
    (s.pendingImage = none → s.cg.det = false → s.cg.preempt ≠ .atYield → ∃ u, exec (.yieldR im) s = .next u ∧ effect u ∧
      OnlyWave s u ∧ u.cw.region.isOpen = false)

/-- R109, R111: EXIT, YIELD and YIELD.r. -/
def Obligations.ExitsAndYields : Prop := ruleLanesExit ∧ ruleYielding

/-- R110, R112, R113, R122: the instructions that change the split's waits, format or exec, and REGION, with their limits. -/
def ruleSplitSettings : Prop :=
  ∀ (s : State) (a : Fin 64) (mk v sg m c : Fin 8) (lit : Word) (d : Fin 64),
    let p := s.csp.past s.cur.len
    (∃ u, exec (.waitc v sg m c) s = .next u ∧ u.csp = { p with wait := ⟨v.val, sg.val, m.val, c.val⟩ } ∧ OtherSplits s u ∧
      WaveStill s u ∧ OnlyWave s u) ∧
    (fmtOk lit = true → ∃ u, exec (.setfmt lit) s = .next u ∧ u.csp = { p with fmt := lit } ∧ OtherSplits s u ∧ WaveStill s u ∧
      OnlyWave s u) ∧
    (fmtOk lit = false → exec (.setfmt lit) s = .next (s.raise cIllegal)) ∧
    ((s.rdS a.val).toNat < 2 ^ 32 → fmtOk ((s.rdS a.val).setWidth 32) = true → ∃ u, exec (.setfmtScalar a) s = .next u ∧
      u.csp = { p with fmt := (s.rdS a.val).setWidth 32 } ∧ OtherSplits s u ∧ WaveStill s u ∧ OnlyWave s u) ∧
    ((2 ^ 32 ≤ (s.rdS a.val).toNat ∨ fmtOk ((s.rdS a.val).setWidth 32) = false) →
      exec (.setfmtScalar a) s = .next (s.raise cIllegal)) ∧
    GivesScalar (.getfmt d) s d.val s.csp.fmt.toNat ∧
    (∃ u, exec (.mrst mk) s = .next u ∧ u.csp = { p with exec := s.rdM mk.val &&& p.members } ∧ OtherSplits s u ∧ WaveStill s u ∧
      OnlyWave s u) ∧
    (s.csp.ctx.idx + 1 = s.csp.ctx.n → s.cw.splits.length = 1 → ∃ u, exec .region s = .next u ∧ Issued s u ∧
      u.cw.iregpc = nextHeader s ∧ u.cw.region.isOpen = true ∧ u.cw.region.restarts = 0 ∧ u.cw.region.members = s.csp.members ∧
      u.cw.region.fmt = s.csp.fmt ∧ u.cw.region.depth = s.cw.tokens.length + s.cw.spilled.length ∧
      u.cw.region.rng = s.cw.ctr.toList.map (fun k => k.setWidth 64) ∧ u.cw.region.written = [] ∧
      { u.cw with iregpc := s.cw.iregpc, region := s.cw.region, nextIssue := s.cw.nextIssue, splits := s.cw.splits } = s.cw ∧
      OnlyWave { s with nextId := u.nextId } u) ∧
    ((s.csp.ctx.idx + 1 ≠ s.csp.ctx.n ∨ s.cw.splits.length ≠ 1) → exec .region s = .next (s.raise cIllegal))

/-- The bits of `%fmt` that R44 and R45 admit: reserved bits zero, and each field a code that means something. -/
def ruleFormatWordsAdmitted : Prop :=
  ∀ v : Word, fmtOk v = true ↔
    (v.toNat / 2 ^ 15 % 2 = 0 ∧ v.toNat / 2 ^ 20 = 0 ∧ v.toNat / 2 ^ 16 % 4 < 3 ∧ v.toNat / 2 ^ 18 % 4 < 2 ∧
      v.toNat / 2 ^ 12 % 8 < 5 ∧ v.toNat / 2 ^ 8 % 16 < 12)

/-- R44, R45, R110, R112, R113, R122: waits, formats, exec, regions, and the words that `%fmt` admits. -/
def Obligations.SplitSettings : Prop := ruleSplitSettings ∧ ruleFormatWordsAdmitted

/-! ## Traps -/

/-- R118, R119: a fault outside trap mode with a handler set enters it. s61 to s63 receive code and detail, the pc and the
address; the frame keeps pc, clause, format and the three scalars; the split runs the handler, the others freeze, and it waits at no
rendezvous slot or taper port any more. -/
def ruleTrapEntry : Prop :=
  ∀ (s : State) (code detail addr : Nat),
    s.csp.mode ≠ .trap → code ≠ cToken → code ≠ cPoison → (code = cMxint → s.cw.region.isOpen = false) →
    (s.ctx s.cctx).trap ≠ 0 →
    let t := s.raise code detail addr
    (∀ c, t.regAt c (.s 61) = BitVec.ofNat 64 (code + 2 ^ 32 * (detail % 2 ^ 32)) ∧ t.regAt c (.s 62) = s.csp.pc ∧
      t.regAt c (.s 63) = BitVec.ofNat 64 addr) ∧
    (∀ c r, r ≠ .s 61 → r ≠ .s 62 → r ≠ .s 63 → t.regAt c r = s.regAt c r) ∧
    t.csp = { s.csp with
      pc := BitVec.ofNat 64 (s.ctx s.cctx).trap, ctx := {}, entering := .fall, wait := {}, block := .none, mode := .trap
      readySince := none } ∧
    (∀ k, k ≠ s.cur.sl → Tbl.get? t.cw.splits k = (Tbl.get? s.cw.splits k).map fun p => { p with mode := .frozen }) ∧
    t.cw.trap = some ⟨s.csp.pc, s.csp.ctx, s.csp.entering, s.csp.fmt, s.cw.s.toList.getD 61 0, s.cw.s.toList.getD 62 0,
      s.cw.s.toList.getD 63 0, s.cur.len, []⟩ ∧
    { t.cw with s := s.cw.s, inflight := s.cw.inflight, trap := s.cw.trap, nextIssue := s.cw.nextIssue
                splits := s.cw.splits } = s.cw ∧
    OnlyWave s.leaveLines t ∧ { t with groups := s.groups, cores := s.cores } = s ∧
    { t.cg with waves := s.cg.waves, rdv := s.cg.rdv } = s.cg ∧
    (∀ k, t.cg.slot k = { s.cg.slot k with
      waiters := (s.cg.slot k).waiters.filter fun o => !(o.1 == s.cur.w && o.2.1 == s.cur.sl) }) ∧
    (∀ u, t.core u = { s.core u with
      portWait := if u = s.cu then (s.core u).portWait.filter fun o => o != (s.cur.g, s.cur.w, s.cur.sl) else (s.core u).portWait })

/-- R120: TRAP raises the fault TRAP, code 0x12, with the immediate as its detail. -/
def ruleTrapInstruction : Prop :=
  ∀ (s : State) (im : SImm),
    let i : Int := match im with
      | .small c => if c.val < 32 then c.val else (c.val : Int) - 64
      | .lit w => w.toInt
    exec (.trap im) s = .next (s.raise 0x12 (i % 2 ^ 32).toNat) ∧
    (s.csp.mode = .active → (s.ctx s.cctx).trap ≠ 0 → ∃ t, exec (.trap im) s = .next t ∧ t.csp.mode = .trap ∧
      t.csp.pc = BitVec.ofNat 64 (s.ctx s.cctx).trap ∧
      ∀ c, t.regAt c (.s 61) = BitVec.ofNat 64 (0x12 + 2 ^ 32 * (i % 2 ^ 32).toNat))

/-- R118-R120: trap entry, and TRAP. -/
def ruleTrapsAreTaken : Prop := ruleTrapEntry ∧ ruleTrapInstruction

/-- R121: RETT, from a handler with one split and no token, restores s61 to s63, thaws the frozen splits, and resumes the
interrupted code with the handler's lanes: at the faulting word, after it, or at the header that s62 names. -/
def ruleTrapReturn : Prop :=
  ∀ (s : State) (m : Fin 4) (f : TrapFrame),
    s.cw.trap = some f → f.tokens = [] → s.csp.mode = .trap →
    (s.cw.splits.filter fun e => e.2.mode == .trap).length ≤ 1 →
    let back (u : State) : Prop :=
      (∀ c, u.regAt c (.s 61) = f.s61 ∧ u.regAt c (.s 62) = f.s62 ∧ u.regAt c (.s 63) = f.s63) ∧
      (∀ c r, r ≠ .s 61 → r ≠ .s 62 → r ≠ .s 63 → u.regAt c r = s.regAt c r) ∧ u.cw.trap = none ∧
      (∀ k, k ≠ s.cur.sl → Tbl.get? u.cw.splits k =
        (Tbl.get? s.cw.splits k).map fun p => if p.mode = .frozen then { p with mode := .active } else p) ∧
      u.csp.mode = .active ∧ u.csp.fmt = f.fmt ∧ u.csp.members = s.csp.members ∧ u.csp.exec = s.csp.members ∧
      { u.cw with s := s.cw.s, inflight := s.cw.inflight, trap := s.cw.trap, nextIssue := s.cw.nextIssue
                  splits := s.cw.splits } = s.cw
    (m.val = 0 → ∃ u, exec (.rett m) s = .next u ∧ back u ∧ OnlyWave s u ∧ u.csp.pc = f.pc ∧ u.csp.ctx = f.ctx ∧
      u.csp.entering = f.entering) ∧
    (m.val = 1 → f.entering = .no → f.ctx.idx + f.len ≤ f.ctx.n → ∃ u, exec (.rett m) s = .next u ∧ back u ∧ OnlyWave s u ∧
      u.csp.pc = BitVec.ofNat 64 (f.ctx.hdr.toNat + 4 * (f.ctx.idx + f.len + 1))) ∧
    (m.val = 2 → s.isHeader (s.rdS 62) → ∃ u, exec (.rett m) s = .next u ∧ back u ∧ OnlyWaveTlb s u ∧
      u.csp.pc = s.rdS 62 ∧ u.csp.entering = .checked) ∧
    (m.val = 3 → exec (.rett m) s = .next (s.raise cIllegal))

/-- R118-R121: taking a trap and returning from it. -/
def Obligations.Traps : Prop := ruleTrapsAreTaken ∧ ruleTrapReturn

/-- A group has ended with a code: its waves and what they waited for are over, and its kernel fails with that code where it can. -/
def EndedWith (s t : State) (g code : Nat) : Prop :=
  let k := (s.group g).kernel
  (t.group g).place = .ended ∧ (t.group g).failed = true ∧
  (∀ v X, Tbl.get? (t.group g).waves v = some X → X.ended = true ∧ X.splits = [] ∧ X.results = []) ∧
  ((s.kernel k).st.canFail = true → (t.kernel k).st = .failing ∧ (t.kernel k).code = code)

/-- R118, R126: a fault in trap mode ends the group with DOUBLE, TOKEN ends it at once, and so does any fault without a handler. -/
def ruleFaultsEndTheGroup : Prop :=
  ∀ (s : State) (code detail addr : Nat),
    (s.csp.mode = .trap → s.raise code detail addr = s.endGroup s.cur.g cDouble code) ∧
    (s.csp.mode ≠ .trap → s.raise cToken detail addr = s.endGroup s.cur.g cToken 0) ∧
    (s.csp.mode ≠ .trap → code ≠ cToken → code ≠ cPoison → (code = cMxint → s.cw.region.isOpen = false) →
      (s.ctx s.cctx).trap = 0 → s.raise code detail addr = s.endGroup s.cur.g code detail) ∧
    (∀ g d, let t := s.endGroup g code d
      (t.group g).place = .ended ∧ (t.group g).failed = true ∧ (t.group g).locks = [] ∧
      (∀ w W, Tbl.get? (t.group g).waves w = some W → W.ended = true ∧ W.splits = [] ∧ W.results = []) ∧
      ((s.kernel (s.group g).kernel).st.canFail = true →
        (t.kernel (s.group g).kernel).st = .failing ∧ (t.kernel (s.group g).kernel).code = code ∧
        (t.kernel (s.group g).kernel).noGroups = true))

/-- Two choices of the model: poison returned to any split of a wave that has a trap frame ends the group with DOUBLE, a frozen split's
too (log 84), and poison of an instruction that was issued before the open region ends it with POISON (log 85). -/
def ruleOtherPoisonEndsTheGroup : Prop :=
  ∀ (s : State) (g w r : Nat),
    let W := s.wave g w
    (W.trap ≠ none → EndedWith s (s.consumePoison g w r) g cDouble) ∧
    (W.trap = none → W.region.isOpen = true → W.region.id ≠ r → EndedWith s (s.consumePoison g w r) g cPoison)

/-- R124: what a restart does. The fourth ends the group with POISON, and one of a region that has written ends it with the reported
code. Otherwise every split ends and one starts at %iregpc with the region's members and format; the tokens pushed in the region, its
pending results and its copies and drains to the scratchpad go; each lane's draws are made again; registers, masks and the keys keep
their values, and the core's score rises by 256. -/
def ruleRestartOfARegion : Prop :=
  ∀ (s : State) (g w code detail : Nat),
    let t := s.restart g w code detail
    let W := s.wave g w
    let R := W.region
    let X := t.wave g w
    let u := (s.group g).unit
    let gone (r : Result) : Bool := r.region == R.id && r.discardable
    (R.restarts = 3 → t = s.endGroup g cPoison 0) ∧
    (R.restarts ≠ 3 → R.written ≠ [] → t = s.endGroup g code detail) ∧
    (R.restarts ≠ 3 → R.written = [] →
      X.splits = [(0, { members := R.members, exec := R.members, fmt := R.fmt, pc := W.iregpc, entering := .checked })] ∧
      X.region = { R with restarts := R.restarts + 1, cleared := [] } ∧
      (∀ k, k ∈ X.tokens → k.region ≠ R.id) ∧ X.results = W.results.filter (fun r => !gone r) ∧
      X.vmc = W.vmc - (W.results.filter fun r => gone r && decide (r.counter = .vmc)).length ∧
      X.smc = W.smc - (W.results.filter fun r => gone r && decide (r.counter = .smc)).length ∧
      (∀ c, c ∈ (t.group g).copies → c.wave = w → c.region = R.id → c.form ≠ 1 ∧ (c.form = 0 → c.dir ≠ 0 ∧ c.dir ≠ 3)) ∧
      (∀ d, d ∈ (t.core u).drains → d.group = g → d.wave = w → d.region = R.id →
        ∃ st p, st ∈ d.steps ∧ p ∈ st ∧ placeIsScratch p.1 = false) ∧
      (∀ l, l < 32 → ∃ hi, (X.ctr.toList.getD l 0).toNat = (R.rng.getD l 0).toNat + 2 ^ 64 * hi ∧
        hi = (W.ctr.toList.getD l 0).toNat / 2 ^ 64) ∧
      X.v = W.v ∧ X.m = W.m ∧ X.key = W.key ∧ X.iregpc = W.iregpc ∧
      (t.unit u).score = min ((s.unit u).score + 256) 0xFFFF)

/-- R124: a wave restarts for poison, or MXINT, of an instruction issued while its region is open. -/
def ruleWhatRestarts : Prop :=
  ∀ (s : State) (g w r detail addr : Nat),
    ((s.wave g w).trap = none → (s.wave g w).region.isOpen = true → (s.wave g w).region.id = r →
      s.consumePoison g w r = s.restart g w cPoison) ∧
    (s.csp.mode ≠ .trap → s.cw.region.isOpen = true → s.raise cMxint detail addr = s.restart s.cur.g s.cur.w cMxint detail)

/-- R118, R124, R126: faults end the group; poison ends it, or restarts the wave at its region, and so does MXINT. -/
def Obligations.FaultsEndTheGroupOrRestartTheWave : Prop :=
  ruleFaultsEndTheGroup ∧ ruleOtherPoisonEndsTheGroup ∧ ruleRestartOfARegion ∧ ruleWhatRestarts

/-- R126: poison consumed while no region is open ends the group with POISON; in trap mode it ends it with DOUBLE. -/
def Obligations.PoisonOutsideARegionEndsTheGroup : Prop :=
  ∀ (s : State) (g w r : Nat),
    let W := s.wave g w
    (W.trap = none → W.region.isOpen = false → EndedWith s (s.consumePoison g w r) g cPoison) ∧
    (W.trap ≠ none → (∀ p, p ∈ W.splits → p.2.mode = .trap) → EndedWith s (s.consumePoison g w r) g cDouble)

/-! ## Vector integers -/

/-- R134: what each integer operation of two vector registers gives in each lane of exec, with its frame. -/
def ruleVectorIntegerRegisters : Prop :=
  ∀ (s : State) (d a b : Fin 128), d.val < s.cw.v.length →
    let A (l : Nat) : Nat := (s.rdVL a.val l).toNat
    let B (l : Nat) : Nat := (s.rdVL b.val l).toNat
    let O (l : Nat) : Nat := (s.rdVL d.val l).toNat
    let X (l : Nat) : Int := (s.rdVL a.val l).toInt
    let Y (l : Nat) : Int := (s.rdVL b.val l).toInt
    let word (x : Int) : Nat := (x % 2 ^ 32).toNat
    let gives (i : Instr) (f : Nat → Nat) : Prop := GivesVector i s d.val f 0 0
    gives (.vaddI32 d a b) (fun l => (A l + B l) % 2 ^ 32) ∧
    gives (.vsubI32 d a b) (fun l => (A l + 2 ^ 32 - B l) % 2 ^ 32) ∧
    gives (.vmulI32 d a b) (fun l => A l * B l % 2 ^ 32) ∧
    gives (.vmulhI32 d a b) (fun l => word (X l * Y l / 2 ^ 32)) ∧
    gives (.vmulhN32 d a b) (fun l => A l * B l / 2 ^ 32) ∧
    gives (.vmadI32 d a b) (fun l => (A l * B l + O l) % 2 ^ 32) ∧
    gives (.vminI32 d a b) (fun l => word (min (X l) (Y l))) ∧
    gives (.vmaxI32 d a b) (fun l => word (max (X l) (Y l))) ∧
    gives (.vminN32 d a b) (fun l => min (A l) (B l)) ∧
    gives (.vmaxN32 d a b) (fun l => max (A l) (B l)) ∧
    gives (.vand d a b) (fun l => A l &&& B l) ∧
    gives (.vor d a b) (fun l => A l ||| B l) ∧
    gives (.vxor d a b) (fun l => A l ^^^ B l) ∧
    gives (.vshl d a b) (fun l => A l * 2 ^ B l % 2 ^ 32) ∧
    gives (.vshr d a b) (fun l => A l / 2 ^ B l) ∧
    gives (.vsra d a b) (fun l => word (X l / 2 ^ B l)) ∧
    gives (.vmovI32 d a) A ∧
    gives (.vaddI16x2 d a b) (fun l => (A l % 2 ^ 16 + B l % 2 ^ 16) % 2 ^ 16 + (A l / 2 ^ 16 + B l / 2 ^ 16) % 2 ^ 16 * 2 ^ 16) ∧
    gives (.vsubI16x2 d a b) (fun l =>
      (A l % 2 ^ 16 + 2 ^ 16 - B l % 2 ^ 16) % 2 ^ 16 + (A l / 2 ^ 16 + 2 ^ 16 - B l / 2 ^ 16) % 2 ^ 16 * 2 ^ 16) ∧
    gives (.vaddI8x4 d a b) (fun l =>
      ((List.range 4).map fun i => (A l / 256 ^ i % 256 + B l / 256 ^ i % 256) % 256 * 256 ^ i).sum) ∧
    gives (.vsubI8x4 d a b) (fun l =>
      ((List.range 4).map fun i => (A l / 256 ^ i % 256 + 256 - B l / 256 ^ i % 256) % 256 * 256 ^ i).sum)

/-- R29, R134: the same operations with a short operand, and with operand A a vector register, a scalar or a short code. -/
def ruleVectorIntegerShortForms : Prop :=
  ∀ (s : State) (d : Fin 128) (a : OpA) (b : Short), d.val < s.cw.v.length →
    let A (l : Nat) : Nat := (s.opaInt a l).toNat
    let B (l : Nat) : Nat := (s.shortInt b l).toNat
    let gives (i : Instr) (f : Nat → Nat) : Prop := GivesVector i s d.val f 0 0
    gives (.vaddI32Vi d a b) (fun l => (A l + B l) % 2 ^ 32) ∧
    gives (.vsubI32Vi d a b) (fun l => (A l + 2 ^ 32 - B l) % 2 ^ 32) ∧
    gives (.vmulI32Vi d a b) (fun l => A l * B l % 2 ^ 32) ∧
    gives (.vandVi d a b) (fun l => A l &&& B l) ∧
    gives (.vorVi d a b) (fun l => A l ||| B l) ∧
    gives (.vxorVi d a b) (fun l => A l ^^^ B l) ∧
    gives (.vshlVi d a b) (fun l => A l * 2 ^ B l % 2 ^ 32) ∧
    gives (.vshrVi d a b) (fun l => A l / 2 ^ B l) ∧
    gives (.vsraVi d a b) (fun l => ((s.opaInt a l).toInt / 2 ^ B l % 2 ^ 32).toNat) ∧
    gives (.vmovI32Vi d a) A

/-- R29, R134: every integer operation of the lanes, in both operand forms. -/
def Obligations.VectorIntegers : Prop := ruleVectorIntegerRegisters ∧ ruleVectorIntegerShortForms

/-- R135, R136: VSEL writes the lanes of exec whose mask bit is 1, and no other; VBFE extracts and VBFI inserts the field of the control word. -/
def ruleSelectionAndBitFields : Prop :=
  ∀ (s : State) (d a b : Fin 128) (m : Fin 8), d.val < s.cw.v.length →
    let A (l : Nat) : Nat := (s.rdVL a.val l).toNat
    let B (l : Nat) : Nat := (s.rdVL b.val l).toNat
    let O (l : Nat) : Nat := (s.rdVL d.val l).toNat
    let o (l : Nat) : Nat := B l % 32
    let w (l : Nat) : Nat := min (B l / 256 % 64) 32
    let f (l : Nat) : Nat := A l / 2 ^ o l % 2 ^ w l
    let k (l : Nat) : Nat := (2 ^ w l - 1) * 2 ^ o l % 2 ^ 32
    (∃ t, exec (.vsel d m b) s = .next t ∧
      Fixed s t (fun r => ∃ l, l < 32 ∧ s.csp.exec.getLsbD l = true ∧ (s.rdM m.val).getLsbD l = true ∧ r = .v d.val l)
        (laneOf B) 4 0 0) ∧
    GivesVector (.vbfe d a b) s d.val
      (fun l => if B l / 2 ^ 16 % 2 = 1 ∧ 0 < w l ∧ f l / 2 ^ (w l - 1) % 2 = 1 then f l + (2 ^ 32 - 2 ^ w l) else f l) 0 0 ∧
    GivesVector (.vbfi d a b) s d.val (fun l => (O l &&& (2 ^ 32 - 1 - k l)) ||| (A l * 2 ^ o l % 2 ^ 32 &&& k l)) 0 0

/-- The exact value of a sign, a significand and an exponent. -/
def exactQ (n : Bool) (m : Nat) (e : Int) : ℚ := (if n then -1 else 1) * m * (2 : ℚ) ^ e

/-- A mask with the lanes of exec for which `p` holds. -/
def MaskOfExec (s : State) (x : Word) (p : Nat → Prop) : Prop :=
  ∀ l, l < 32 → (x.getLsbD l = true ↔ s.csp.exec.getLsbD l = true ∧ p l)

/-- The integer conditions of R30 by code. -/
def intHolds (c : Nat) (a b : Word) : Prop :=
  match c with
  | 0 => a = b
  | 1 => a ≠ b
  | 2 => a.toInt < b.toInt
  | 3 => a.toInt ≤ b.toInt
  | 4 => a.toInt > b.toInt
  | 5 => a.toInt ≥ b.toInt
  | 6 => a.toNat < b.toNat
  | 7 => a.toNat ≤ b.toNat
  | 8 => a.toNat > b.toNat
  | _ => a.toNat ≥ b.toNat

/-- The float conditions of R139 by code, of values that are finite. -/
def floatHolds (c : Nat) (x y : ℚ) : Prop :=
  match c with
  | 0 => x = y
  | 1 => x ≠ y
  | 2 => x < y
  | 3 => x ≤ y
  | 4 => x > y
  | 5 => x ≥ y
  | 10 => True
  | _ => False

/-- R30, R137: VCMP writes the whole mask, the lanes of exec by the condition and the others 0, with a latency of 4. -/
def ruleVectorIntegerCompares : Prop :=
  ∀ (s : State) (m : Fin 8) (c : Fin 16) (a b : Fin 128) (u : OpA) (v : Short), c.val < 10 →
    (∃ x, MaskOfExec s x (fun l => intHolds c.val (s.rdVL a.val l) (s.rdVL b.val l)) ∧
      GivesMask (.vcmp m c a b) s m.val x 4 0) ∧
    (∃ x, MaskOfExec s x (fun l => intHolds c.val (s.opaInt u l) (s.shortInt v l)) ∧
      GivesMask (.vcmpVi m c u v) s m.val x 4 0)

/-- R30, R135-R137: selection, bit fields and integer compares. -/
def Obligations.SelectionAndCompares : Prop := ruleSelectionAndBitFields ∧ ruleVectorIntegerCompares

/-! ## Floats -/

/-- The conditions that VFCMP admits (R139). -/
def floatCond (c : Nat) : Prop := c < 6 ∨ c = 10 ∨ c = 11

/-- R139: VFCMP writes the whole mask by the condition, with the flags of the lanes of exec. -/
def ruleVectorFloatCompares : Prop :=
  ∀ (s : State) (m : Fin 8) (c : Fin 16) (a b : Fin 128) (u : OpA) (v : Short), floatCond c.val →
    (∃ x, MaskOfExec s x (fun l => (fCmp c.val (s.rdVL a.val l) (s.rdVL b.val l)).1 = true) ∧
      GivesMask (.vfcmp m c a b) s m.val x 4 (execFlags s fun l => (fCmp c.val (s.rdVL a.val l) (s.rdVL b.val l)).2)) ∧
    (∃ x, MaskOfExec s x (fun l => (fCmp c.val (s.opaFloat u l) (s.shortFloat v l)).1 = true) ∧
      GivesMask (.vfcmpVi m c u v) s m.val x 4 (execFlags s fun l => (fCmp c.val (s.opaFloat u l) (s.shortFloat v l)).2))

/-- R139: the conditions on finite values are those of exact comparison, with no flag; a NaN makes only ne and uno hold, raises
invalid under lt to ge, and under every condition where it is a signalling one. -/
def ruleFloatConditions : Prop :=
  ∀ (c : Nat) (a b : Word), floatCond c →
    (∀ n m e n' m' e', f32 a = .fin n m e → f32 b = .fin n' m' e' →
      ((fCmp c a b).1 = true ↔ floatHolds c (exactQ n m e) (exactQ n' m' e')) ∧ (fCmp c a b).2 = 0) ∧
    (isNan (f32 a) || isNan (f32 b) → ((fCmp c a b).1 = true ↔ c = 1 ∨ c = 11) ∧
      (fCmp c a b).2 = if (2 ≤ c ∧ c ≤ 5) ∨ isSnan (f32 a) ∨ isSnan (f32 b) then fInvalid else 0)

/-- R139: float compares, and what each condition says of exact values. -/
def Obligations.FloatCompares : Prop := ruleVectorFloatCompares ∧ ruleFloatConditions

/-- R129, R130, R138: each float operation gives, in the lanes of exec, its one rounded result, and raises the flags of those
lanes; VFMA reads the old destination. -/
def Obligations.VectorFloatArithmetic : Prop :=
  ∀ (s : State) (d a b : Fin 128) (u : OpA) (v : Short), d.val < s.cw.v.length →
    let gives (i : Instr) (f : Nat → Word × Flags) : Prop :=
      GivesVector i s d.val (fun l => (f l).1.toNat) (execFlags s fun l => (f l).2) 0
    let A := s.rdVL a.val
    let B := s.rdVL b.val
    gives (.vfadd d a b) (fun l => fAdd (A l) (B l)) ∧ gives (.vfsub d a b) (fun l => fSub (A l) (B l)) ∧
    gives (.vfmul d a b) (fun l => fMul (A l) (B l)) ∧ gives (.vfma d a b) (fun l => fFma (A l) (B l) (s.rdVL d.val l)) ∧
    gives (.vfmin d a b) (fun l => fMinMax true (A l) (B l)) ∧ gives (.vfmax d a b) (fun l => fMinMax false (A l) (B l)) ∧
    gives (.vfaddVi d u v) (fun l => fAdd (s.opaFloat u l) (s.shortFloat v l)) ∧
    gives (.vfmulVi d u v) (fun l => fMul (s.opaFloat u l) (s.shortFloat v l))

/-- R46, R47, R138: the operations form the exact result of finite operands and round it once by rne; a NaN operand gives the
canonical NaN, with invalid for a signalling one; an exact zero sum is +0 unless both operands are -0; minimum and maximum order
the exact values, -0 below +0. -/
def Obligations.FloatOperationsAreExactThenRounded : Prop :=
  ∀ (a b c : Word),
    let rounds (r : Word × Flags) (q : ℚ) : Prop :=
      ∃ n m e, exactQ n m e = q ∧ r = (BitVec.ofNat 32 (fp32F.round .rne n m e false).1, (fp32F.round .rne n m e false).2)
    (∀ n m e n' m' e' n'' m'' e'', f32 a = .fin n m e → f32 b = .fin n' m' e' → f32 c = .fin n'' m'' e'' →
      rounds (fAdd a b) (exactQ n m e + exactQ n' m' e') ∧ rounds (fSub a b) (exactQ n m e - exactQ n' m' e') ∧
      rounds (fMul a b) (exactQ n m e * exactQ n' m' e') ∧
      rounds (fFma a b c) (exactQ n m e * exactQ n' m' e' + exactQ n'' m'' e'') ∧
      (exactQ n m e + exactQ n' m' e' = 0 →
        (fAdd a b).1 = if n = true ∧ m = 0 ∧ n' = true ∧ m' = 0 then 0x80000000 else 0) ∧
      (exactQ n m e < exactQ n' m' e' → (fMinMax true a b).1 = a ∧ (fMinMax false a b).1 = b) ∧
      (exactQ n m e > exactQ n' m' e' → (fMinMax true a b).1 = b ∧ (fMinMax false a b).1 = a) ∧
      (m = 0 → m' = 0 → n = true → n' = false → (fMinMax true a b).1 = a ∧ (fMinMax false a b).1 = b)) ∧
    (isNan (f32 a) || isNan (f32 b) →
      let fl : Flags := if isSnan (f32 a) ∨ isSnan (f32 b) then fInvalid else 0
      fAdd a b = (canonNan, fl) ∧ fSub a b = (canonNan, fl) ∧ fMul a b = (canonNan, fl) ∧
      fMinMax true a b = (canonNan, fl) ∧ fMinMax false a b = (canonNan, fl)) ∧
    (∀ n, f32 a = .inf n → (∀ m e n', f32 b = .fin n' m e → m = 0 → fMul a b = (canonNan, fInvalid) ∧
      (fFma a b c).1 = canonNan ∧ (fFma a b c).2.getLsbD 0 = true))

/-- R50, R52: rounding to FP32 by rne gives the nearest value, the even code on a tie, infinity from half an ulp past the largest
value, and inexact exactly where the value changed. -/
def Obligations.Fp32RoundsToNearestEven : Prop :=
  ∀ (n : Bool) (m : Nat) (e : Int),
    let r := fp32F.round .rne n m e false
    let q := exactQ n m e
    let v := f32 (BitVec.ofNat 32 r.1)
    r.1 < 2 ^ 32 ∧
    (|q| < 2 ^ 128 - 2 ^ 103 → ∃ M E, v = .fin n M E ∧ (r.2.getLsbD 4 = true ↔ exactQ n M E ≠ q) ∧
      ∀ (y : Word) (n' : Bool) (m' : Nat) (e' : Int), f32 y = .fin n' m' e' →
        |exactQ n M E - q| ≤ |exactQ n' m' e' - q| ∧
        (|exactQ n M E - q| = |exactQ n' m' e' - q| → exactQ n M E ≠ exactQ n' m' e' → r.1 % 2 = 0)) ∧
    (2 ^ 128 - 2 ^ 103 ≤ |q| → v = .inf n ∧ r.2 = fOverflow ||| fInexact)

/-- R51, R140: VCVT converts each lane by its code and mode; with srn each lane of exec makes one call, whose word 0 rounds. -/
def ruleVectorConversions : Prop :=
  ∀ (s : State) (d a : Fin 128) (c : Fin 16) (r : Fin 8), d.val < s.cw.v.length → c.val < 9 → r.val < 5 →
    let word (l : Nat) : Nat :=
      ((rngBlock (s.cw.key.toList.getD l 0) (s.cw.ctr.toList.getD l 0)).getD 0 0).toNat
    let mode (l : Nat) : Rnd :=
      match r.val with
      | 0 => .rne
      | 1 => .rtz
      | 2 => .rup
      | 3 => .rdn
      | _ => .srn (word l)
    GivesVector (.vcvt d a c r) s d.val (fun l => (vcvt c.val (mode l) (s.rdVL a.val l)).1.toNat)
      (execFlags s fun l => (vcvt c.val (mode l) (s.rdVL a.val l)).2) (if r.val = 4 then 1 else 0)

/-- R52, R140: a conversion to an integer gives the integer that the mode chooses, saturates outside the range with invalid alone,
and gives 0 with invalid for a NaN; bf16 and fp16 sources are converted exactly. -/
def ruleIntegerConversions : Prop :=
  ∀ (x : Word),
    (∀ n m e, f32 x = .fin n m e →
      let q := exactQ n m e
      let chosen (md : Rnd) (z : Int) : Prop :=
        (-2 ^ 31 ≤ z → z < 2 ^ 31 → (vcvt 0 md x).1.toInt = z ∧ (vcvt 0 md x).2 = if (z : ℚ) = q then 0 else fInexact) ∧
        (z < -2 ^ 31 → vcvt 0 md x = (0x80000000, fInvalid)) ∧ (2 ^ 31 ≤ z → vcvt 0 md x = (0x7FFFFFFF, fInvalid)) ∧
        (0 ≤ z → z < 2 ^ 32 → ((vcvt 1 md x).1.toNat : Int) = z ∧ (vcvt 1 md x).2 = if (z : ℚ) = q then 0 else fInexact) ∧
        (z < 0 → vcvt 1 md x = (0, fInvalid)) ∧ (2 ^ 32 ≤ z → vcvt 1 md x = (0xFFFFFFFF, fInvalid))
      chosen .rdn ⌊q⌋ ∧ chosen .rup ⌈q⌉ ∧ chosen .rtz (if q < 0 then ⌈q⌉ else ⌊q⌋) ∧
      (∀ z : Int, |(z : ℚ) - q| < 1 / 2 → chosen .rne z) ∧ (∀ z : Int, 2 * q = 2 * z + 1 → chosen .rne (if z % 2 = 0 then z else z + 1))) ∧
    (∀ b md, f32 x = .nan b → vcvt 0 md x = (0, fInvalid) ∧ vcvt 1 md x = (0, fInvalid)) ∧
    (∀ md, (∀ n m e, bf16F.decode (x.toNat % 65536) = .fin n m e → ∃ m' e', f32 (vcvt 6 md x).1 = .fin n m' e' ∧
      exactQ n m' e' = exactQ n m e ∧ (vcvt 6 md x).2 = 0)) ∧
    (∀ md, (∀ n m e, fp16F.decode (x.toNat % 65536) = .fin n m e → ∃ m' e', f32 (vcvt 7 md x).1 = .fin n m' e' ∧
      exactQ n m' e' = exactQ n m e ∧ (vcvt 7 md x).2 = 0))

/-- The draw that rounds element `j` of lane `l` under srn (R141). -/
def elementDraw (s : State) (l j : Nat) : Nat :=
  let w := ((rngBlock (s.cw.key.toList.getD l 0) (s.cw.ctr.toList.getD l 0)).getD (j % 4) 0).toNat
  if j < 4 then w else (w * 2 ^ 16) % 2 ^ 32 + w / 2 ^ 16

/-- The value that a scale makes of `v` (R53, R141): NaN under 0xFF, otherwise times 2 to the sign × (e - 127). -/
def byScale (v : FVal) (e : Nat) (sign : Int) : FVal :=
  if e = 0xFF then .nan false
  else match v with
    | .fin n m x => .fin n m (x + sign * (e - 127))
    | .inf n => .inf n
    | .nan q => .nan q

/-- The rounding mode of the split's format for element `j` of lane `l` (R50, R51). -/
def formatMode (s : State) (l j : Nat) : Rnd :=
  match s.csp.fmt.toNat / 2 ^ 12 % 8 with
  | 0 => .rne
  | 1 => .rtz
  | 2 => .rup
  | 3 => .rdn
  | _ => .srn (elementDraw s l j)

/-- R141: VQNT packs the scaled elements of k registers into one, VDQNT unpacks one into k; each lane of exec makes one call under srn;
a register group outside the allocation raises ILLEGAL. That a signalling NaN among the sources raises invalid rests on R46 (log 29),
and that it does so under a scale of 0xFF too, and which codes of e5m2 signal, is the model's choice (log 87). -/
def ruleScaledQuantising : Prop :=
  ∀ (s : State) (d a b : Fin 128),
    let o := s.csp.fmt.toNat / 2 ^ 8 % 16
    let w := outWidth o
    let k := 32 / w
    let draws := if s.csp.fmt.toNat / 2 ^ 12 % 8 = 4 then 1 else 0
    let packs (l j : Nat) : Nat × Flags :=
      convertOut o (formatMode s l j) (byScale (f32 (s.rdVL (a.val + j) l)) ((s.rdVL b.val l).toNat % 256) (-1))
    let unpacks (l j : Nat) : Nat × Flags :=
      fp32F.convert (formatMode s l j)
        (byScale (outVal o ((s.rdVL a.val l).toNat / 2 ^ (j * w) % 2 ^ w)) ((s.rdVL b.val l).toNat % 256) 1)
    s.csp.fmt.toNat / 2 ^ 12 % 8 < 5 → o < 12 →
    (w < 32 → a.val + k ≤ s.cw.v.length → d.val < s.cw.v.length →
      GivesVector (.vqnt d a b) s d.val
        (fun l => (List.range k).foldl (fun x j => x ||| (packs l j).1 * 2 ^ (j * w)) 0 % 2 ^ 32)
        (execFlags s fun l => (List.range k).foldl (fun f j =>
          f ||| (packs l j).2 ||| (if isSnan (f32 (s.rdVL (a.val + j) l)) then fInvalid else 0)) 0) draws) ∧
    (w < 32 → d.val + k ≤ s.cw.v.length → ∃ t, exec (.vdqnt d a b) s = .next t ∧
      Fixed s t (fun r => ∃ j, j < k ∧ ExecLanes s (d.val + j) r)
        (fun r => match r with
          | .v x l => BitVec.ofNat 64 ((unpacks l (x - d.val)).1 % 2 ^ 32)
          | .s _ => 0
          | .m _ => 0
          | .h _ => 0) 4
        (execFlags s fun l => (List.range k).foldl (fun f j => f ||| (unpacks l j).2 |||
          (if isSnan (outVal o ((s.rdVL a.val l).toNat / 2 ^ (j * w) % 2 ^ w)) then fInvalid else 0)) 0) draws) ∧
    ((w = 32 ∨ s.cw.v.length < a.val + k) → exec (.vqnt d a b) s = .next (s.raise cIllegal)) ∧
    ((w = 32 ∨ s.cw.v.length < d.val + k) → exec (.vdqnt d a b) s = .next (s.raise cIllegal))

/-- R51, R140, R141: VCVT, VQNT and VDQNT. -/
def ruleConversions : Prop := ruleVectorConversions ∧ ruleScaledQuantising

/-- R38-R53, R140, R141: conversions between formats, and their values for the integer ones. -/
def Obligations.ConversionsBetweenFormats : Prop := ruleIntegerConversions ∧ ruleConversions

/-- R142: each special function writes its value and flags in the lanes of exec. -/
def Obligations.SpecialFunctions : Prop :=
  ∀ (s : State) (d a : Fin 128), d.val < s.cw.v.length →
    let gives (i : Instr) (k : Nat) : Prop :=
      GivesVector i s d.val (fun l => (special k (s.rdVL a.val l)).1.toNat) (execFlags s fun l => (special k (s.rdVL a.val l)).2) 0
    gives (.vexp2 d a) 0 ∧ gives (.vlog2 d a) 1 ∧ gives (.vrcp d a) 2 ∧ gives (.vrsq d a) 3 ∧ gives (.vsin d a) 4 ∧
    gives (.vcos d a) 5 ∧ gives (.vtanh d a) 6

/-- R142: the special operands of the special functions, their flags, and the exact cases; the reciprocal is the correctly rounded
quotient. -/
def Obligations.SpecialFunctionValues : Prop :=
  (∀ (k : Nat) (x : Word) (b : Bool), k < 7 → f32 x = .nan b → special k x = (canonNan, if b then fInvalid else 0)) ∧
  special 0 0xFF800000 = (0, 0) ∧ special 0 0x7F800000 = (0x7F800000, 0) ∧
  special 1 0 = (0xFF800000, fDivZero) ∧ special 1 0x80000000 = (0xFF800000, fDivZero) ∧ special 1 0x7F800000 = (0x7F800000, 0) ∧
  special 2 0 = (0x7F800000, fDivZero) ∧ special 2 0x80000000 = (0xFF800000, fDivZero) ∧ special 2 0x7F800000 = (0, 0) ∧
  special 2 0xFF800000 = (0x80000000, 0) ∧ special 3 0 = (0x7F800000, fDivZero) ∧ special 3 0x80000000 = (0xFF800000, fDivZero) ∧
  special 3 0x7F800000 = (0, 0) ∧ special 4 0x7F800000 = (canonNan, fInvalid) ∧ special 5 0xFF800000 = (canonNan, fInvalid) ∧
  special 5 0 = (0x3F800000, 0) ∧ special 5 0x80000000 = (0x3F800000, 0) ∧ special 6 0x7F800000 = (0x3F800000, 0) ∧
  special 6 0xFF800000 = (0xBF800000, 0) ∧ special 6 0x80000000 = (0x80000000, 0) ∧
  (∀ (x : Word) (m : Nat) (e : Int), f32 x = .fin true m e → m ≠ 0 →
    special 1 x = (canonNan, fInvalid) ∧ special 3 x = (canonNan, fInvalid)) ∧
  (∀ (x : Word) (n : Bool) (m : Nat) (e : Int), f32 x = .fin n m e → (∃ z : Int, 2 * exactQ n m e = z) →
    special 4 x = (if n then 0x80000000 else 0, 0)) ∧
  (∀ (x : Word) (n : Bool) (m : Nat) (e : Int), f32 x = .fin n m e → (∃ z : Int, 4 * exactQ n m e = 2 * z + 1) →
    special 5 x = (0, 0)) ∧
  (∀ (x : Word) (n : Bool) (m : Nat) (e : Int) (z : Int), f32 x = .fin n m e → exactQ n m e = z → -126 ≤ z → z ≤ 127 →
    ∃ m' e', f32 (special 0 x).1 = .fin false m' e' ∧ exactQ false m' e' = 2 ^ z ∧ (special 0 x).2 = 0) ∧
  (∀ (x : Word) (n : Bool) (m : Nat) (e : Int), f32 x = .fin n m e → m ≠ 0 → |(exactQ n m e)⁻¹| < 2 ^ 128 - 2 ^ 103 →
    ∃ M E, f32 (special 2 x).1 = .fin n M E ∧ ((special 2 x).2.getLsbD 4 = true ↔ exactQ n M E ≠ (exactQ n m e)⁻¹) ∧
      ∀ (y : Word) (n' : Bool) (m' : Nat) (e' : Int), f32 y = .fin n' m' e' →
        |exactQ n M E - (exactQ n m e)⁻¹| ≤ |exactQ n' m' e' - (exactQ n m e)⁻¹|)

/-! ## Random numbers and cross-lane instructions -/

/-- One round of R152 on numbers below 2^32. -/
def generatorRound (x : (Nat × Nat) × Nat × Nat) (k0 k1 : Nat) : (Nat × Nat) × Nat × Nat :=
  let rot (v n : Nat) : Nat := v * 2 ^ n % 2 ^ 32 + v / 2 ^ (32 - n)
  let p := x.1.1 * 0xE817FB2D
  let q := x.2.1 * 0xA4C39E61
  ((q / 2 ^ 32 ^^^ x.1.2 ^^^ k0, rot (q % 2 ^ 32) 7), (p / 2 ^ 32 ^^^ x.2.2 ^^^ k1, rot (p % 2 ^ 32) 13))

/-- R152: a call of the generator is ten rounds, the key words rising by their constants; each round is a bijection of the counter
words for a fixed key. -/
def Obligations.GeneratorBlocks : Prop :=
  (∀ (key : DWord) (ctr : BitVec 128),
    let start : (Nat × Nat) × Nat × Nat :=
      ((ctr.toNat % 2 ^ 32, ctr.toNat / 2 ^ 32 % 2 ^ 32), (ctr.toNat / 2 ^ 64 % 2 ^ 32, ctr.toNat / 2 ^ 96))
    let x := (List.range 10).foldl (fun x r =>
      generatorRound x ((key.toNat % 2 ^ 32 + r * 0x7F4A7C15) % 2 ^ 32) ((key.toNat / 2 ^ 32 + r * 0xF39CC061) % 2 ^ 32)) start
    (rngBlock key ctr).map BitVec.toNat = [x.1.1, x.1.2, x.2.1, x.2.2]) ∧
  (∀ (k0 k1 : Nat) (x y : (Nat × Nat) × Nat × Nat), k0 < 2 ^ 32 → k1 < 2 ^ 32 →
    (x.1.1 < 2 ^ 32 ∧ x.1.2 < 2 ^ 32 ∧ x.2.1 < 2 ^ 32 ∧ x.2.2 < 2 ^ 32) →
    (y.1.1 < 2 ^ 32 ∧ y.1.2 < 2 ^ 32 ∧ y.2.1 < 2 ^ 32 ∧ y.2.2 < 2 ^ 32) →
    generatorRound x k0 k1 = generatorRound y k0 k1 → x = y)

/-- The 128 bits of four registers in a lane. -/
def fourRegs (s : State) (a l : Nat) : Nat :=
  ((List.range 4).map fun k => (s.rdVL (a + k) l).toNat * 2 ^ (32 * k)).sum

/-- R153: RNG writes the four words of one call of each lane of exec; RNGSKIP adds to the 128-bit counter with carry; RNGSET sets
key and counter; the last two close the region (R123). -/
def Obligations.RandomNumbers : Prop :=
  ∀ (s : State) (d a b : Fin 128),
    let e := s.csp.exec
    let still (u : State) : Prop := RegsStill s u ∧ Issued s u ∧ OnlyWave s u ∧ u.cw.region.isOpen = false ∧
      { u.cw with region := s.cw.region, key := s.cw.key, ctr := s.cw.ctr, rngPoison := s.cw.rngPoison
                  nextIssue := s.cw.nextIssue, splits := s.cw.splits } = s.cw
    (d.val + 4 ≤ s.cw.v.length → ∃ t, exec (.rng d) s = .next t ∧
      Fixed s t (fun r => ∃ k, k < 4 ∧ ExecLanes s (d.val + k) r)
        (fun r => match r with
          | .v x l => BitVec.ofNat 64
              ((rngBlock (s.cw.key.toList.getD l 0) (s.cw.ctr.toList.getD l 0)).getD (x - d.val) 0).toNat
          | .s _ => 0
          | .m _ => 0
          | .h _ => 0) 4 0 1) ∧
    (∃ u, exec (.rngskip a) s = .next u ∧ still u ∧ u.cw.key = s.cw.key ∧ u.cw.rngPoison = s.cw.rngPoison ∧ ∀ l, l < 32 →
      (u.cw.ctr.toList.getD l 0).toNat =
        if e.getLsbD l then ((s.cw.ctr.toList.getD l 0).toNat + fourRegs s a.val l) % 2 ^ 128
        else (s.cw.ctr.toList.getD l 0).toNat) ∧
    (∃ u, exec (.rngset a b) s = .next u ∧ still u ∧
      u.cw.rngPoison = (s.cw.rngPoison.filter fun p => !e.getLsbD p.1) ∧ ∀ l, l < 32 →
      (u.cw.key.toList.getD l 0).toNat =
        (if e.getLsbD l then (s.rdVL a.val l).toNat + (s.rdVL (a.val + 1) l).toNat * 2 ^ 32
         else (s.cw.key.toList.getD l 0).toNat) ∧
      (u.cw.ctr.toList.getD l 0).toNat =
        (if e.getLsbD l then fourRegs s b.val l else (s.cw.ctr.toList.getD l 0).toNat))

/-- The operator of a reduction (R149), with its flags. -/
def reduceOp (p : Nat) (a b : Word) : Word × Flags :=
  match p with
  | 0 => (BitVec.ofNat 32 (a.toNat + b.toNat), 0)
  | 1 => (BitVec.ofInt 32 (min a.toInt b.toInt), 0)
  | 2 => (BitVec.ofInt 32 (max a.toInt b.toInt), 0)
  | 3 => (BitVec.ofNat 32 (min a.toNat b.toNat), 0)
  | 4 => (BitVec.ofNat 32 (max a.toNat b.toNat), 0)
  | 5 => (a &&& b, 0)
  | 6 => (a ||| b, 0)
  | 7 => (a ^^^ b, 0)
  | 8 => fAdd a b
  | 9 => fMinMax true a b
  | _ => fMinMax false a b

/-- The start value of R149. -/
def reduceStart (p : Nat) : Word :=
  match p with
  | 1 => 0x7FFFFFFF
  | 2 => 0x80000000
  | 3 => 0xFFFFFFFF
  | 5 => 0xFFFFFFFF
  | 8 => 0x80000000
  | 9 => 0x7F800000
  | 10 => 0xFF800000
  | _ => 0

/-- The lanes of exec below `n`, reduced in ascending order: the value and the flags. -/
def reduceBelow (s : State) (p a n : Nat) : Word × Flags :=
  ((List.range n).filter fun l => s.csp.exec.getLsbD l).foldl
    (fun x l => ((reduceOp p x.1 (s.rdVL a l)).1, x.2 ||| (reduceOp p x.1 (s.rdVL a l)).2)) (reduceStart p, 0)

/-- R148, R149: the cross-lane instructions read source lanes whether or not they are in exec, and write the lanes of exec. -/
def Obligations.CrossLaneInstructions : Prop :=
  ∀ (s : State) (d a b n : Fin 128) (m : Fin 8) (p : Fin 16), d.val < s.cw.v.length → p.val < 11 →
    let A (l : Nat) : Nat := (s.rdVL a.val l).toNat
    let e := s.csp.exec
    let M := s.rdM m.val
    GivesVector (.vshfl d a b) s d.val (fun l => A ((s.rdVL b.val l).toNat % 32)) 0 0 ∧
    (n.val < 32 → GivesVector (.vbcast d a n) s d.val (fun _ => A n.val) 0 0) ∧
    (∀ k, k < 32 → e.getLsbD k = true → (∀ j, j < k → e.getLsbD j = false) → n.val = 0x40 →
      GivesVector (.vbcast d a n) s d.val (fun _ => A k) 0 0) ∧
    (e = 0 → n.val = 0x40 → GivesVector (.vbcast d a n) s d.val (fun _ => 0) 0 0) ∧
    (n.val < 32 → GivesVector (.vrot d a n) s d.val (fun l => A ((l + n.val) % 32)) 0 0) ∧
    GivesVector (.vbal d m) s d.val
      (fun l => ((List.range l).filter fun j => M.getLsbD j && e.getLsbD j).length) 0 0 ∧
    GivesVector (.vred d a p) s d.val (fun _ => (reduceBelow s p.val a.val 32).1.toNat) (reduceBelow s p.val a.val 32).2 0 ∧
    GivesVector (.vscan d a p) s d.val (fun l => (reduceBelow s p.val a.val (l + 1)).1.toNat)
      (reduceBelow s p.val a.val 32).2 0

/-! ## Memory instructions -/

/-- R32: the address that each form gives a lane, modulo 2^64. That the lane value of a vector register form is unsigned is the model's
reading (log 34). -/
def ruleAddressForms : Prop :=
  ∀ (s : State) (b : Fin 64) (c : Fin 16) (disp x : Word) (l w : Nat),
    let S := (s.rdS b.val).toNat
    let off (r : Nat) : Nat := (s.rdVL r l).toNat
    let d25 : Int := if x.toNat % 2 ^ 25 < 2 ^ 24 then x.toNat % 2 ^ 25 else (x.toNat % 2 ^ 25 : Int) - 2 ^ 25
    (s.addr (.base b disp) l : Int) = (S + disp.toInt) % 2 ^ 64 ∧
    (s.addr (.lane b c) l : Int) = (S + l * 2 ^ c.val) % 2 ^ 64 ∧
    (s.addr (.laneDisp b c disp) l : Int) = (S + l * 2 ^ c.val + disp.toInt) % 2 ^ 64 ∧
    (s.addr (.vreg b c x) l : Int) = (S + off (x.toNat / 2 ^ 25) * 2 ^ c.val + d25) % 2 ^ 64 ∧
    (s.aaddr (.base b disp) w l : Int) = (S + disp.toInt) % 2 ^ 64 ∧
    (s.aaddr (.lane b) w l : Int) = (S + l * w) % 2 ^ 64 ∧
    (s.aaddr (.laneDisp b disp) w l : Int) = (S + l * w + disp.toInt) % 2 ^ 64 ∧
    (s.aaddr (.vreg b x) w l : Int) = (S + off (x.toNat / 2 ^ 25) + d25) % 2 ^ 64

/-- R159, R161: a load whose lanes pass the checks queues one result on VMC, with a request for each byte of each lane of exec; its
registers are written when the result comes. ACTLD queues the bytes of the shadow bank and closes the region (R146). -/
def Obligations.LoadsQueueTheirBytes : Prop :=
  ∀ (s : State) (v : Fin 128) (ad : Addr) (q : Fin 4) (b : Fin 64) (disp : Word) (z : Fin 2) (ps : List (Nat × Nat × List Place))
    (ls : List Leaf),
    let n := 4 * 2 ^ q.val
    let result (kind : ResKind) : Result :=
      { id := s.nextId, kind := kind, counter := .vmc, vregs := (List.range (2 ^ q.val)).map fun j => v.val + j
        lanes := s.csp.exec, reqs := reqsOf ps, region := s.regionNow }
    let loads (i : Instr) (kind : ResKind) : Prop :=
      ∃ t, exec i s = .next t ∧ Queued s t (result kind) ∧ WaveQueues s t ∧ t.nextId = s.nextId + 1 ∧
        OnlyWaveTlb { s with nextId := s.nextId + 1 } t
    (s.memCheck false false n n .read anyLeaf (s.laneAddrs ad) = .ok ps ls →
      loads (.ldg v ad q) (.load v.val) ∧ loads (.ldk v ad q) (.ldk v.val)) ∧
    (s.memCheck true false n n .read anyLeaf (s.laneAddrs ad) = .ok ps ls → loads (.ldsp v ad q) (.load v.val)) ∧
    (s.memCheck (z.val = 1) false 16 1040 .read anyLeaf [(0, s.addr (.base b disp) 0)] = .ok ps ls →
      s.cc.actHolder = some s.cur.g → ∃ t, exec (.actld b disp z) s = .next t ∧
        Queued s t { id := s.nextId, kind := .actld (!s.cg.curB), counter := .vmc, reqs := reqsOf ps } ∧
        WaveQueuesClosed s t ∧ t.nextId = s.nextId + 1 ∧ OnlyWaveTlb { s with nextId := s.nextId + 1 } t)

/-- R159, R185: a store whose lanes pass the checks, to no reduce window, enters one write for each home, of exactly the stored
bytes, and counts once on VMC where a lane stores; no byte of memory has changed yet. It closes the region (R123). -/
def ruleGlobalStoresEnterTheBuffer : Prop :=
  ∀ (s : State) (v : Fin 128) (ad : Addr) (q : Fin 4) (ps : List (Nat × Nat × List Place)) (ls : List Leaf),
    let n := 4 * 2 ^ q.val
    let las := s.laneAddrs ad
    (s.memCheck false true n n .write (s.stgOk (wholeLines (s.lanePas las) n)) las = .ok ps ls →
      (∀ c, c ∈ storedCells s v.val (2 ^ q.val) ps → s.winAt c.1 = none) →
      ∃ t new, exec (.stg v ad q) s = .next t ∧ Entered s t new ∧ HoldBytes new (storedCells s v.val (2 ^ q.val) ps) ∧
        (∀ x, x ∈ new → OfOperation s x ∧ x.counted = true ∧ x.rel = false) ∧
        t.cw.vmc = s.cw.vmc + (if storedCells s v.val (2 ^ q.val) ps = [] then 0 else 1) ∧ RegsStill s t ∧ Issued s t ∧
        t.cw.results = s.cw.results ∧ WaveQueuesClosed s t ∧
        OnlyWaveTlb { s with nextId := t.nextId, memory := { s.memory with writes := t.memory.writes } } t) ∧
    (s.memCheck false true 8 8 .write s.plainStoreOk (las.take 1) = .ok ps ls →
      ∃ t new, exec (.sig v ad) s = .next t ∧ Entered s t new ∧ HoldBytes new (storedCells s v.val 2 ps) ∧
        (∀ x, x ∈ new → OfOperation s x ∧ x.counted = true ∧ x.rel = true ∧ x.podRel = true ∧ x.sig = true ∧
          x.loads = s.cw.accessIds) ∧
        t.cw.vmc = s.cw.vmc + (if storedCells s v.val 2 ps = [] then 0 else 1) ∧ RegsStill s t ∧ Issued s t ∧
        t.cw.results = s.cw.results ∧ WaveQueuesClosed s t ∧
        OnlyWaveTlb { s with nextId := t.nextId, memory := { s.memory with writes := t.memory.writes } } t)

/-- R156, R159: a scratchpad store sends each allocation its bytes, to be applied at its bank unit; no byte has changed yet. -/
def ruleScratchStoresAreSent : Prop :=
  ∀ (s : State) (v : Fin 128) (ad : Addr) (q : Fin 4) (ps : List (Nat × Nat × List Place)) (ls : List Leaf),
    let n := 4 * 2 ^ q.val
    let stored := ps.flatMap fun p => p.2.2.zip (s.laneData v.val (2 ^ q.val) p.1)
    s.memCheck true true n n .write anyLeaf (s.laneAddrs ad) = .ok ps ls →
    ∃ t new, exec (.stsp v ad q) s = .next t ∧ Entered s t new ∧
      (∀ x, x ∈ new → OfOperation s x ∧ x.counted = true ∧ ∃ g cs, x.scratchOf = some g ∧ x.payld = .bytes cs ∧
        ∀ c, c ∈ cs → (.scratch g c.1, c.2) ∈ stored) ∧
      (∀ g o b, (.scratch g o, b) ∈ stored → ∃ x cs, x ∈ new ∧ x.scratchOf = some g ∧ x.payld = .bytes cs ∧ (o, b) ∈ cs) ∧
      RegsStill s t ∧ Issued s t ∧ WaveQueues s t ∧ OnlyWaveTlb { s with nextId := t.nextId, memory := { s.memory with writes := t.memory.writes } } t

/-- R156, R159, R182: stores to global memory, SIG, and stores to the scratchpad. -/
def Obligations.StoresEnter : Prop := ruleGlobalStoresEnterTheBuffer ∧ ruleScratchStoresAreSent

/-- What an atomic does when its lanes pass the checks: one result on VMC for the old values, and one write for each home, the home slice
of the lane's address or the bank unit of the allocation it names, with each lane's address and operands; its order bits are the
release's and the acquire's (R162, R163). -/
def AtomicEnters (s : State) (i : Instr) (op v : Nat) (ad : AAddr) (ty r p : Nat) : Prop :=
  let w := if ty < 2 then 4 else 8
  ∀ (ps : List (Nat × Nat × List Place)) (ls : List Leaf),
    s.memCheck (p = 1) true w w .readWrite s.plainStoreOk (s.laneAAddrs ad w) = .ok ps ls →
    ∃ t new, exec i s = .next t ∧ Entered s t new ∧
      Queued s t { id := s.nextId, kind := .atomic v w (if r % 2 = 1 then (if p = 1 then 2 else 1) else 0), counter := .vmc
                   vregs := (List.range (w / 4)).map fun j => v + j, lanes := s.csp.exec, reqs := reqsOf ps
                   region := 0 } ∧
      (∀ x, x ∈ new → OfOperation s x ∧ x.rel = decide (2 ≤ r) ∧ x.result = some s.nextId ∧ ∃ xs, x.payld = .atomic op ty xs ∧
        ∀ y, y ∈ xs → ∃ e, e ∈ ps ∧ y = (e.1, placeAddr (e.2.2.headD (.global 0)), leNat (s.laneData v (w / 4) e.1),
          if op = 8 then leNat (s.laneData (v + w / 4) (w / 4) e.1) else 0) ∧
          match e.2.2.headD (.global 0) with
          | .global pa => x.scratchOf = none ∧ x.home = homeOf pa
          | .scratch g _ => x.scratchOf = some g) ∧
      (new.map GWrite.home).Nodup ∧
      (∀ e, e ∈ ps → ∃ x xs, x ∈ new ∧ x.payld = .atomic op ty xs ∧ e.1 ∈ xs.map Prod.fst) ∧
      WaveQueuesClosed s t ∧ OnlyWaveTlb { s with nextId := t.nextId, memory := { s.memory with writes := t.memory.writes } } t

/-- The address of an atomic of the scratchpad space names the group's own allocation, or none (R116, R156). -/
def InOwnAllocation (s : State) (a : Nat) : Prop :=
  a < 0x100000 ∨ 0x200000 ≤ a ∨ ∀ h, s.gangMate s.cur.g ((a - 0x100000) / 0x40000) = some h → h = s.cur.g

/-- R162, R163: every atomic form, and CAS. A floating-point ATOM of a deterministic group runs in its own allocation, and outside it
raises NONDET (R116). -/
def Obligations.AtomicsEnter : Prop :=
  ∀ (s : State) (v : Fin 128) (ad : AAddr) (t r : Fin 4) (p : Fin 2),
    AtomicEnters s (.atomAdd v ad t r p) 0 v.val ad t.val r.val p.val ∧ AtomicEnters s (.atomMin v ad t r p) 1 v.val ad t.val r.val p.val ∧
    AtomicEnters s (.atomMax v ad t r p) 2 v.val ad t.val r.val p.val ∧ AtomicEnters s (.atomAnd v ad t r p) 3 v.val ad t.val r.val p.val ∧
    AtomicEnters s (.atomOr v ad t r p) 4 v.val ad t.val r.val p.val ∧ AtomicEnters s (.atomXor v ad t r p) 5 v.val ad t.val r.val p.val ∧
    AtomicEnters s (.atomExch v ad t r p) 6 v.val ad t.val r.val p.val ∧ AtomicEnters s (.cas v ad t r p) 8 v.val ad t.val r.val p.val ∧
    (s.cg.det = false → AtomicEnters s (.atomFadd v ad r p) 7 v.val ad 0 r.val p.val) ∧
    (s.cg.det = true → p.val = 1 → (∀ e, e ∈ s.laneAAddrs ad 4 → InOwnAllocation s e.2) →
      AtomicEnters s (.atomFadd v ad r p) 7 v.val ad 0 r.val p.val) ∧
    (s.cg.det = true → s.csp.exec ≠ 0 → (p.val = 0 ∨ ∃ e, e ∈ s.laneAAddrs ad 4 ∧ ¬ InOwnAllocation s e.2) →
      exec (.atomFadd v ad r p) s = .next (s.raise cNondet))

/-- R333: where an address of a lane of exec breaks the alignment, a load, store or atomic does not execute and raises ALIGN with the
address of the lowest such lane. -/
def ruleMisalignedAccessesFault : Prop :=
  ∀ (s : State) (v : Fin 128) (ad : Addr) (aad : AAddr) (q t r : Fin 4) (p : Fin 2) (l : Nat),
    let n := 4 * 2 ^ q.val
    let w := if t.val < 2 then 4 else 8
    (l < 32 → s.csp.exec.getLsbD l = true → s.addr ad l % n ≠ 0 → (∀ j, j < l → s.csp.exec.getLsbD j = true → s.addr ad j % n = 0) →
      exec (.ldg v ad q) s = .next (s.raise cAlign 0 (s.addr ad l)) ∧ exec (.stg v ad q) s = .next (s.raise cAlign 0 (s.addr ad l)) ∧
      exec (.ldk v ad q) s = .next (s.raise cAlign 0 (s.addr ad l))) ∧
    (l < 32 → s.csp.exec.getLsbD l = true → s.aaddr aad w l % w ≠ 0 → p.val = 0 →
      (∀ j, j < l → s.csp.exec.getLsbD j = true → s.aaddr aad w j % w = 0) →
      exec (.cas v aad t r p) s = .next (s.raise cAlign 0 (s.aaddr aad w l)) ∧
      exec (.atomAdd v aad t r p) s = .next (s.raise cAlign 0 (s.aaddr aad w l)))

/-- R32, R333: the address forms, and ALIGN of the lowest lane that breaks it. -/
def Obligations.AddressesAndAlignment : Prop := ruleAddressForms ∧ ruleMisalignedAccessesFault

/-- R183, R188, R189: FENCE waits for the wave's earlier writes (release) and loads (acquire); where they are done it takes effect at
once: an acquire keeps the writes of the agents that share its scope visible to the wave (log 61), and at gang scope or wider drops
the core's copies. -/
def Obligations.Fences : Prop :=
  ∀ (s : State) (x : Fin 8) (ord : Fin 4), s.cw.fences = [] →
    let rel := decide (2 ≤ ord.val)
    let acq := decide (ord.val % 2 = 1)
    let writes := if rel then s.waveWrites s.cur.g s.cur.w else []
    let loads := if acq then s.cw.loadIds else []
    let held := !(s.allPerformed writes x.val && s.cw.allLoaded loads)
    ∃ t, exec (.fence x ord) s = .next t ∧ Issued s t ∧ RegsStill s t ∧
      t.cw.fences = (if held then [⟨x.val, acq, rel, writes, loads⟩] else []) ∧
      { t.cw with fences := s.cw.fences, nextIssue := s.cw.nextIssue, splits := s.cw.splits } = s.cw ∧
      (t.core s.cu).view = (if !held ∧ acq ∧ 2 ≤ x.val then [] else (s.core s.cu).view) ∧
      { t.core s.cu with view := (s.core s.cu).view } = s.core s.cu ∧ (∀ u, u ≠ s.cu → t.core u = s.core u) ∧
      t.memory.writes = (if !held ∧ acq then
        s.memory.writes.map fun y => if s.acquired s.cur.g x.val y then y.noteSeen s.cur.g s.cur.w else y
        else s.memory.writes) ∧
      OnlyWave { s with cores := t.cores, memory := { s.memory with writes := t.memory.writes } } t

/-! ## Activation banks and rendezvous slots -/

/-- The segment of a scaled value (R145). -/
def segmentOf (t : Word) (i : Nat) : Prop :=
  match f32 t with
  | .nan _ => i = 0
  | .inf n => i = if n then 0 else 127
  | .fin n m e => (i : Int) = max 0 (min 127 ⌊exactQ n m e⌋)

/-- The FP32 word at a byte of a bank (R143): a byte never loaded is 0. -/
def bankWord (b : Bank) (k : Nat) : Word :=
  BitVec.ofNat 32 (((List.range 4).map fun i => (List.getD b (k + i) 0).toNat * 256 ^ i).sum)

/-- R144, R145, R147: VACT evaluates the wave's selected bank by segments, raising the flags of the final operation alone; ACTSW makes
the other bank current and marks every wave that has not exited; banks of another group are exchanged first, with a stall. -/
def Obligations.ActivationTables : Prop :=
  ∀ (s : State) (d a : Fin 128),
    let b := if s.cw.actB then s.cg.bankB else s.cg.bankA
    let scaledIn (l : Nat) : Word := (fMul (fSub (s.rdVL a.val l) (bankWord b 0)).1 (bankWord b 4)).1
    (d.val < s.cw.v.length → s.cc.actHolder = some s.cur.g → ∃ seg : Nat → Nat,
      (∀ l, l < 32 → segmentOf (scaledIn l) (seg l)) ∧
      GivesVector (.vact d a) s d.val
        (fun l => (fFma (bankWord b (16 + 8 * seg l)) (s.rdVL a.val l) (bankWord b (20 + 8 * seg l))).1.toNat)
        (execFlags s fun l => (fFma (bankWord b (16 + 8 * seg l)) (s.rdVL a.val l) (bankWord b (20 + 8 * seg l))).2) 0) ∧
    (d.val < s.cw.v.length → s.cc.actHolder ≠ some s.cur.g → ∃ t, exec (.vact d a) s = .next t ∧
      (t.core s.cu).actHolder = some s.cur.g ∧ t.cw.nextIssue = max s.cw.nextIssue (s.cyc + 1 + s.cur.stall + 2400)) ∧
    (s.cc.actHolder = some s.cur.g → ∃ t, exec .actsw s = .next t ∧ t.cg.curB = !s.cg.curB ∧ Issued s t ∧ RegsStill s t ∧
      t.cw.region.isOpen = false ∧
      (∀ w, (t.cg.wave w).actPending = if Tbl.has s.cg.waves w ∧ (s.cg.wave w).ended = false ∨ w = s.cur.w ∧ s.cw.ended = false
        then true else (s.cg.wave w).actPending) ∧
      { t.cg with curB := s.cg.curB, waves := s.cg.waves } = s.cg ∧
      (∀ g, g ≠ s.cur.g → Tbl.get? t.groups g = Tbl.get? s.groups g) ∧ { t with groups := s.groups } = s)

/-- R150: XSEND deposits all 32 lanes, or moves a handle, into an empty slot, and XRECV takes a full one; each waits otherwise, and a
payload of the other kind raises ILLEGAL. (No wait stands before this one's.) -/
def Obligations.RendezvousSlots : Prop :=
  ∀ (s : State) (r : Fin 128) (k : Fin 16),
    let slot := s.cg.slot k.val
    slot.waiters = [] →
    let other (t : State) : Prop := (∀ j, j ≠ k.val → t.cg.slot j = s.cg.slot j) ∧
      { t.cg with rdv := s.cg.rdv, waves := s.cg.waves } = s.cg ∧ (∀ g, g ≠ s.cur.g → Tbl.get? t.groups g = Tbl.get? s.groups g)
    (slot.full = none → ∃ t, exec (.xsend r 0 k) s = .next t ∧ t.cg.slot k.val = ⟨some (.vec (s.rdV r.val)), []⟩ ∧ Issued s t ∧
      RegsStill s t ∧ other t ∧ { t with groups := s.groups } = s) ∧
    (slot.full = none → s.cw.handle (r.val % 16) = .empty → ∃ t, exec (.xsend r 1 k) s = .next t ∧
      t.cg.slot k.val = ⟨some (.handle .empty), []⟩ ∧ other t) ∧
    (slot.full = none → (∀ d h, s.csp.block ≠ .fwait d h) → (∀ e, e ∈ s.cw.splits → ∀ d h, e.2.block ≠ .fwait d h) →
      ∃ t, exec (.xsend r 1 k) s = .next t ∧ t.cg.slot k.val = ⟨some (.handle (s.cw.handle (r.val % 16))), []⟩ ∧
        t.cw.handle (r.val % 16) = .empty ∧ (∀ j, j ≠ r.val % 16 → t.cw.handle j = s.cw.handle j) ∧ Issued s t ∧ other t) ∧
    (∀ p, slot.full = some p → ∀ m, ∃ t, exec (.xsend r m k) s = .next t ∧
      t.cg.slot k.val = ⟨some p, [(s.cur.w, s.cur.sl, true)]⟩ ∧ t.csp = s.csp ∧ other t) ∧
    (slot.full = none → ∀ m, ∃ t, exec (.xrecv r m k) s = .next t ∧ t.cg.slot k.val = ⟨none, [(s.cur.w, s.cur.sl, false)]⟩ ∧
      t.csp = s.csp ∧ other t) ∧
    (∀ x, slot.full = some (.vec x) → ∃ t, exec (.xrecv r 0 k) s = .next t ∧ t.cg.slot k.val = ⟨none, []⟩ ∧
      Queued s t { id := s.nextId, kind := .vals, counter := .none, vregs := [r.val], lanes := s.csp.exec
                   out := (maskLanes s.csp.exec).map fun l => (.v r.val l, (x.lane l).setWidth 64) } ∧ other t) ∧
    (∀ h, slot.full = some (.handle h) → s.cw.handle (r.val % 16) = .empty → ∃ t, exec (.xrecv r 1 k) s = .next t ∧
      t.cg.slot k.val = ⟨none, []⟩ ∧ t.cw.handle (r.val % 16) = h ∧ Issued s t ∧ other t) ∧
    (∀ x, slot.full = some (.vec x) → exec (.xrecv r 1 k) s = .next (s.raise cIllegal)) ∧
    (∀ h, slot.full = some (.handle h) → exec (.xrecv r 0 k) s = .next (s.raise cIllegal)) ∧
    (∀ h, slot.full = some (.handle h) → s.cw.handle (r.val % 16) ≠ .empty → exec (.xrecv r 1 k) s = .next (s.raise cIllegal))

/-! ## Barriers and mailboxes -/

/-- The number of lanes of a mask. -/
def laneCount (m : Word) : Nat := ((List.range 32).filter fun l => m.getLsbD l).length

/-- R173: counting `n` arrivals and the check: the barrier, whether the phase completed, and whether arrivals were over. -/
def arriveAt (y : Barrier) (n : Nat) : Barrier × Bool × Bool :=
  let a := min (y.a + n) (2 ^ 32 - 1)
  if y.e ≠ 0 ∧ y.e ≤ a then ({ y with a := 0, phase := y.phase + 1 }, true, decide (y.e < a)) else ({ y with a := a }, false, false)

/-- Nothing of the machine but the groups and its fresh numbers differs, and of the groups only the current one. -/
def OnlyGroup (s t : State) : Prop :=
  { t with groups := s.groups, nextId := s.nextId } = s ∧ (∀ g, g ≠ s.cur.g → Tbl.get? t.groups g = Tbl.get? s.groups g) ∧
  SameBytes s t

/-- As OnlyGroup, and waves may have acquired at group scope. -/
def OnlyGroupSeen (s t : State) : Prop := OnlyGroup (s.withWrites t) t ∧ SameWrites s t

/-- No other barrier of the group differs. -/
def OtherBars (s t : State) (b : Nat) : Prop := ∀ j, j ≠ b → t.cg.bar j = s.cg.bar j

/-- Waves of one split whose wait at a barrier ends have acquired at group scope (R174, R189). -/
def released (s t : State) (b : Nat) (phase : Word) : Prop :=
  ∀ w k p, w ≠ s.cur.w → (s.cg.wave w).splits = [(k, p)] → p.block = .bar b phase.toNat → AcquiredGroup t s.cur.g w

/-- R172, R173, R175: BAR.JOIN adds the lanes of exec that are not members and never completes a phase; BAR.LEAVE takes its lanes out,
and the check may complete one. -/
def ruleBarrierMembership : Prop :=
  ∀ (s : State) (b : Fin 16),
    let y := s.cg.bar b.val
    let m := Tbl.getD y.member s.cur.w 0
    let joins := s.csp.exec &&& ~~~m
    let leaves := s.csp.exec &&& m
    let e := y.e - laneCount leaves
    let common (t : State) : Prop := Issued s t ∧ RegsStill s t ∧ t.cw.region.isOpen = false ∧ OtherBars s t b.val ∧ OnlyGroup s t
    (∃ t, exec (.barJoin b) s = .next t ∧ common t ∧
      t.cg.bar b.val = { y with member := Tbl.set y.member s.cur.w (m ||| joins), e := y.e + laneCount joins }) ∧
    ((e = 0 ∨ y.a < e) → ∃ t, exec (.barLeave b) s = .next t ∧ common t ∧
      t.cg.bar b.val = { y with member := Tbl.set y.member s.cur.w (m &&& ~~~leaves), e := e }) ∧
    (e ≠ 0 → e ≤ y.a → s.csp.block = .none → ∃ t, exec (.barLeave b) s = .next t ∧ t.csp = s.csp.past s.cur.len ∧
      OtherBars s t b.val ∧ OnlyGroupSeen s t ∧ released s t b.val y.phase ∧
      t.cg.bar b.val =
        { member := Tbl.set y.member s.cur.w (m &&& ~~~leaves), e := e, a := 0, phase := y.phase + 1 } ∧
      (∀ w k, ((t.cg.wave w).split k).block ≠ .bar b.val y.phase.toNat))

/-- R173, R174, R175, R189: BAR.ARV and BAR.SYNC count their lanes, or BAR.ARV a number, once the wave's earlier loads have their data and its
writes are performed at group scope; the phase completes when enough have arrived, its waits end, and their waves acquire at group
scope; BAR.ARV's status says phase, completion and excess. -/
def ruleBarrierArrivals : Prop :=
  ∀ (s : State) (d a : Fin 64) (b : Fin 16),
    let y := s.cg.bar b.val
    let v := (s.rdS a.val).toNat
    let status (r : Barrier × Bool × Bool) : DWord :=
      BitVec.ofNat 64 (y.phase.toNat + (if r.2.1 then 2 ^ 32 else 0) + (if r.2.2 then 2 ^ 33 else 0))
    let byLanes := arriveAt y (laneCount (s.csp.exec &&& Tbl.getD y.member s.cur.w 0))
    let byCount := arriveAt y v
    let arrived (t : State) (r : Barrier × Bool × Bool) : Prop :=
      t.cg.bar b.val = r.1 ∧ OtherBars s t b.val ∧ OnlyGroupSeen s t ∧ t.cw.region.isOpen = false ∧
      (r.2.1 = false → t.memory = s.memory) ∧ (r.2.1 = true → released s t b.val y.phase ∧ ∀ w k, ((t.cg.wave w).split k).block ≠ .bar b.val y.phase.toNat)
    s.cw.arrivals = [] →
    (s.allPerformed (s.waveWrites s.cur.g s.cur.w) 1 = true → s.cw.loadIds = [] →
      (∃ t, exec (.barArv d b) s = .next t ∧ arrived t byLanes ∧ t.csp = { s.csp.past s.cur.len with block := .none } ∧
        ∀ c, t.regAt c (.s d.val) = if d.val = 0 then 0 else status byLanes) ∧
      (v < 2 ^ 32 → ∃ t, exec (.barArvCount d a b) s = .next t ∧ arrived t byCount ∧
        t.csp = { s.csp.past s.cur.len with block := .none } ∧
        ∀ c, t.regAt c (.s d.val) = if d.val = 0 then 0 else status byCount) ∧
      (s.csp.mode ≠ .trap → s.cg.det = false → s.cg.preempt ≠ .atYield → ∃ t, exec (.barSync b) s = .next t ∧ arrived t byLanes ∧
        t.csp = { s.csp.past s.cur.len with block := if byLanes.2.1 then .none else .bar b.val y.phase.toNat } ∧
        (byLanes.2.1 = true → AcquiredGroup t s.cur.g s.cur.w) ∧ t.cw.actB = s.cg.curB ∧ t.cw.actPending = false)) ∧
    ((s.allPerformed (s.waveWrites s.cur.g s.cur.w) 1 = false ∨ s.cw.allLoaded s.cw.loadIds = false) →
      ∃ t, exec (.barArv d b) s = .next t ∧ t.csp = { s.csp.past s.cur.len with block := .barArrive b.val s.nextId } ∧
        t.cg.bars = s.cg.bars ∧ t.cw.arrivals = [{
          op := s.nextId, b := b.val, n := laneCount (s.csp.exec &&& Tbl.getD y.member s.cur.w 0), sd := some d.val, sync := false
          w := s.cur.w, sl := s.cur.sl, writes := s.waveWrites s.cur.g s.cur.w, loads := s.cw.loadIds }] ∧ OnlyGroup s t) ∧
    (2 ^ 32 ≤ v → exec (.barArvCount d a b) s = .next (s.raise cIllegal)) ∧
    (s.csp.mode = .trap → exec (.barSync b) s = .next (s.raise cIllegal))

/-- R175, R176, R188, R189: BAR.WAIT goes on at once unless the phase is still the one given, and acquires where it does; it leaves a release step that follows what the
wave has issued; it adopts a pending bank; in a trap it is ILLEGAL. -/
def ruleBarrierWaits : Prop :=
  ∀ (s : State) (a : Fin 64) (b : Fin 16),
    let p := (s.rdS a.val).toNat % 2 ^ 32
    (s.csp.mode ≠ .trap → s.cg.det = false → s.cg.preempt ≠ .atYield → ∃ t, exec (.barWait a b) s = .next t ∧
      t.csp = { s.csp.past s.cur.len with
        block := if (s.cg.bar b.val).phase.toNat = p then .bar b.val p else s.csp.block
        readySince := none } ∧
      OtherSplits s t ∧ RegsStill s t ∧ t.cw.actB = s.cg.curB ∧ t.cw.actPending = false ∧ t.cw.region.isOpen = false ∧
      t.cw.arrivals = s.cw.arrivals ++ [{
        op := s.nextId, b := b.val, n := 0, sd := none, sync := false, release := true, w := s.cur.w, sl := s.cur.sl
        writes := s.waveWrites s.cur.g s.cur.w, loads := s.cw.loadIds }] ∧
      t.cg.bars = s.cg.bars ∧ OnlyWave { s.withWrites t with nextId := s.nextId + 1 } t ∧
      (if (s.cg.bar b.val).phase.toNat = p then t.memory = s.memory else SameWrites s t ∧ AcquiredGroup t s.cur.g s.cur.w)) ∧
    (s.csp.mode = .trap → exec (.barWait a b) s = .next (s.raise cIllegal))

/-- R174, R188: BARRIER_ARRIVAL counts an arrival whose condition has come to hold, and leaves one whose condition does not; the release
step of BAR.WAIT counts nothing. -/
def ruleArrivalSteps : Prop :=
  ∀ (s : State) (g w sl : Nat) (x : Arrival),
    (s.wave g w).arrivals = [x] → x.sl = sl → x.w = w → x.sync = false →
    let r := arriveAt ((s.group g).bar x.b) x.n
    (s.allPerformed x.writes 1 = true → (s.wave g w).allLoaded x.loads = true →
      (x.release = false → ∃ t, exec (.barrierArrival g w sl) s = .next t ∧ (t.group g).bar x.b = r.1 ∧
        (∀ j, j ≠ x.b → (t.group g).bar j = (s.group g).bar j) ∧ (t.wave g w).arrivals = [] ∧ (t.split g w sl).block = .none ∧
        (∀ h, h ≠ g → t.group h = s.group h) ∧ { t with groups := s.groups } = s.withWrites t ∧ SameWrites s t) ∧
      (x.release = true → ∃ t, exec (.barrierArrival g w sl) s = .next t ∧ t.wave g w = { s.wave g w with arrivals := [] } ∧
        { t.group g with waves := (s.group g).waves } = s.group g ∧ (∀ h, h ≠ g → t.group h = s.group h) ∧
        { t with groups := s.groups } = s)) ∧
    ((s.allPerformed x.writes 1 = false ∨ (s.wave g w).allLoaded x.loads = false) → exec (.barrierArrival g w sl) s = .next s)

/-- R173-R176: arrivals, waits, and the arrivals that come later. -/
def ruleBarrierArrivalsWhole : Prop := ruleBarrierArrivals ∧ ruleBarrierWaits ∧ ruleArrivalSteps

/-- R114, R174-R177: joining and leaving a group barrier, and arriving and waiting at it. -/
def Obligations.GroupBarriers : Prop := ruleBarrierMembership ∧ ruleBarrierArrivalsWhole

/-- R176, R178: DBAR blocks a wave of one split with a full exec; the group arrives at its die's slice when its waves stand there, and
when every group of the slice has arrived the phase rises and all go on. -/
def ruleDieBarriers : Prop :=
  ∀ (s : State) (g : Nat),
    let K := (s.group g).kernel
    let d := (s.group g).unit / 64
    let y := s.slice K d
    (s.csp.mode ≠ .trap → s.cw.splits.length = 1 → s.csp.exec = s.csp.members → s.cg.det = false → s.cg.preempt ≠ .atYield →
      ∃ t, exec .dbar s = .next t ∧ IssuedBlocked s t .dbar ∧ RegsStill s t ∧ t.cw.actB = s.cg.curB ∧ t.cw.actPending = false ∧
        t.cw.region.isOpen = false ∧ OnlyWave s t) ∧
    ((s.csp.mode = .trap ∨ s.cw.splits.length ≠ 1 ∨ s.csp.exec ≠ s.csp.members) → exec .dbar s = .next (s.raise cIllegal)) ∧
    (s.dbarReady g = true → y.arrived.length + 1 < y.groups.length → ∃ t, exec (.dieBarrierArrival g) s = .next t ∧
      t.slice K d = { y with arrived := y.arrived ++ [g] } ∧ (t.group g).dbarArrived = true ∧
      { t.group g with dbarArrived := false } = { s.group g with dbarArrived := false } ∧ (∀ h, h ≠ g → t.group h = s.group h)) ∧
    (s.dbarReady g = true → y.groups ≠ [] → y.groups.length ≤ y.arrived.length + 1 → ∃ t, exec (.dieBarrierArrival g) s = .next t ∧
      t.slice K d = { y with phase := y.phase + 1, arrived := [] } ∧
      ∀ h, h ∈ y.arrived ++ [g] → (t.group h).dbarArrived = false ∧ ∀ w k, (((t.group h).wave w).split k).block ≠ .dbar) ∧
    (s.dbarReady g = false → exec (.dieBarrierArrival g) s = .next s)

/-- R179-R181: MBX.SEND hands its message on and holds sd until it is answered; the message enters the queue of its die and slot, or is
refused with -3 for a die without the kernel and -1 for a full queue; one of a context that is no longer the kernel's enters none (R63),
and one that the bridges do not carry waits (R278); MBX.WAIT blocks, and is served with the oldest message. -/
def ruleDieMailboxes : Prop :=
  ∀ (s : State) (d a b : Fin 64) (x : Fin 8) (m : MbxMsg),
    (∃ t, exec (.mbxSend d a b x) s = .next t ∧
      Queued s t { id := s.nextId, kind := .mbx d.val s.nextId, counter := .smc, sregs := [d.val], region := 0 } ∧
      WaveQueuesClosed s t ∧
      t.disp.mbxMsgs = s.disp.mbxMsgs ++ [⟨s.nextId, s.cg.kernel, (s.rdS a.val).toNat, x.val, s.rdS b.val, s.cur.g, s.cur.w,
        s.cur.sl, s.waveWrites s.cur.g s.cur.w, s.cw.accessIds, s.cctx⟩] ∧
      OnlyWave { s with nextId := s.nextId + 1, disp := { s.disp with mbxMsgs := t.disp.mbxMsgs } } t) ∧
    (s.csp.mode ≠ .trap → s.cg.det = false → ∃ t, exec (.mbxWait d x) s = .next t ∧ IssuedBlocked s t .mbx ∧ RegsStill s t ∧
      t.cg.mbxWaits = s.cg.mbxWaits ++ [(s.cyc, s.cur.w, s.cur.sl, d.val, x.val)] ∧ t.cw.region.isOpen = false ∧
      OnlyGroup s t) ∧
    (s.csp.mode = .trap → exec (.mbxWait d x) s = .next (s.raise cIllegal)) ∧
    (let K := s.kernel m.kernel
     let q := Tbl.getD K.mbx (8 * m.die + m.slot) []
     s.disp.mbxMsgs = [m] → s.mailReaches m = true → s.allPerformed m.writes 4 = true → (s.wave m.group m.wave).allLoaded m.loads = true →
     let answered (t : State) (v : Int) : Prop :=
       t.disp.mbxMsgs = [] ∧ ∀ r, r ∈ (s.wave m.group m.wave).results → r.id = m.id →
         (s.wave m.group m.wave).results.find? (fun r => r.id == m.id) = some r →
         ∃ r', r' ∈ (t.wave m.group m.wave).results ∧ r'.id = m.id ∧ r'.out = [(.s (r.sregs.headD 0), BitVec.ofInt 64 v)]
     (m.die < 8 → K.pkt.dies.testBit (m.die / 4) = true → q.length < 16 → K.st = .running →
       ∃ t, exec (.mailboxMessageAcceptance m.id) s = .next t ∧ answered t 0 ∧
         Tbl.getD (t.kernel m.kernel).mbx (8 * m.die + m.slot) [] = if K.ctx = m.ctx then q ++ [m.value] else q) ∧
     (m.die < 8 → K.pkt.dies.testBit (m.die / 4) = true → 16 ≤ q.length →
       ∃ t, exec (.mailboxMessageAcceptance m.id) s = .next t ∧ answered t (-1) ∧ t.kernel m.kernel = K) ∧
     ((8 ≤ m.die ∨ K.pkt.dies.testBit (m.die / 4) = false) →
       ∃ t, exec (.mailboxMessageAcceptance m.id) s = .next t ∧ answered t (-3) ∧ t.kernel m.kernel = K)) ∧
    (s.disp.mbxMsgs = [m] → s.mailReaches m = false → exec (.mailboxMessageAcceptance m.id) s = .next s) ∧
    (∀ k die slot v r o l g w sl sd, (s.kernel k).st = .running → Tbl.getD (s.kernel k).mbx (8 * die + slot) [] = v :: r →
      s.mailWaits k die slot = [(o, l, g, w, sl, sd)] → sd < 64 →
      ∃ t, exec (.mailboxWaitServed k die slot) s = .next t ∧ Tbl.getD (t.kernel k).mbx (8 * die + slot) [] = r ∧
        (t.wave g w).s.toList.getD sd 0 = (if sd = 0 then (s.wave g w).s.toList.getD 0 0 else v) ∧ (t.split g w sl).block = .none ∧
        (∀ e, e ∈ (t.group g).mbxWaits → ¬ (e.2.1 = w ∧ e.2.2.1 = sl)) ∧ (t.core (s.group g).unit).view = [])

/-- R178-R181: the die barrier, and the mailboxes of a die. -/
def Obligations.DieBarriersAndMailboxes : Prop := ruleDieBarriers ∧ ruleDieMailboxes

/-! ## Copy channels and futures -/

/-- The copy that a checked instruction forms (R164): with a global destination it is issued with the region closed. -/
def newCopy (s : State) (form h ch dir dst src len es : Nat) (xs : List Nat) : Copy :=
  let c : Copy := { id := s.nextId, form := form, ch := ch, wave := s.cur.w, unit := s.cu, h := h, dir := dir, dst := dst, src := src
                    len := len, esize := es, list := xs, waits := s.waveWrites s.cur.g s.cur.w }
  { c with region := if c.dstGlobal then 0 else s.regionNow }

/-- A copy enters its group's queue, its ranges are locked, its handle is pending and CPC counts it; no register reads differently. -/
def CopyStarts (s : State) (i : Instr) (c : Copy) (rs : List OpRange) : Prop :=
  s.copyHitsWindow c = false →
  ∃ t, exec i s = .next t ∧ t.cg.copies = s.cg.copies ++ [c] ∧
    t.cg.locks = s.cg.locks ++ rs.map (fun r => ⟨s.cur.g, c.id, r.sp, r.isWrite, r.lo, r.hi, false⟩) ∧
    t.cw.handle c.h = .pending c.id ∧ (∀ h, h ≠ c.h → t.cw.handle h = s.cw.handle h) ∧ t.cw.cpc = s.cw.cpc + 1 ∧
    (if c.dstGlobal then t.cw.region.isOpen = false else t.cw.region = s.cw.region) ∧ Issued s t ∧ RegsStill s t ∧
    t.cw.hPoison = (s.cw.hPoison.filter fun k => k != c.h) ∧
    { t.cw with h := s.cw.h, hPoison := s.cw.hPoison, cpc := s.cw.cpc, region := s.cw.region, nextIssue := s.cw.nextIssue
                splits := s.cw.splits } = s.cw ∧
    (∀ w, w ≠ s.cur.w → Tbl.get? t.cg.waves w = Tbl.get? s.cg.waves w) ∧
    { t.cg with copies := s.cg.copies, locks := s.cg.locks, waves := s.cg.waves } = s.cg ∧ OnlyGroup s t

/-- R164, R167, R168: CPY, CPYG and CPYS start once their checks pass; a misaligned base raises ALIGN; two disjoint global ranges of a
group that holds no lock pass the checks. That a range that passes 2^64 goes on at 0 is the model's choice (log 90). -/
def ruleCopiesStart : Prop :=
  ∀ (s : State) (a : Fin 16) (b : Fin 8) (c d : Fin 64) (e : Fin 4) (len : Fin 268435456) (off : Fin 262144) (n : Fin 2048),
    let C := (s.rdS c.val).toNat
    let D := (s.rdS d.val).toNat
    let es := [4, 8, 16, 64].getD e.val 4
    (∀ rs, s.cpyCheck e.val C D len.val = .ok [] rs →
      CopyStarts s (.cpy a b c d e len) (newCopy s 0 a.val b.val e.val C D len.val 4 []) rs) ∧
    (∀ xs rs, s.cpygCheck true C D off.val n.val es = .ok xs rs →
      CopyStarts s (.cpyg a b c d e off n) (newCopy s 1 a.val b.val 0 C D (n.val * es) es xs) rs) ∧
    (∀ xs rs, s.cpygCheck false D C off.val n.val es = .ok xs rs →
      CopyStarts s (.cpys a b c d e off n) (newCopy s 2 a.val b.val 0 C D (n.val * es) es xs) rs) ∧
    (C % 4 ≠ 0 → exec (.cpy a b c d e len) s = .next (s.raise cAlign 0 C)) ∧
    (C % 4 = 0 → D % 4 ≠ 0 → exec (.cpy a b c d e len) s = .next (s.raise cAlign 0 D)) ∧
    (C % 4 = 0 → D % 4 = 0 → s.cg.locks = [] → (C + len.val ≤ D ∨ D + len.val ≤ C) → C + len.val ≤ 2 ^ 64 → D + len.val ≤ 2 ^ 64 →
      s.cpyCheck 2 C D len.val = .ok [] [⟨none, false, D, D + len.val, D⟩, ⟨none, true, C, C + len.val, C⟩]) ∧
    (C % 4 = 0 → D % 4 = 0 → s.cg.locks = [] → D + len.val ≤ C → 2 ^ 64 < C + len.val → C + len.val - 2 ^ 64 ≤ D →
      s.cpyCheck 2 C D len.val = .ok [] [⟨none, false, D, D + len.val, D⟩, ⟨none, true, C, 2 ^ 64, C⟩,
        ⟨none, true, 0, C + len.val - 2 ^ 64, 0⟩])

/-- A byte of a place. -/
def placeByte (s : State) (p : Place) : Byte :=
  match p with
  | .global pa => s.byteAt pa
  | .scratch g o => s.scratchRead g o

/-- R165, R169, R170, R192: a step of a copy lands its bytes and no others, and moves the channel's count; with the last one the handle
is done. FWAIT, whose status is read from the next cycle on, FTEST and FCAN, and the end of a cancelled copy, whose step in progress
lands. -/
def ruleCopiesRunAndFutures : Prop :=
  ∀ (s : State) (d : Fin 64) (h : Fin 16),
    let x := s.cw.handle h.val
    let dropped (t : State) (ls : List Nat) : Prop :=
      (∀ l, Tbl.get? (t.core s.cu).view l =
        if ls.any (fun k => k / 128 == l / 128) then none else Tbl.get? (s.core s.cu).view l) ∧
      { t.core s.cu with view := (s.core s.cu).view } = s.core s.cu ∧ (∀ u, u ≠ s.cu → t.core u = s.core u)
    (x.isPending = true → ∃ t, exec (.fwait d h) s = .next t ∧ IssuedBlocked s t (.fwait d.val h.val) ∧ WaveStill s t ∧ OnlyWave s t) ∧
    (x.isPending = false → ∃ t, exec (.fwait d h) s = .next t ∧ Issued s t ∧ dropped t x.lines ∧
      (∀ c, t.regAt c (.s d.val) = if d.val = 0 then 0 else if c ≤ s.cyc then s.regAt c (.s d.val) else x.status) ∧
      (∀ c r, r ≠ .s d.val → t.regAt c r = s.regAt c r) ∧
      { t.cw with s := s.cw.s, inflight := s.cw.inflight, nextIssue := s.cw.nextIssue, splits := s.cw.splits } = s.cw ∧
      OnlyWave { s with cores := t.cores } t) ∧
    (∃ t, exec (.ftest d h) s = .next t ∧ dropped t x.lines ∧ WaveQueues s t ∧
      Queued s t { id := s.nextId, kind := .vals, counter := .none, sregs := [d.val], out := [(.s d.val, x.status)]
                   region := s.regionNow } ∧
      OnlyWave { s with cores := t.cores, nextId := s.nextId + 1 } t) ∧
    (∃ t, exec (.fcan h) s = .next t ∧ Issued s t ∧ RegsStill s t ∧ t.cw.region.isOpen = false ∧
      t.cg.copies = s.cg.copies.map (fun c => if x = .pending c.id ∧ c.stopping = 0 then { c with stopping := 1 } else c) ∧
      { t.cw with region := s.cw.region, nextIssue := s.cw.nextIssue, splits := s.cw.splits } = s.cw ∧
      { t.cg with copies := s.cg.copies, waves := s.cg.waves } = s.cg ∧ OnlyGroup s t) ∧
    (∀ (g id : Nat) (c : Copy), (s.group g).copies.find? (fun c => c.id == id) = some c →
      let ends (t : State) (r : Handle) : Prop :=
        (∀ k, k ∈ (t.group g).copies → k.id ≠ id) ∧ (∀ l, l ∈ (t.group g).locks → l.op ≠ id) ∧
        (∀ w k, (s.wave g w).handle k = .pending id → (t.wave g w).handle k = r) ∧
        (∀ w k, (s.wave g w).handle k ≠ .pending id → (t.wave g w).handle k = (s.wave g w).handle k)
      (c.stopping ≠ 0 → s.engineFlying g id = false → c.flying = none → ∃ t, exec (.copyEngineStop g id) s = .next t ∧
        ends t (.cancelled c.lines) ∧ (c.dropped = none → SameBytes s t)) ∧
      (∀ n ls, c.stopping ≠ 0 → s.engineFlying g id = false → c.flying = some (n, ls) → c.ch < 8 →
        ∃ t, exec (.copyEngineStop g id) s = .next t ∧ (c.dropped = none → SameBytes s t) ∧
          (t.group g).wp.toList.getD c.ch 0 = (s.group g).wp.toList.getD c.ch 0 + BitVec.ofNat 64 n ∧
          (c.len ≤ c.done + n → ∃ l, ends t (.done l)) ∧ (c.done + n < c.len → ∃ l, ends t (.cancelled l))) ∧
      (c.stopping = 0 ∨ s.engineFlying g id = true → exec (.copyEngineStop g id) s = .next s) ∧
      (∀ (src dst : List Place) (ls ks : List Leaf),
        let st := c.nextStep
        (s.group g).copies.find? (fun k => k.ch == c.ch) = some c → c.ch < 8 → (s.group g).isSaved = false → c.stopping = 0 →
        c.paged = false → c.flying = none → s.engineFlying g id = false →
        s.sites g c.srcGlobal .read (fun _ _ => true) (st.map Prod.snd) = .ok src ls →
        s.sites g c.dstGlobal .write (fun l pa => !l.stamped && !s.remoteWin pa) (st.map Prod.fst) = .ok dst ks → dst.Nodup →
        (∀ pa, .global pa ∈ dst → inClass pa = true ∧ s.frozenAt pa = false ∧ s.winAt pa = none) →
        (∀ pa pb, .global pa ∈ dst → .global pb ∈ dst → lineOf pa = lineOf pb) →
        s.canonical → s.stillWriting c.waits (src ++ dst) = false → s.placesOk (s.group g).unit (src ++ dst) = true →
        s.readsHeld (s.ctxOf g) (remotePas src) = false → c.dropped = none →
        ∃ t, exec (.copyStep g id) s = .next t ∧
          (∀ p q, (p, q) ∈ dst.zip src → placeByte t p = (s.enginePeek q).1) ∧
          (∀ p, p ∉ dst → placeByte t p = placeByte s p) ∧
          (t.group g).wp.toList.getD c.ch 0 = (s.group g).wp.toList.getD c.ch 0 + BitVec.ofNat 64 st.length ∧
          (∀ k, k ≠ c.ch → (t.group g).wp.toList.getD k 0 = (s.group g).wp.toList.getD k 0) ∧
          (c.done + st.length < c.len → ∃ k, (t.group g).copies.find? (fun c => c.id == id) = some k ∧
            k.done = c.done + st.length ∧ { k with done := c.done, lines := c.lines } = c) ∧
          (c.len ≤ c.done + st.length → ∃ l, ends t (.done l))))

/-- R164-R170: copies start, run and end, and what waits for, tests and cancels them. -/
def Obligations.CopiesAndFutures : Prop := ruleCopiesStart ∧ ruleCopiesRunAndFutures

/-! ## The matrix tile -/

/-- An MX instruction is accepted (R198, R200): it stands last in the engine's queue with what it took at issue, its rows are locked,
MXC counts it, the wave holds the core's MX state (after an exchange, 10,240 cy, with any other holder), and no register reads
differently. `closes` says that it closes the region, `extra` that the wave stalls for longer. -/
structure MxAccepted (s t : State) (o : MxOp) (rs : List OpRange) (closes : Bool) (extra : Nat) : Prop where
  queue : (t.core s.cu).mxq = s.cc.mxq ++ [{ o with
    id := s.nextId, group := s.cur.g, wave := s.cur.w, fmt := s.csp.fmt, exec := s.csp.exec
    waits := s.waveWrites s.cur.g s.cur.w, region := if closes then 0 else s.regionNow }]
  locks : t.cg.locks = s.cg.locks ++ rs.map fun r => ⟨s.cur.g, s.nextId, r.sp, r.isWrite, r.lo, r.hi, false⟩
  count : t.cw.mxc = s.cw.mxc + 1
  past : t.csp = s.csp.past s.cur.len
  others : OtherSplits s t
  holder : (t.core s.cu).mxHolder = some (s.cur.g, s.cur.w)
  stall : t.cw.nextIssue = max s.cw.nextIssue (s.cyc + 1 + s.cur.stall + extra +
    (if s.cc.mxHolder = none ∨ s.cc.mxHolder = some (s.cur.g, s.cur.w) then 0 else 10240))
  isOpen : t.cw.region.isOpen = (s.cw.region.isOpen && !closes)
  regs : RegsStill s t
  wave : { t.cw with mxc := s.cw.mxc, region := s.cw.region, ctr := s.cw.ctr, nextIssue := s.cw.nextIssue
                     splits := s.cw.splits } = s.cw
  waves : ∀ w, w ≠ s.cur.w → Tbl.get? t.cg.waves w = Tbl.get? s.cg.waves w
  group : { t.cg with locks := s.cg.locks, waves := s.cg.waves } = s.cg
  groups : ∀ g, g ≠ s.cur.g → Tbl.get? t.groups g = Tbl.get? s.groups g
  core : { t.core s.cu with mxq := s.cc.mxq, mxHolder := s.cc.mxHolder, actHolder := s.cc.actHolder } = s.cc
  cores : ∀ u, u ≠ s.cu → t.core u = s.core u
  tlb : TlbGrows s t (unitDie s.cu)
  machine : { t with groups := s.groups, cores := s.cores, nextId := s.nextId, dies := s.dies } = s.meets t
  quiet : s.memory.errs = [] → s.meets t = s
  bytes : SameBytes s t

/-- An instruction is accepted by the engine, with no further stall, no counter of the generator drawn, and no bank exchanged. -/
def MxIn (s : State) (i : Instr) (o : MxOp) (rs : List OpRange) (closes : Bool) : Prop :=
  ∃ t, exec i s = .next t ∧ MxAccepted s t o rs closes 0 ∧ t.cw.ctr = s.cw.ctr ∧ (t.core s.cu).actHolder = s.cc.actHolder

/-- A queued operation of a kind; the engine's fields come from its acceptance. -/
def mxOp (kind : Nat) : MxOp := { id := 0, group := 0, wave := 0, kind := kind }

/-- Rows that pass the checks of R333 and conflict with no lock. -/
def RowsOk (s : State) (scr isWrite : Bool) (al : Nat) (n : Nat → Nat) (okLeaf : Leaf → Nat → Nat → Bool) (las : List (Nat × Nat))
    (ps : List (Nat × Nat × List Place)) : Prop :=
  (∃ ls, s.addrCheck scr al n (if isWrite then .write else .read) okLeaf las = .ok ps ls) ∧
  minList (s.rangeHits s.cur.g (spanOf scr isWrite n ps)) = none

/-- R200, R202-R206, R210, R214, R215: the MX instructions that pass their checks enter the engine's queue. -/
def ruleMatrixInstructionsQueue : Prop :=
  ∀ (s : State) (t l : Fin 4) (sg : Fin 8) (v : Fin 128) (n : Fin 32) (ad : Addr) (q : Fin 2) (b a : Fin 64) (disp : Word) (m : Fin 4)
    (x : Fin 8) (ps : List (Nat × Nat × List Place)),
    let scr := q.val == 1
    let base := [(0, s.addr (.base b disp) 0)]
    let r := (s.rdS a.val).toNat
    ((∀ c, addrScale ad = some c → 16 * opWidth (s.fmtFld 4 4) ≤ c) → RowsOk s scr false 16 s.mxlbLen anyLeaf (s.mxlbRows ad) ps →
      MxIn s (.mxlb l ad q) { mxOp 0 with b := l.val, places := placesOf ps } (spanOf scr false s.mxlbLen ps) false) ∧
    (RowsOk s scr false 16 (fun _ => 128) anyLeaf (s.laneAddrs ad) ps →
      MxIn s (.mxra sg ad q) { mxOp 1 with seg := sg.val, places := placesOf ps, data := ps.map fun p => (p.1, []) }
        (spanOf scr false (fun _ => 128) ps) false) ∧
    (v.val + n.val + 1 ≤ s.cw.v.length →
      MxIn s (.mxrv sg v n) { mxOp 2 with
        seg := sg.val
        data := (maskLanes s.csp.exec).map fun l => (l, s.laneData v.val (n.val + 1) l)
        poison := (maskLanes s.csp.exec).flatMap fun l =>
          ((List.range (n.val + 1)).filter fun m => s.cw.vPoison.contains (v.val + m, l)).flatMap
            fun m => (List.range 4).map fun i => (l, 4 * m + i) } [] false) ∧
    (RowsOk s scr true 64 (fun _ => 69632) s.plainStoreOk base ps →
      MxIn s (.mxst t b disp q) { mxOp 3 with t := t.val, places := placesOf ps, vas := pagePairs ps }
        (spanOf scr true (fun _ => 69632) ps) (q.val != 1)) ∧
    (RowsOk s scr false 64 (fun _ => 69632) anyLeaf base ps →
      MxIn s (.mxld t b disp q) { mxOp 4 with t := t.val, places := placesOf ps } (spanOf scr false (fun _ => 69632) ps) false) ∧
    (s.macOk false t.val l.val sg.val = true →
      MxIn s (.mxmac t l sg) { mxOp 7 with t := t.val, b := l.val, seg := sg.val } [] false) ∧
    (s.macOk true t.val l.val sg.val = true →
      MxIn s (.mxmacs t l sg) { mxOp 8 with t := t.val, b := l.val, seg := sg.val } [] false) ∧
    (s.macOk false t.val l.val sg.val = false → exec (.mxmac t l sg) s = .next (s.raise cIllegal)) ∧
    MxIn s (.mxclr t sg m) { mxOp 9 with t := t.val, seg := sg.val, mode := m.val } [] false ∧
    (x.val ≤ 4 → r / 2 ^ 15 % 2 = 0 → s.tileClass t.val ≠ .none → (s.ctx s.cctx).diag = true →
      MxIn s (.mxinj t a x) { mxOp 11 with
        t := t.val, seg := r % 32, mode := r / 256 % 128
        val := (let c : Int := r / 65536; if c < 2 ^ 47 then c else c - 2 ^ 48) * 2 ^ (8 * x.val) } [] false) ∧
    (x.val ≤ 4 → r / 2 ^ 15 % 2 = 0 → s.tileClass t.val ≠ .none → (s.ctx s.cctx).diag = false →
      exec (.mxinj t a x) s = .next (s.raise cProt))

/-- R208, R211-R213: a drain takes at issue the generator's draws of every lane and, with an activation, the bank; MXCHK answers with the
state of the tile; all three raise POISON for a poisoned tile, and MXINT, with the count of the rows and columns that differ, for one that
fails its check; a word that the check corrects is corrected first, a flicker event of 64 on the core. -/
def ruleMatrixDrainsAndChecks : Prop :=
  ∀ (s : State) (t : Fin 4) (ad : Addr) (q : Fin 2) (d : Fin 64) (ps : List (Nat × Nat × List Place)) (ls : List Leaf),
    let x := s.cw.mx.tile t.val
    let scr := q.val == 1
    let act := s.fmtFld 18 2 = 1
    let bad := x.poison ≠ [] ∨ x.badRefl = true
    let good := ¬ bad ∧ x.check.ok = true
    let v : State := match x.check.fix with
      | none => s
      | some _ => (s.modW fun W => { W with mx := W.mx.setTile t.val (x.corrected x.check) }).flicker s.cu 64
    let y := v.cw.mx.tile t.val
    let detail := if x.damaged = true then 0xFFFF + 65536 * t.val else x.check.r.length + 256 * x.check.c.length + 65536 * t.val
    let drains (i : Instr) (transposed : Bool) : Prop :=
      s.drainCheck transposed t.val ad scr = .ok ps ls →
      (∀ r, r ∈ s.drainRanges scr ps → minList (s.rangeHits s.cur.g [r]) = none) →
      let reads := s.keepAll ls
      let u := if q.val = 1 then reads else reads.closeRegion
      (bad → exec i s = .next (u.raise cPoison)) ∧
      (¬ bad → x.check.ok = false → exec i s = .next (u.raise cMxint detail)) ∧
      (good → (x.check.fix = none ∨ s.memory.errs = []) → (act → s.bankBad = []) →
        ∃ u, exec i s = .next u ∧
          MxAccepted v u { mxOp (if transposed then 6 else 5) with
            t := t.val, places := placesOf ps, vas := pagePairs ps
            bank := if act then (if s.cw.actB then s.cg.bankB else s.cg.bankA) else []
            rng := if s.fmtFld 12 3 = 4
              then (List.range 32).map fun l => (s.cw.key.toList.getD l 0, s.cw.ctr.toList.getD l 0) else [] }
            (s.drainRanges scr ps) (q.val != 1)
            (if act ∧ s.cc.actHolder ≠ some s.cur.g then 2400 else 0) ∧
          Draws v u 0xFFFFFFFF (if s.fmtFld 12 3 = 4 then (if transposed then 64 else 32) else 0) ∧
          (u.core s.cu).actHolder = if act then some s.cur.g else s.cc.actHolder)
    drains (.mxdrn t ad q) false ∧ drains (.mxdrnt t ad q) true ∧
    (good → s.cc.mxHolder = some (s.cur.g, s.cur.w) → ∃ u, exec (.mxchk t d) s = .next u ∧
      Queued v u { id := s.nextId, kind := .vals, counter := .mxc, sregs := [d.val], region := s.regionNow
                   out := [(.s d.val, BitVec.ofNat 64 ((match x.check.fix with
                       | none => 0
                       | some f => 1 + 256 * f.1 + 65536 * f.2.1) +
                     (if y.overflow then 4 else 0) + (if y.nans ≠ [] then 8 else 0) +
                     (if y.sat ≠ [] then 16 else 0) + (if y.cls = .wide then 32 else 0) + (if y.cls = .none then 64 else 0) +
                     2 ^ 24 * x.check.xr.length + 2 ^ 32 * x.check.xc.length))] } ∧
      WaveQueues v u ∧ OnlyWave { v with nextId := s.nextId + 1 } u) ∧
    (bad → exec (.mxchk t d) s = .next (s.raise cPoison)) ∧
    (¬ bad → x.check.ok = false → exec (.mxchk t d) s = .next (s.raise cMxint detail))
/-- Bytes have come to these places, and no other byte has changed. -/
def Lands (s t : State) (xs : List (Place × Byte)) : Prop :=
  (∀ p, p ∈ xs → placeByte t p.1 = p.2) ∧ (∀ p, p ∉ xs.map Prod.fst → placeByte t p = placeByte s p)

/-- R200-R215: the matrix instructions enter the engine's queue; drains, images, checks and injections. -/
def Obligations.MatrixInstructions : Prop := ruleMatrixInstructionsQueue ∧ ruleMatrixDrainsAndChecks

/-- Each place stands once in the list, and the global ones lie in the own module's memory, in no frozen frame; memory is in its
canonical form. -/
def Writable (s : State) (ps : List Place) : Prop :=
  s.canonical ∧ ps.Nodup ∧ ∀ pa, .global pa ∈ ps → inClass pa = true ∧ s.frozenAt pa = false

/-- The line of a place, or its 64-byte piece of an allocation. -/
def placeLine (p : Place) : Nat × Nat :=
  match p with
  | .global pa => (0, pa / 64)
  | .scratch g o => (g + 1, o / 64)

/-- An operation of the engine is over: no lock of it is left, and MXC no longer counts it. -/
def EngineDone (s t : State) (g w id : Nat) : Prop :=
  (∀ l, l ∈ (t.group g).locks → l.op ≠ id) ∧ (t.wave g w).mxc = (s.wave g w).mxc - 1

/-- R192, R200, R211, R215: the engine executes the oldest instruction of its queue: a drain begins its writes, MXST writes the tile's image
line by line, poisoned where an entry of its reflection is (R15; the model takes all of them: log 91), any other changes its wave's MX state; a step of a drain lands, and with the last its flags are ORed into `%fxf`. -/
def ruleEngineExecutes : Prop :=
  ∀ (s : State) (u : Nat) (o : MxOp) (rest : List MxOp) (e : Drain) (st : List (Place × Byte)) (more : List (List (Place × Byte))),
    let m := (s.wave o.group o.wave).mx
    let popped (t : State) : Prop := (t.core u).mxq = rest ∧ ∀ v, v ≠ u → t.core v = s.core v
    let alone : Prop := o.dropped = none ∧ s.engineFlying o.group o.id = false ∧ ∀ p, p ∈ rest → p.id ≠ o.id
    ((s.core u).mxq = o :: rest → o.paged = false → s.placesOk u o.places = true →
      ((o.kind = 5 ∨ o.kind = 6) → ∃ t, exec (.mxEngineExecute u) s = .next t ∧ popped t ∧ { t with cores := s.cores } = s ∧
        { t.core u with mxq := (s.core u).mxq, drains := (s.core u).drains } = s.core u ∧
        (t.core u).drains = (s.core u).drains ++ [{
          id := o.id, group := o.group, wave := o.wave, steps := lineSteps 65536 (o.places.zip (drainData o m).1)
          vas := o.vas, flags := (drainData o m).2, waits := o.waits, region := o.region }]) ∧
      (s.stillWriting o.waits o.places = false → o.kind ≠ 3 → o.kind ≠ 5 → o.kind ≠ 6 → alone →
        s.readsHeld (s.ctxOf o.group) (remotePas o.places) = false →
        ∃ t free, exec (.mxEngineExecute u) s = .next t ∧ popped t ∧ EngineDone s t o.group o.wave o.id ∧ SameBytes s t ∧
          (t.wave o.group o.wave).mx = mxEffect o (s.engineData o.places).1 (s.engineData o.places).2 free m ∧
          (∀ g w, (g, w) ≠ (o.group, o.wave) → (t.wave g w).mx = (s.wave g w).mx))) ∧
    (let img := (m.tile o.t).image
     let st := (o.nextStep (m.tile o.t)).map fun p => (p.1, p.2.1)
     (s.core u).mxq = o :: rest → o.paged = false → o.kind = 3 → alone → o.places.length = 69632 →
      (69632 ≤ o.done → ∃ t, exec (.mxEngineExecute u) s = .next t ∧ popped t ∧ EngineDone s t o.group o.wave o.id ∧ SameBytes s t) ∧
      (o.done < 69632 → s.placesOk u (st.map Prod.fst) = true → s.stillWriting o.waits (st.map Prod.fst) = false →
        Writable s (st.map Prod.fst) →
        (st <+: (o.places.zip img).drop o.done ∧ ∀ p q, p ∈ st → q ∈ st → placeLine p.1 = placeLine q.1) ∧
        ∃ t, exec (.mxEngineExecute u) s = .next t ∧ Lands s t st ∧
          ((m.tile o.t).badRefl = true → (∃ n, n < st.length ∧ 65552 ≤ o.done + n ∧ o.done + n < 68112) →
            ∀ pa, .global pa ∈ st.map Prod.fst → t.linePoisoned (lineOf pa) = true) ∧
          (69632 ≤ o.done + st.length → popped t ∧ EngineDone s t o.group o.wave o.id) ∧
          (o.done + st.length < 69632 → (t.core u).mxq = { o with done := o.done + st.length } :: rest))) ∧
    (let d := { e with steps := st :: more }
     (s.core u).drains.find? (fun c => c.id == e.id) = some d → e.paged = false → s.placesOk u (st.map Prod.fst) = true →
      s.stillWriting e.waits (st.map Prod.fst) = false → Writable s (st.map Prod.fst) → e.dropped = none →
      s.engineFlying e.group e.id = false →
      (∀ p q, p ∈ st → q ∈ st → placeLine p.1 = placeLine q.1) →
      ∃ t, exec (.drainWrite u e.id) s = .next t ∧ Lands s t st ∧ (t.core u).mxq = (s.core u).mxq ∧
        (more = [] → (t.core u).drains = (s.core u).drains.filter (fun c => c.id != e.id) ∧ EngineDone s t e.group e.wave e.id ∧
          (t.wave e.group e.wave).fxf = (s.wave e.group e.wave).fxf ||| e.flags) ∧
        (more ≠ [] → (t.core u).drains = (s.core u).drains.map fun c => if c.id = e.id then { c with steps := more } else c))

/-- Word n of a tile, in units of 2^-32. -/
def tileWord (x : Tile) (n : Nat) : Int := (Tbl.dense 0 4096 0 x.words).getD n 0

/-- The little-endian value of `k` bytes from byte `n` on. -/
def leAt (d : List Byte) (n k : Nat) : Nat := leNat ((d.drop n).take k)

/-- The signed value of `k` bytes from byte `n` on. -/
def leInt (d : List Byte) (n k : Nat) : Int :=
  let v := leAt d n k
  if v < 2 ^ (8 * k - 1) then v else (v : Int) - 2 ^ (8 * k)

/-- R202, R203: what MXLB leaves in a slot that held `b`: the formats, the elements of the packed rows, for a sparse slot the index
bytes after them, and for a dense slot of an exact-class format the sums of its rows in units of 2^-16. -/
def SlotLoaded (b : BSlot) (fmt : Word) (d : List Byte) : Prop :=
  let w := opWidth (fmt.toNat / 2 ^ 4 % 16)
  b.fmt = fmt.toNat / 2 ^ 4 % 16 ∧ b.spn = fmt.toNat / 2 ^ 16 % 4 ∧
  (∀ k j, k < 128 → j < 128 → b.elems.getD (128 * k + j) 0 = leAt d (16 * w * k) (16 * w) / 2 ^ (j * w) % 2 ^ w) ∧
  (b.spn ≠ 0 → ∀ n, b.index.getD n 0 = (d.getD (2048 * w + n) 0).toNat) ∧
  (b.spn = 0 → isLog b.fmt = false → isWideFmt b.fmt = false → ∀ (B : Nat → Int) (k : Nat), k < 128 →
    (∀ j, j < 128 → ∃ n p q, opVal b.fmt (b.elems.getD (128 * k + j) 0) = .fin n p q ∧ exactQ n p q = (B j : ℚ) / 2 ^ 16) →
    b.refl.getD k 0 = ((List.range 128).map B).sum)

/-- R215: what MXLD leaves in a tile: its words, marks, class, status and reflection state as the image's bytes say, and the damaged mark
where the image is none. -/
def TileLoaded (x : Tile) (d : List Byte) : Prop :=
  let b (n : Nat) : Nat := (d.getD n 0).toNat
  let c := b 65536
  (c ≤ 2 → x.cls = [TileClass.none, .exact, .wide].getD c .none) ∧
  (∀ n, n < 4096 → (c ≤ 1 → tileWord x n = leInt d (16 * n) 10) ∧ (c = 2 → tileWord x n = leAt d (16 * n) 4) ∧
    (n ∈ x.sat ↔ b (16 * n + 10) % 2 = 1) ∧ (n ∈ x.nans ↔ b (16 * n + 10) / 2 % 2 = 1)) ∧
  (x.overflow = true ↔ b 65537 % 2 = 1) ∧ x.seg = b 65538 % 8 ∧ x.mode = b 65539 % 4 ∧
  (c ≤ 1 → (∀ i, i < 32 → (Tbl.dense 0 32 0 x.rho).getD i 0 = leInt d (65552 + 16 * i) 16) ∧
    ∀ j, j < 128 → (Tbl.dense 0 128 0 x.kappa).getD j 0 = leInt d (66064 + 16 * j) 16) ∧
  (c = 2 → (∀ i, i < 32 → (Tbl.dense 0 32 0 x.rho).getD i 0 = leAt d (65552 + 16 * i) 8 ∧
      (Tbl.dense 0 32 0 x.mur).getD i 0 = leAt d (65560 + 16 * i) 8) ∧
    ∀ j, j < 128 → (Tbl.dense 0 128 0 x.kappa).getD j 0 = leAt d (66064 + 16 * j) 8 ∧
      (Tbl.dense 0 128 0 x.muc).getD j 0 = leAt d (66072 + 16 * j) 8) ∧
  (x.damaged = true ↔ 2 < c ∨ 3 < b 65539 ∨ (∃ n, n < 4096 ∧ (8 ≤ b (16 * n + 10) ∨ ∃ i, 11 ≤ i ∧ i < 16 ∧ b (16 * n + i) ≠ 0)) ∨
    (∃ i, 4 ≤ i ∧ i < 16 ∧ b (65536 + i) ≠ 0) ∨ ∃ i, 2576 ≤ i ∧ b (65536 + i) ≠ 0)

/-- R202, R203, R206, R214, R215: what the engine makes of MXCLR, MXLB, MXLD, MXMAC and MXMACS when it executes them: the tile cleared, the
slot or the tile loaded from the bytes of the places, or the product added; no other slot, tile or row of the wave differs. (A wide
word's bits from 32 up are dropped: log 72. The free values are those of words that a NaN reached.) -/
def ruleEngineEffects : Prop :=
  ∀ (s : State) (u : Nat) (o : MxOp) (rest : List MxOp),
    (s.core u).mxq = o :: rest → o.paged = false → s.placesOk u o.places = true → s.stillWriting o.waits o.places = false →
    s.readsHeld (s.ctxOf o.group) (remotePas o.places) = false →
    let m := (s.wave o.group o.wave).mx
    let d := o.places.map fun p => (s.enginePeek p).1
    let tileOnly (m' : MxState) : Prop := { m' with tiles := m.tiles } = m ∧ ∀ k, k ≠ o.t → m'.tile k = m.tile k
    let effect (P : MxState → Prop) : Prop := ∃ t, exec (.mxEngineExecute u) s = .next t ∧ P (t.wave o.group o.wave).mx
    (o.kind = 9 → effect fun m' => m'.tile o.t = { seg := o.seg, mode := o.mode } ∧ tileOnly m') ∧
    (o.kind = 0 → effect fun m' => SlotLoaded (m'.slot o.b) o.fmt d ∧ { m' with slots := m.slots } = m ∧
      ∀ k, k ≠ o.b → m'.slot k = m.slot k) ∧
    (o.kind = 4 → effect fun m' => TileLoaded (m'.tile o.t) d ∧ tileOnly m') ∧
    ((o.kind = 7 ∨ o.kind = 8) → effect fun m' => tileOnly m' ∧
      ∃ free, m'.tile o.t = (m.tile o.t).mac m (m.slot o.b) (o.fmt.toNat % 16) o.seg o.exec free)

/-- R200, R202, R203, R206, R211, R214, R215: the engine executes the oldest instruction of its queue, and what each leaves. -/
def Obligations.MatrixEngineExecutes : Prop := ruleEngineExecutes ∧ ruleEngineEffects

/-- Every row and column of an undamaged tile with no word saturated or NaN sums to its reflection entry. -/
def BalancedTile (x : Tile) : Prop :=
  x.damaged = false ∧ x.sat = [] ∧ x.nans = [] ∧
  (∀ i, i < 32 → (Tbl.dense 0 32 0 x.rho).getD i 0 = ((List.range 128).map fun j => tileWord x (128 * i + j)).sum) ∧
  (∀ j, j < 128 → (Tbl.dense 0 128 0 x.kappa).getD j 0 = ((List.range 32).map fun i => tileWord x (128 * i + j)).sum)

/-- R56, R202, R206-R208: a multiply-accumulate of the exact class adds the exact product of the row and the column, saturating, to
every word of a row of exec, for a sparse slot with the row's element that the stored index picks; the reflection entries go on matching the words; a matching tile passes its check, and one in which a single word
was changed is found and corrected. -/
def Obligations.ReflectionsGuardTheTile : Prop :=
  ∀ (x y : Tile) (m : MxState) (b : BSlot) (af seg : Nat) (e : Word) (free : Nat → Int),
    let z := x.mac m b af seg e free
    let w := opWidth af
    let aCode (i k : Nat) : Nat := leNat ((m.row i).drop (128 * seg)) / 2 ^ (k * w) % 2 ^ w
    let is (v : FVal) (c : Int) : Prop := ∃ n p q, v = .fin n p q ∧ exactQ n p q = (c : ℚ) / 2 ^ 16
    let N := if b.spn = 1 then 8 else 16
    let pick (k j : Nat) : Nat := if b.spn = 0 then k else 32 * (k / N) + b.index.getD (128 * k + j) 0 % 32
    (pairClass af b.fmt = some .exact → isLog af = false → af < 16 → b.fmt < 16 →
      (∀ (i j : Nat) (A B : Nat → Int), i < 32 → j < 128 → b.elems.length = 16384 → e.getLsbD i = true →
        (∀ k, k < b.k → is (opVal af (aCode i k)) (A k)) → (∀ k, k < 128 → is (opVal b.fmt (b.elems.getD (128 * k + j) 0)) (B k)) →
        128 * i + j ∉ x.sat → 128 * i + j ∉ x.nans →
        let exact := tileWord x (128 * i + j) + ((List.range 128).map fun k => A (pick k j) * B k).sum
        tileWord z (128 * i + j) = max (-2 ^ 79) (min (2 ^ 79 - 1) exact) ∧
        (128 * i + j ∈ z.sat ↔ exact < -2 ^ 79 ∨ 2 ^ 79 - 1 < exact)) ∧
      (∀ n, n < 4096 → e.getLsbD (n / 128) = false → tileWord z n = tileWord x n) ∧
      (b.refl = b.reflection → z.sat = [] → z.nans = [] → BalancedTile x → BalancedTile z)) ∧
    (BalancedTile x → x.cls = .exact → x.check = {}) ∧
    (∀ (n : Nat) (d : Int), BalancedTile x → x.cls = .exact → n < 4096 → d ≠ 0 → -2 ^ 79 ≤ tileWord x n → tileWord x n < 2 ^ 79 →
      y = { x with words := y.words } → (∀ k, k < 4096 → tileWord y k = tileWord x k + if k = n then d else 0) →
      y.check.ok = true ∧ y.check.fix = some (n / 128, n % 128, tileWord x n))
/-! ## Tapers -/

/-- What a taper instruction that the port takes leaves alone; the store exchanges the tapers of two groups with a stall. -/
structure PortTakes (s t : State) (hold : Nat) : Prop where
  past : t.csp = s.csp.past s.cur.len
  others : OtherSplits s t
  stall : t.cw.nextIssue = max s.cw.nextIssue (s.cyc + 1 + s.cur.stall + hold +
    (if s.cc.tapHolder = none ∨ s.cc.tapHolder = some s.cur.g then 0 else 4096))
  holder : (t.core s.cu).tapHolder = some s.cur.g
  line : (t.core s.cu).portWait = s.cc.portWait.filter fun o => o != (s.cur.g, s.cur.w, s.cur.sl)
  core : { t.core s.cu with tapHolder := s.cc.tapHolder, portWait := s.cc.portWait, portWork := s.cc.portWork } = s.cc
  cores : ∀ u, u ≠ s.cu → t.core u = s.core u
  regs : RegsStill s t
  group : { t.cg with tapers := s.cg.tapers, tapWork := s.cg.tapWork, tapOps := s.cg.tapOps, locks := s.cg.locks
                      waves := s.cg.waves } = s.cg
  groups : ∀ g, g ≠ s.cur.g → Tbl.get? t.groups g = Tbl.get? s.groups g
  machine : { t with groups := s.groups, cores := s.cores, nextId := s.nextId, dies := s.dies } = s.meets t
  quiet : s.memory.errs = [] → s.meets t = s
  bytes : SameBytes s t

/-- R224, R226, R230-R234: each taper instruction when the port is free for it, and where it faults; a split that finds the port taken
waits in its line. The model's choices: nobody stalls where no split holds the store (log 12); each event of the port is one cycle of it
(log 27). -/
def ruleTaperInstructions : Prop :=
  ∀ (s : State) (w : Fin 16) (a d : Fin 64) (v : Fin 128) (m : Fin 4) (x : Fin 2),
    let y := s.cg.taper w.val
    let r := (s.rdS a.val).toNat
    let free := s.portFree w.val = true
    let ready := y.configured = true ∧ y.damaged = false
    let badCfg := r % 2 ^ 10 = 0 ∨ 512 < r % 2 ^ 10 ∨ r / 2 ^ 10 % 2 ^ 6 ≠ 0 ∨ 10 < r / 2 ^ 16 % 16 ∨ 2 ^ 20 ≤ r
    let empty (t : State) (op n : Nat) : Prop := t.cg.taper w.val = { configured := true, op := op, w := n } ∧
      (∀ k, k ≠ w.val → t.cg.taper k = s.cg.taper k) ∧ t.cw.region.isOpen = false ∧ t.cw.results = s.cw.results
    let answersWith (i : Instr) (val : DWord) (mark : Bool) (q : Option Nat) : Prop := ∃ t, exec i s = .next t ∧ PortTakes s t 0 ∧
      t.cw.results = s.cw.results ++ [{ id := s.nextId, kind := .vals, counter := .none, sregs := [d.val], out := [(.s d.val, val)]
                                        poisoned := mark, tap := true, tapq := q, region := s.regionNow }] ∧
      t.cg.tapers = s.cg.tapers ∧ (t.core s.cu).portWork = s.cc.portWork ∧ t.cw.region = s.cw.region
    (badCfg → exec (.tapcfg w a) s = .next (s.raise cIllegal)) ∧
    (¬ badCfg → free → ∃ t, exec (.tapcfg w a) s = .next t ∧ PortTakes s t 0 ∧ empty t (r / 2 ^ 16 % 16) (r % 2 ^ 10)) ∧
    (ready → free → ∃ t, exec (.tapclr w) s = .next t ∧ PortTakes s t 0 ∧ empty t y.op y.w) ∧
    (ready → free → v.val + (if m.val = 0 then 1 else 0) < s.cw.v.length → ∃ t, exec (.tapin w v m) s = .next t ∧
      (let cs := (maskLanes s.csp.exec).zipIdx.map fun p => (p.1, s.contribution y v.val m.val p.1 p.2)
       PortTakes s t (y.hold (cs.map Prod.snd)) ∧ t.cg.tapWork = some ⟨w.val, cs⟩ ∧
       (t.core s.cu).portWork = s.cc.portWork ++ [s.cur.g] ∧ t.cg.tapers = s.cg.tapers ∧ t.cw.region.isOpen = false)) ∧
    (ready → free → answersWith (.tapq w d) y.query.1 y.query.2 (some s.cur.sl)) ∧
    (free → answersWith (.tapstat w d x) (if x.val = 1 then y.n
      else BitVec.ofNat 64 (y.front.length + y.back.length + 2 ^ 16 * (if y.configured then y.w else 0) + 2 ^ 26 * y.op +
        (if y.configured then 2 ^ 30 else 0) + (if y.damaged then 2 ^ 31 else 0) +
        (if y.baggPoison || y.front.any Prod.snd || y.back.any Prod.snd then 2 ^ 32 else 0))) false none) ∧
    (¬ ready → free → exec (.tapq w d) s = .next (s.raise cIllegal) ∧ exec (.tapclr w) s = .next (s.raise cIllegal) ∧
      exec (.tapin w v m) s = .next (s.raise cIllegal)) ∧
    (¬ free → ∃ t, exec (.tapstat w d x) s = .next t ∧ (s.cur.g, s.cur.w, s.cur.sl) ∈ (t.core s.cu).portWait ∧
      { t with cores := s.cores } = s)

/-- The aggregate of contributions from the newest back, the older on the left (R224). -/
def tapFold (op : Nat) : List DWord → DWord
  | [] => 0
  | [a] => a
  | a :: b :: r => tapOp op a (tapFold op (b :: r))

/-- A taper's two stacks hold the contributions `f`, then `b`, each with its mark, the oldest first (R224, R227). -/
def TaperHolds (x : Taper) (f b : List (DWord × Bool)) : Prop :=
  x.back = b ∧
  x.front = (List.range f.length).map (fun k =>
    (tapFold x.op ((f.drop (f.length - 1 - k)).map Prod.fst), (f.drop (f.length - 1 - k)).any Prod.snd)) ∧
  (∀ c r, b = c :: r → x.bagg = r.foldl (fun a y => tapOp x.op a y.1) c.1 ∧ x.baggPoison = b.any Prod.snd)

/-- R223, R224, R227, R235: an insertion appends its contribution and, where the window is full, first drops the oldest; a query combines
the window, and for the integer operators is the plain fold over it, oldest first; the image of a taper restores it. -/
def Obligations.TaperWindows : Prop :=
  ∀ (x : Taper) (f b : List (DWord × Bool)) (a c : DWord × Bool),
    (x.front = [] → x.back = [] → TaperHolds x [] []) ∧
    (TaperHolds x f b → f.length + b.length < x.w → TaperHolds (x.insert c.1 c.2) f (b ++ [c])) ∧
    (TaperHolds x (a :: f) b → f.length + 1 + b.length = x.w → TaperHolds (x.insert c.1 c.2) f (b ++ [c])) ∧
    (TaperHolds x [] (a :: b) → b.length + 1 = x.w → TaperHolds (x.insert c.1 c.2) b [c]) ∧
    ((x.insert c.1 c.2).n = x.n + 1 ∧ (x.insert c.1 c.2).op = x.op ∧ (x.insert c.1 c.2).w = x.w) ∧
    (TaperHolds x [] [] → x.query = (tapIdentity x.op, false)) ∧
    (TaperHolds x (a :: f) [] → x.query = (tapFold x.op ((a :: f).map Prod.fst), (a :: f).any Prod.snd)) ∧
    (TaperHolds x f (a :: b) → f ≠ [] → x.query =
      (tapOp x.op (tapFold x.op (f.map Prod.fst)) (b.foldl (fun y z => tapOp x.op y z.1) a.1), (f ++ a :: b).any Prod.snd)) ∧
    (TaperHolds x f b → f ++ b = a :: (f ++ b).tail → x.op ∈ [0, 2, 3, 6, 7, 8] →
      x.query.1 = (f ++ b).tail.foldl (fun y z => tapOp x.op y z.1) a.1) ∧
    (x.configured = true → x.damaged = false → x.op ≤ 10 → 0 < x.w → x.w ≤ 512 → x.front.length + x.back.length ≤ x.w →
      (x.back = [] → x.bagg = 0) → x.flipping = false → x.flipAcc = (0, false) → x.storeErr = [] → taperOf x.image x.imagePoison = { x with restoring := false })

/-- R226, R228, R235: a cycle of the port serves the TAPIN it has accepted first: a flip goes on or begins, four entries a cycle, or
one lane is inserted; the port goes to the next TAPIN with the last lane. TAPSAV and TAPRST take their range and are counted on CPC; a save
writes the taper's image, a line at a time, a restore replaces the taper by what the image says. -/
def ruleTaperPortsAndMoves : Prop :=
  ∀ (s : State) (w : Fin 16) (b : Fin 64) (disp : Word) (q : Fin 2) (ps : List (Nat × Nat × List Place)) (u g id : Nat) (k : TapWork)
    (o : TapOp),
    let scr := q.val == 1
    let base := [(0, s.addr (.base b disp) 0)]
    let y := s.cg.taper w.val
    let moves (t : State) (isSave : Bool) (d : List Byte × List Nat) : Prop :=
      (isSave = true ∨ remotePas (placesOf ps) = [] → PortTakes s t 0) ∧ t.csp = s.csp.past s.cur.len ∧ t.cw.cpc = s.cw.cpc + 1 ∧
      t.cg.tapOps = s.cg.tapOps ++ [{
        id := s.nextId, wave := s.cur.w, unit := s.cu, tap := w.val, isSave := isSave, image := d.1, poison := d.2, places := placesOf ps
        vas := pagePairs ps, waits := s.waveWrites s.cur.g s.cur.w }] ∧
      t.cg.locks = s.cg.locks ++ (spanOf scr isSave (fun _ => 8512) ps).map fun r =>
        ⟨s.cur.g, s.nextId, r.sp, r.isWrite, r.lo, r.hi, false⟩
    let isOver (t : State) : Prop :=
      (∀ p, p ∈ (t.group g).tapOps → p.id ≠ id) ∧ (∀ l, l ∈ (t.group g).locks → l.op ≠ id) ∧
      (t.wave g o.wave).cpc = (s.wave g o.wave).cpc - 1
    (RowsOk s scr true 64 (fun _ => 8512) s.plainStoreOk base ps → s.portFree w.val = true →
      ∃ t, exec (.tapsav w b disp q) s = .next t ∧ moves t true (y.image, y.imagePoison) ∧ t.cg.tapers = s.cg.tapers) ∧
    (RowsOk s scr false 64 (fun _ => 8512) anyLeaf base ps → s.restoreWaits (placesOf ps) = true →
      ∃ t, exec (.taprst w b disp q) s = .next t ∧ t.csp = s.csp ∧ t.groups = s.groups ∧ SameBytes s t ∧
        (s.cur.g, s.cur.w, s.cur.sl) ∈ t.cc.portWait ∧ s.cc.portWait <+: t.cc.portWait) ∧
    (RowsOk s scr false 64 (fun _ => 8512) anyLeaf base ps → s.portFree w.val = true → s.restoreWaits (placesOf ps) = false →
      ∃ t, exec (.taprst w b disp q) s = .next t ∧ moves t false (s.engineData (placesOf ps)) ∧ t.cw.region.isOpen = false ∧
        t.cg.taper w.val = { y with restoring := true } ∧ (∀ j, j ≠ w.val → t.cg.taper j = s.cg.taper j)) ∧
    (∀ gs lane rest, (s.core u).portWork = g :: gs → (s.group g).tapWork = some k → k.lanes = lane :: rest →
      let z := (s.group g).taper k.tap
      let flips := z.flipping = true ∨ (z.front = [] ∧ z.back.length = z.w)
      ∃ t, exec (.taperPortAccept u) s = .next t ∧
        (flips → (t.group g).taper k.tap = z.flipCycle ∧ (t.group g).tapWork = some k) ∧
        (¬ flips → (t.group g).taper k.tap = z.insert lane.2.1 lane.2.2 ∧
          (t.group g).tapWork = if rest = [] then none else some { k with lanes := rest }) ∧
        (t.core u).portWork = (if ¬ flips ∧ rest = [] then gs else g :: gs) ∧
        (∀ j, j ≠ k.tap → (t.group g).taper j = (s.group g).taper j) ∧
        (∀ h, h ≠ g → t.group h = s.group h) ∧ { t with groups := s.groups, cores := s.cores } = s) ∧
    ((s.group g).tapOps.find? (fun p => p.id == id) = some o → o.dropped = none → s.engineFlying g id = false →
      (o.isSave = false → o.paged = false → (s.group g).isSaved = false → s.placesOk (s.group g).unit o.places = true →
        s.stillWriting o.waits o.places = false →
        ∃ t, exec (.taperSaveOrRestoreComplete g id) s = .next t ∧ isOver t ∧ SameBytes s t ∧
          (t.group g).taper o.tap = taperOf o.image o.poison ∧ (∀ j, j ≠ o.tap → (t.group g).taper j = (s.group g).taper j)) ∧
      (o.isSave = true → o.image.length ≤ o.done →
        ∃ t, exec (.taperSaveOrRestoreComplete g id) s = .next t ∧ isOver t ∧ SameBytes s t ∧ (t.group g).tapers = (s.group g).tapers) ∧
      (let st := o.nextStep.map fun p => (p.1, p.2.1)
       o.isSave = true → o.done < o.image.length → o.paged = false → (s.group g).isSaved = false →
        s.placesOk (s.group g).unit (st.map Prod.fst) = true → s.stillWriting o.waits (st.map Prod.fst) = false →
        Writable s (st.map Prod.fst) →
        (st <+: (o.places.zip o.image).drop o.done ∧ ∀ p q, p ∈ st → q ∈ st → placeLine p.1 = placeLine q.1) ∧
        ∃ t, exec (.taperSaveOrRestoreComplete g id) s = .next t ∧ Lands s t st ∧ (t.group g).tapers = (s.group g).tapers ∧
          (o.image.length ≤ o.done + st.length → isOver t) ∧
          (o.done + st.length < o.image.length → (t.group g).tapOps = (s.group g).tapOps.map fun p =>
            if p.id = id then { p with done := p.done + st.length } else p)))

/-- R226, R230-R235: the taper instructions, and what the port does with them. -/
def Obligations.TaperInstructionsAndPorts : Prop := ruleTaperInstructions ∧ ruleTaperPortsAndMoves

/-! ## Stamped publication -/

/-- Handles that are pending on one of these operations resolve to `r`, in every wave of the group; no other handle changes. -/
def Resolves (s t : State) (g : Nat) (ops : List Nat) (r : Handle) : Prop :=
  ∀ w k, (t.wave g w).handle k = match (s.wave g w).handle k with
    | .pending o => if o ∈ ops then r else .pending o
    | .empty => .empty
    | .done l => .done l
    | .failed c l => .failed c l
    | .cancelled l => .cancelled l

/-- R242-R251: TNOW, PUB, LDAT, DUSK and the transaction instructions, when they execute, and the faults of their entries. -/
def ruleStampedInstructions : Prop :=
  ∀ (s : State) (v : Fin 128) (ad : Addr) (h : Fin 16) (d a : Fin 64) (md : Fin 8) (x : Tx) (ps : List (Nat × Nat × List Place))
    (ls : List Leaf),
    let stamp := max s.time.hi (s.cc.lastStamp + 1)
    let op := s.nextId
    let held (t : State) (id : Nat) (handles : List Nat) (vers : List Version) (tx : Bool) : Prop :=
      (t.core s.cu).hold = s.cc.hold ++ [{
        id := id, ctx := s.cctx, group := s.cur.g, wave := s.cur.w, stamp := stamp, tx := tx, handles := handles
        vers := vers.map fun v => { v with stamp := stamp, tx := tx } }] ∧
      (t.core s.cu).lastStamp = stamp ∧ (∀ u, u ≠ s.cu → t.core u = s.core u)
    let pends (t : State) : Prop := t.cw.handle h.val = .pending op ∧ (∀ k, k ≠ h.val → t.cw.handle k = s.cw.handle k)
    let goes (t : State) : Prop := Issued s t ∧ RegsStill s t ∧ t.cw.region.isOpen = false ∧ SameBytes s t
    let lo := s.time.lo
    let T := (s.rdS a.val).toNat
    ((d ≠ a ∨ d.val = 0) → ∃ t, exec (.tnow d a) s = .next t ∧ WaveQueues s t ∧
      Queued s t { id := op, kind := .tnow d.val a.val, counter := .smc, sregs := [d.val, a.val].filter fun r => r != 0
                   region := s.regionNow } ∧ OnlyWave { s with nextId := s.nextId + 1 } t) ∧
    (s.pubCheck ad = .ok ps ls → s.pubWaits h.val = false → s.csp.exec ≠ 0 →
      (s.openTx = none → ∃ t, exec (.pub v ad h) s = .next t ∧ goes t ∧ pends t ∧
        held t (s.nextId + 1) [op] (s.formVersions v.val ps) false ∧ t.txs = s.txs) ∧
      (s.openTx = some x → ∃ t, exec (.pub v ad h) s = .next t ∧ goes t ∧ pends t ∧ t.cores = s.cores ∧
        t.txs = s.txs.map fun y => if y.id = x.id
          then { y with pubs := y.pubs + 1, handles := y.handles ++ [op], vers := y.vers ++ s.formVersions v.val ps } else y)) ∧
    (s.pubCheck ad = .ok ps ls → s.pubWaits h.val = false → s.csp.exec = 0 → ∃ t, exec (.pub v ad h) s = .next t ∧ goes t ∧
      t.cw.handle h.val = .done [] ∧ t.cores = s.cores) ∧
    (s.cw.tx = none → (s.stampCheck true (s.laneAddrs ad)) = .ok ps ls → (s.ctx s.cctx).penmax < s.time.pen →
      exec (.pub v ad h) s = .next (s.raise cPenumbra s.time.pen)) ∧
    (T < lo → s.stampCheck false (s.laneAddrs ad) = .ok ps ls → ∃ t, exec (.ldat v ad a md) s = .next t ∧ WaveQueues s t ∧
      Queued s t { id := op, kind := .ldat v.val md.val T, counter := .vmc, vregs := [v.val], mregs := [md.val], lanes := s.csp.exec
                   region := s.regionNow
                   pas := ps.filterMap fun p => match p.2.2 with
                     | .global pa :: _ => some (p.1, pa)
                     | .scratch _ _ :: _ => none
                     | [] => none } ∧
      OnlyWaveTlb { s with nextId := s.nextId + 1 } t) ∧
    (1000000 + lo < T → exec (.ldat v ad a md) s = .next (s.raise cFuture 0 (((s.laneAddrs ad).map Prod.snd).headD 0))) ∧
    (s.heldBelow s.cur.g s.cur.w s.nextId = true → ∃ t, exec .dusk s = .next t ∧ IssuedBlocked s t (.dusk s.nextId) ∧ WaveStill s t ∧
      OnlyWave s t) ∧
    (s.heldBelow s.cur.g s.cur.w s.nextId = false → ∃ t, exec .dusk s = .next t ∧ Issued s t ∧ WaveStill s t ∧ OnlyWave s t) ∧
    (s.cw.tx = none → (s.cw.handle h.val).isPending = false → ∃ t, exec (.pubtxB h) s = .next t ∧ goes t ∧ pends t ∧
      t.cw.tx = some op ∧ t.cores = s.cores ∧
      t.txs = s.txs ++ [{ id := op, ctx := s.cctx, group := s.cur.g, wave := s.cur.w, handles := [op] }]) ∧
    (s.cw.tx ≠ none → exec (.pubtxB h) s = .next (s.raise cIllegal)) ∧
    (s.openTx = none → exec .pubtxC s = .next (s.raise cIllegal)) ∧
    (s.openTx = some x → x.group = s.cur.g → x.wave = s.cur.w → s.time.pen ≤ (s.ctx s.cctx).penmax →
      (x.pubs ≠ 0 → s.holdFull = false → ∃ t, exec .pubtxC s = .next t ∧ goes t ∧ held t op x.handles x.vers true ∧
        t.cw.tx = none ∧ t.txs = s.txs.filter fun y => y.id != x.id) ∧
      (x.pubs = 0 → ∃ t, exec .pubtxC s = .next t ∧ t.cw.region.isOpen = false ∧ Resolves s t s.cur.g x.handles (.done []) ∧
        t.cw.tx = none ∧ t.txs = s.txs.filter fun y => y.id != x.id)) ∧
    (s.openTx = some x → (s.ctx s.cctx).penmax < s.time.pen → exec .pubtxC s = .next (s.raise cPenumbra s.time.pen)) ∧
    (s.openTx = some x → x.group = s.cur.g → x.wave = s.cur.w → ∃ t, exec .pubtxA s = .next t ∧ t.cw.region.isOpen = false ∧
      Resolves s t s.cur.g x.handles (.cancelled []) ∧ t.cw.tx = none ∧ t.txs = s.txs.filter fun y => y.id != x.id) ∧
    (s.openTx = none → ∃ t, exec .pubtxA s = .next t ∧ goes t ∧ t.txs = s.txs ∧ t.cores = s.cores)

/-- R243, R244: PUB forms one version for each record that a lane addresses; each of its words is that of the highest lane that
addressed it, and 0 where none did. -/
def ruleVersionsFormed : Prop :=
  ∀ (s : State) (v : Nat) (ps : List (Nat × Nat × List Place)),
    let at' (l pa : Nat) : Prop := ∃ a r, (l, a, Place.global pa :: r) ∈ ps
    (∀ p q, p ∈ ps → q ∈ ps → p.1 = q.1 → p = q) → ps.Pairwise (fun p q => p.1 < q.1) →
    (∀ l pa, at' l pa → ∃ x, x ∈ s.formVersions v ps ∧ x.slot = pa / 256 * 256) ∧
    ((s.formVersions v ps).map Version.slot).Nodup ∧
    (∀ x, x ∈ s.formVersions v ps → x.words.length = 12 ∧ x.writer = 512 * s.mod + s.cu ∧ x.ctx = s.cctx ∧
      (∃ l pa, at' l pa ∧ x.slot = pa / 256 * 256) ∧
      ∀ k, k < 12 →
        (∀ l, at' l (x.slot + 4 * k) → (∀ j, at' j (x.slot + 4 * k) → j ≤ l) → x.words.getD k 0 = s.rdVL v l) ∧
        ((∀ l, ¬ at' l (x.slot + 4 * k)) → x.words.getD k 0 = 0))

/-- R242-R252: the instructions of stamped memory, and the versions they form. -/
def Obligations.StampedMemory : Prop := ruleStampedInstructions ∧ ruleVersionsFormed

/-- R244, R245, R248: an entry of a dusk hold goes to its homes, is acknowledged, and is released once lo exceeds its stamp; a released
version enters its record, but not before the cut of an accepted snapshot that its stamp lies behind (R96); entries fail where a home
cannot be reached (another module's is so once the event reports it: log 49) or the clock stays dark; homes of other modules hear of a
release or a removal on the ordered flow, and of frontiers, which a module keeps for each flow and sends on those of all 64 contexts
(log 65). Another module's versions are kept pending and acknowledged. -/
def Obligations.DuskHold : Prop :=
  ∀ (s : State) (u id home : Nat) (e : Hold) (src : Fin 64) (lo : Nat),
    let n := 512 * s.mod + u
    let others (t : State) : Prop := (∀ v, v ≠ u → t.core v = s.core v) ∧ SameBytes s t
    let marked (t : State) (f : Version → Version) : Prop := (t.core u).hold = (s.core u).hold.map (fun h =>
      if h.id = id then { h with vers := h.vers.map fun v => if homeOf v.slot = home then f v else v } else h) ∧
      { t.core u with hold := (s.core u).hold } = s.core u
    let gone (t : State) (r : Handle) : Prop := (t.core u).hold = (s.core u).hold.filter (fun h => h.id != id) ∧
      Resolves s t e.group e.handles r
    let withdrawn (t : State) : Prop :=
      (t.memory.pending = s.memory.pending.filter fun p => !(p.1 == n && p.2.1 == id && !remoteHome (homeOf p.2.2.slot))) ∧
      ∀ v, v ∈ e.vers → remoteHome (homeOf v.slot) = true → ∃ x, x ∈ t.memory.writes ∧ x.stage = .module ∧ x.ctx = e.ctx ∧
        x.home = homeOf v.slot ∧ x.payld = .msg (.removal u e.id (homeOf v.slot))
    let mayEnter := s.memory.pending.filter fun p => p.2.1 == id && homeOf p.2.2.slot == home && p.2.2.acked &&
      (!p.2.2.held || !s.versionQueued p.1 id p.2.2)
    (u < 512 → s.holdEntry u id = some e → home < 512 → s.bridgeOk u home = true → (∃ v, v ∈ e.vers ∧ homeOf v.slot = home ∧ v.sent = false) →
      ∃ t, exec (.versionArrival n id home []) s = .next t ∧ marked t (fun v => { v with sent := true }) ∧ others t ∧
        t.memory.pending = s.memory.pending ++
          (e.vers.filter fun v => homeOf v.slot == home && !v.sent).map fun v => (n, id, { v with sent := true })) ∧
    (∀ (w : Nat) (vs : List RemoteVersion), s.isFar w = true → home < 512 → s.dxOk home = true → vs ≠ [] →
      (∀ v, v ∈ vs → homeOf (s.norm v.slot) = home ∧ Tbl.getD s.memory.settled (64 * (w / 512) + v.ctx) 0 < v.stamp) →
      (∀ p, p ∈ s.memory.pending → ¬ (p.1 = w ∧ p.2.1 = id ∧ homeOf p.2.2.slot = home)) →
      (s.flow (s.inFlow s.mod (w / 512) ((vs.head?.map RemoteVersion.ctx).getD 0) true)).kept = [] →
      ∃ t, exec (.versionArrival w id home vs) s = .next t ∧ SameBytes s t ∧ OutMsg.acknowledgement (w / 512) w id home ∈ t.host.out ∧
        t.memory.pending = s.memory.pending ++ vs.map fun v => (w, id,
          { slot := s.norm v.slot / 256 * 256, words := v.words, stamp := v.stamp, writer := w % 32768, tx := v.tx
            poison := v.poison, peerCtx := v.ctx, sent := true })) ∧
    (u < 512 → s.reachable u home = true → ∃ t, exec (.homeAcknowledgement n id home) s = .next t ∧
      marked t (fun v => { v with acked := v.acked || v.sent }) ∧ others t ∧ { t with cores := s.cores } = s) ∧
    (u < 512 → s.holdEntry u id = some e → e.stamp < s.time.lo → (∀ v, v ∈ e.vers → v.acked = true) →
      ∃ t, exec (.duskRelease n id) s = .next t ∧ gone t (.done (e.vers.flatMap slotLines)) ∧ SameBytes s t ∧
        (t.memory.pending = s.memory.pending.map fun p =>
          if p.1 = n ∧ p.2.1 = id ∧ remoteHome (homeOf p.2.2.slot) = false then (p.1, p.2.1, { p.2.2 with acked := true }) else p) ∧
        ∀ v, v ∈ e.vers → remoteHome (homeOf v.slot) = true → ∃ x, x ∈ t.memory.writes ∧ x.stage = .module ∧ x.ctx = e.ctx ∧
          x.home = homeOf v.slot ∧ x.payld = .msg (.release u e.id (homeOf v.slot))) ∧
    (u < 512 → s.holdEntry u id = some e → (s.time.lo ≤ e.stamp ∨ ∃ v, v ∈ e.vers ∧ v.acked = false) →
      exec (.duskRelease n id) s = .next s) ∧
    (∀ w v, mayEnter = [(w, id, v)] → v.held = false →
      (if s.isFar w = true then s.dxOk home = true else remoteHome home = true ∨ s.bridgeOk (w % 512) home = true) →
      s.frozenT v.slot = none → s.cutsOff v.slot v.stamp = true → exec (.versionVisible id home) s = .next s) ∧
    (∀ w v, mayEnter = [(w, id, v)] → v.held = false →
      (if s.isFar w = true then s.dxOk home = true else remoteHome home = true ∨ s.bridgeOk (w % 512) home = true) →
      s.frozenT v.slot = none → s.cutsOff v.slot v.stamp = false → s.canonical → v.slot % 256 = 0 →
      let ls := (List.range 4).map fun i => v.slot + 64 * i
      let enters (t : State) (l : Nat) : Prop := l ∈ ls ∧
        (∀ i, i < 64 → t.byteAt (l + i) = v.line.getD i 0) ∧ ∀ a, (a < l ∨ l + 64 ≤ a) → t.byteAt a = s.byteAt a
      let removed (t : State) : Prop := ∀ p, p ∈ t.memory.pending → ¬ (p.1 = w ∧ p.2.1 = id ∧ p.2.2.slot = v.slot)
      v.words.length = 12 →
      ((∃ l, l ∈ ls ∧ s.slotLine l = none) →
        ∃ t l, exec (.versionVisible id home) s = .next t ∧ s.slotLine l = none ∧ enters t l ∧ removed t) ∧
      (∀ l st x p, l ∈ ls → s.slotLine l = some (st, x, p) → (∀ k, k ∈ ls → s.slotLine k ≠ none) →
        (∀ k a b c, k ∈ ls → s.slotLine k = some (a, b, c) → k ≠ l → stampLt (st, x) (a, b) = true) →
        (stampLt (st, x) (v.stamp, v.writer) = true → ∃ t, exec (.versionVisible id home) s = .next t ∧ enters t l ∧ removed t) ∧
        (stampLt (st, x) (v.stamp, v.writer) = false → ∃ t, exec (.versionVisible id home) s = .next t ∧ SameBytes s t ∧ removed t))) ∧
    (u < 512 → remoteHome home = false → s.bridgeOk u home = false → (∀ p, p ∈ s.memory.pending → p.2.1 = id → p.1 = n) →
      exec (.versionVisible id home) s = .next s) ∧
    (u < 512 → s.holdEntry u id = some e → (∃ v, v ∈ e.vers ∧ homeOf v.slot = home ∧ v.acked = false) → (remoteHome home = true ∨ s.lost u home = true) →
      ∃ t, exec (.homeUnreachable n id home) s = .next t ∧ gone t (.failed 0x10 []) ∧ SameBytes s t ∧ withdrawn t) ∧
    (u < 512 → s.holdEntry u id = none → remoteHome home = true → ∃ t, exec (.homeUnreachable n id home) s = .next t ∧
      t.reaches (homeModule home) = false ∧ { t with pod := s.pod } = s ∧ { t.pod with absent := s.pod.absent } = s.pod) ∧
    (u < 512 → s.holdEntry u id = some e → s.time.tclk = .dark → s.timerLen 1000000 ≤ e.darkFor → s.time.lo ≤ e.stamp →
      ∃ t, exec (.darkDiscard n id) s = .next t ∧ gone t (.failed 0x0A []) ∧ withdrawn t) ∧
    (∃ t, exec .frontierSend s = .next t ∧ SameBytes s t ∧ ∀ m c, m ∈ s.pod.members → m ≠ s.mod → c < 64 →
      ∃ x, x ∈ t.memory.writes ∧ x.stage = .module ∧ x.ctx = c ∧ x.home = 512 * (m + 1) ∧ x.payld = .msg (.frontier s.time.lo)) ∧
    (∃ t, exec (.frontierArrival src lo) s = .next t ∧
      (∀ c, c < 64 → Tbl.getD t.memory.settled (64 * src.val + c) 0 = max lo (Tbl.getD s.memory.settled (64 * src.val + c) 0)) ∧
      (∀ k, k / 64 ≠ src.val → Tbl.get? t.memory.settled k = Tbl.get? s.memory.settled k) ∧
      t.pod = { s.pod with absent := s.pod.absent.filter fun m => m != src.val } ∧
      { t with memory := { t.memory with settled := s.memory.settled }, pod := s.pod } = s)

/-! ## The Lantern machine -/

/-- No fence of the wave is outstanding, and no split of it waits for its writes (FQ.DONE, TLBINV). -/
def NoneWaits (s : State) (g w : Nat) : Prop :=
  (s.wave g w).fences = [] ∧ ∀ e, e ∈ (s.wave g w).splits →
    (∀ d x f n, e.2.block ≠ .fqDone d x f n) ∧ ∀ d a b x n, e.2.block ≠ .tlbSend d a b x n

/-- The k-th place on the path of a read by wave `w` of group `g` (R186). -/
def PathPlace (s : State) (g w : Nat) (x : GWrite) (k : Nat) : Prop :=
  let G := s.group g
  let H := s.group x.group
  (k = 0 ∧ x.stage = .store ∧ x.group = g ∧ x.wave = w) ∨ (k = 1 ∧ x.stage = .group ∧ x.group = g) ∨
  (k = 2 ∧ x.stage = .gang ∧ H.kernel = G.kernel ∧ H.gang = G.gang) ∨
  (k = 3 ∧ x.stage = .die ∧ unitDie x.unit = unitDie G.unit ∧ x.ctx = s.ctxOf g) ∨ (k = 4 ∧ x.stage = .module ∧ x.ctx = s.ctxOf g ∧ x.engine = false)

/-- What a load finds at a byte, with its poison mark: the newest plain write to it at the first place of the path that holds one;
else the core's copy of the line; else what the home holds (R186). -/
def Finds (s : State) (g w pa : Nat) (b : Byte × Bool) : Prop :=
  let on (k : Nat) (x : GWrite) : Prop :=
    x.scratchOf = none ∧ x.isPlain = true ∧ (x.byte pa).isSome = true ∧ PathPlace s g w x k
  (∃ k l x r, s.memory.writes = l ++ x :: r ∧ on k x ∧ (∀ y, y ∈ r → ¬ on k y) ∧ (∀ j y, y ∈ s.memory.writes → j < k → ¬ on j y) ∧
    x.byte pa = some b.1 ∧ b.2 = x.poison) ∨
  ((∀ k y, y ∈ s.memory.writes → ¬ on k y) ∧
    match Tbl.get? (s.core (s.group g).unit).view (lineOf pa) with
    | some [] => b = (0, true)
    | some (c :: r) => b = ((c :: r).getD (pa % 64) 0, false)
    | none => b = if s.linePoisoned (lineOf pa) then (0, true) else (s.byteAt pa, false))

/-- R186, R187, R191: READ takes a load's bytes at one home, or at one bank, in one step; LDK's come from the core's cached constant
line where it holds one, else from the home (the model's choice: log 10); LDAT's lanes there receive the greatest visible version not
above t, or bit 32, and poison where no up link reaches the record (R12, R262). No byte of memory changes. -/
def ruleLoadsAreRead : Prop :=
  ∀ (s : State) (g w id home : Nat) (r : Result),
    let W := s.wave g w
    let mine (q : Req) : Prop := q.got = none ∧ placeHome q.place = home
    let reached (ldk : Bool) : Prop := s.bridgeOk (s.group g).unit home = true ∧ (remoteHome home = true → s.readsHeld (s.ctxOf g)
      ((globalPas (r.reqs.filter fun q => q.unread && placeHome q.place == home)).filter (s.goesHome g w ldk)) = false)
    let reads (val : Req → Req → Prop) : Prop := ∃ t f, exec (.read g w id home) s = .next t ∧ SameBytes s t ∧
      (t.wave g w).results = W.results.map (fun x => if x.id = id then { x with reqs := x.reqs.map f } else x) ∧
      (∀ h v, (h, v) ≠ (g, w) → t.wave h v = s.wave h v) ∧ (∀ q, ¬ mine q → f q = q) ∧ ∀ q, q ∈ r.reqs → mine q → val q (f q)
    W.results.find? (fun x => x.id == id) = some r →
    ((∃ q, q ∈ r.reqs ∧ mine q) →
      (∀ e, e ∈ W.earlier id → e.kind.acquires = false ∧
        ∀ q m, q ∈ e.reqs → q.got = none → m ∈ r.reqs → mine m → m.place ≠ q.place) →
      (∀ v, r.kind = .load v → reached false →
        (∀ q, q ∈ r.reqs → mine q → ∃ pa, q.place = .global pa ∧ s.mayRead g w pa = true) →
        reads fun q q' => ∀ pa, q.place = .global pa → ∃ b, Finds s g w pa b ∧ q' = { q with got := some b.1, poison := b.2 }) ∧
      (∀ v, r.kind = .ldk v → reached true → (∀ q, q ∈ r.reqs → mine q → ∃ pa, q.place = .global pa) →
        reads fun q q' => ∀ pa, q.place = .global pa →
          match Tbl.get? (s.core (s.group g).unit).kcache (lineOf pa) with
          | some c => q' = { q with got := some (c.getD (pa % 64) 0), poison := false }
          | none => q' = if s.linePoisoned (lineOf pa) then { q with got := some 0, poison := true }
            else { q with got := some (s.byteAt pa), poison := false }) ∧
      (∀ v h, r.kind = .load v → (∀ q, q ∈ r.reqs → mine q → ∃ o, q.place = .scratch h o) →
        s.bankClear g w id (s.group h).unit = true →
        reads fun q q' => ∀ o, q.place = .scratch h o →
          q' = { q with got := some (s.scratchRead h o), poison := s.scratchPoisoned h o })) ∧
    (∀ v md T, r.kind = .ldat v md T → s.bridgeOk (s.group g).unit home = true → home < 512 →
      let ps := r.pas.filter fun p => homeOf p.2 == home
      ps ≠ [] → s.settledAt home T = true → (∀ p, p ∈ ps → s.admits p.2 = true) → (∀ p, p ∈ ps → s.noPending (p.2 / 256 * 256) T = true) →
      ∃ (t : State) (xs : List DWord), exec (.read g w id home) s = .next t ∧ SameBytes s t ∧
        (∃ r', (t.wave g w).results.find? (fun x => x.id == id) = some r' ∧ r'.out = r.out ++ ps.zipWith (fun (p : Nat × Nat) (x : DWord) => (Dest.v v p.1, x)) xs ∧
          r'.pas = r.pas.filter fun p => homeOf p.2 != home) ∧
        xs.length = ps.length ∧ ∀ (n : Nat) (p : Nat × Nat) (x : DWord), ps[n]? = some p → xs[n]? = some x →
          let line (i : Nat) := s.slotLine (p.2 / 256 * 256 + 64 * i)
          (∃ i st u b, i < 4 ∧ line i = some (st, u, b) ∧ st ≤ T ∧
            (∀ j st' u' b', j < 4 → line j = some (st', u', b') → st' ≤ T → stampLt (st, u) (st', u') = false) ∧
            x = BitVec.ofNat 64 (leNat (s.bytesAt (p.2 / 256 * 256 + 64 * i + p.2 % 256) 4))) ∨
          ((∀ i st u b, i < 4 → line i = some (st, u, b) → T < st) ∧ x = BitVec.ofNat 64 (2 ^ 32))) ∧
    (∀ v md T, r.kind = .ldat v md T → s.bridgeOk (s.group g).unit home = true →
      let ps := r.pas.filter fun p => homeOf p.2 == home
      ps ≠ [] → (∀ p, p ∈ ps → s.admits p.2 = false) → ∃ t r', exec (.read g w id home) s = .next t ∧ SameBytes s t ∧
        (t.wave g w).results.find? (fun x => x.id == id) = some r' ∧ r'.poisoned = true ∧
        r'.pas = (r.pas.filter fun p => homeOf p.2 != home) ∧ r'.out = r.out ++ ps.map fun p => (Dest.v v p.1, 0))

/-- R185, R187, R279, R282, R284, R286: ADVANCE moves a write along its path, behind those at its new place; a write in the module queue
leaves on its flow's link, in flits of 64 bytes and in its channel's turn; a contribution leaves for its window's plane with its
line's round count, an engine's not before the bridges of its die carry it (R269). -/
def ruleWritesAdvance : Prop :=
  ∀ (s : State) (id l p : Nat) (x : GWrite),
    s.memory.writes.find? (fun y => y.id == id) = some x → x.held = false → x.scratchOf = none → s.mayMove x = true →
    NoneWaits s x.group x.wave →
    let goes (st : Stage) : Prop := exec (.advance id) s = .next { s with
      memory := { s.memory with writes := (s.memory.writes.filter fun y => y.id != id) ++ [{ x with stage := st }] } }
    let f := s.flow x.flowKey
    let k := Tbl.getD s.pod.links l {}
    let v := Tbl.getD s.pod.vcs (64 * l + p) {}
    let credit := if k.inVisit then v.deficit else v.deficit + 64 * v.weight
    let flits := max 1 ((s.payloadOf x + 63) / 64)
    let size := 64 * ((s.payloadOf x + 63) / 64)
    let sent (t : State) (y : GWrite) : Prop := exec (.advance id) s = .next t ∧ SameBytes s t ∧
      t.memory.writes = (s.memory.writes.filter fun y => y.id != id) ++ [{ y with stage := .flow, seq := some f.next }] ∧
      t.flow x.flowKey = { f with next := (f.next + 1) % 2 ^ 32, unacked := f.unacked + 1 } ∧
      (let z := Tbl.getD t.pod.links l {}
       z.sendSeq = k.sendSeq + flits ∧
       z.unacked = k.unacked ++ (List.range flits).map (fun i => (k.sendSeq + i, s.now)) ∧
       { z with sendSeq := k.sendSeq, unacked := k.unacked, turn := k.turn, inVisit := k.inVisit } = k)
    (x.stage = .store → goes .group) ∧ (x.stage = .group → goes .gang) ∧ (x.stage = .gang → goes .die) ∧
    (x.stage = .die → remoteHome x.home = true → s.bridgeOk x.unit x.home = true → goes .module) ∧
    (x.stage = .die → remoteHome x.home = false → exec (.advance id) s = .next s) ∧
    (x.stage = .module → x.isContrib = false → x.isMsg = false → s.reaches (homeModule x.home) = true → f.unacked < 4096 → f.link = some l →
      (s.channelOf l x.ctx = none → ∃ t, sent t x ∧ t.pod.vcs = s.pod.vcs) ∧
      (∀ r, s.channelOf l x.ctx = some p → k.turn = 2 * p → s.waitingOn l (2 * p) = (id, size) :: r → size ≤ credit →
        ∃ t, sent t x ∧ Tbl.getD t.pod.vcs (64 * l + p) {} = { v with deficit := if r = [] then 0 else credit - size })) ∧
    (∀ a b, x.stage = .module → x.payld = .contrib [(a, b)] → s.anyLink = true → f.unacked < 4096 → f.link = some l →
      let c := s.countKeyAt a
      (s.channelOf l x.ctx = none → (x.engine = true → s.bridgeOk x.unit x.home = true) → ∃ t,
        sent t { x with round := Tbl.getD s.pod.counts c 0, counted := false, engine := true } ∧
        Tbl.getD t.pod.counts c 0 = (Tbl.getD s.pod.counts c 0 + 1) % 2 ^ 32) ∧
      (x.engine = true → s.bridgeOk x.unit x.home = false → exec (.advance id) s = .next s)) ∧
    (x.stage = .module → 4096 ≤ f.unacked → exec (.advance id) s = .next s)

/-- R280, R284: a response to another module leaves on a link that carries traffic, in its channel's turn and in flits of 64 bytes; the
channel is that of this module's context of the same number (the model's choice: log 63). -/
def ruleResponsesLeave : Prop :=
  ∀ (s : State) (id l p : Nat) (y : Response),
    s.memory.writes.find? (fun x => x.id == id) = none → s.pod.responses.find? (fun x => x.id == id) = some y →
    let k := Tbl.getD s.pod.links l {}
    let v := Tbl.getD s.pod.vcs (64 * l + p) {}
    let credit := if k.inVisit then v.back else v.back + 64 * v.weight
    let flits := (y.bytes.length + 63) / 64
    let leaves (t : State) : Prop := exec (.advance id) s = .next t ∧ t.pod.responses = s.pod.responses.filter (fun x => x.id != id) ∧
      t.host.out = .response y.peer y.ctx y.seq y.bytes y.poison :: s.host.out ∧ t.memory = s.memory ∧ t.groups = s.groups ∧
      (Tbl.getD t.pod.links l {}).unacked = k.unacked ++ (List.range flits).map fun i => (k.sendSeq + i, s.now)
    (y.link = none → s.carrying = [] → exec (.advance id) s = .next s) ∧
    (y.link = none → s.carrying ≠ [] → ∃ j, j ∈ s.carrying ∧ exec (.advance id) s = .next { s with
      freeNo := s.freeNo + 1
      pod := { s.pod with responses := s.pod.responses.map fun x => if x.id = id then { x with link := some j } else x } }) ∧
    (y.link = some l → s.channelOf l y.ctx = none → ∃ t, leaves t ∧ t.pod.vcs = s.pod.vcs) ∧
    (∀ r, y.link = some l → s.channelOf l y.ctx = some p → k.turn = 2 * p + 1 → s.waitingOn l (2 * p + 1) = (id, 64 * flits) :: r →
      64 * flits ≤ credit →
      ∃ t, leaves t ∧ Tbl.getD t.pod.vcs (64 * l + p) {} = { v with back := if r = [] then 0 else credit - 64 * flits })

/-- The new value of an atomic (R162). -/
def atomicRule (op ty old v new : Nat) : Nat :=
  let n := if ty < 2 then 32 else 64
  let below (a b : Nat) : Bool := if ty % 2 = 0 then (BitVec.ofNat n a).slt (BitVec.ofNat n b) else decide (a < b)
  match op with
  | 0 => (old + v) % 2 ^ n
  | 1 => if below v old then v else old
  | 2 => if below old v then v else old
  | 3 => old &&& v
  | 4 => old ||| v
  | 5 => old ^^^ v
  | 6 => v
  | 7 => (fAdd (BitVec.ofNat 32 old) (BitVec.ofNat 32 v)).1.toNat
  | _ => if old = v then new else old
/-- R13, R14, R162, R163, R186-R188: PERFORM applies a write at its home once it stands at the end of its path and its marker holds: its
bytes change and no other, a line written whole loses its poison and a line written in part keeps it; an atomic's lanes act in turn,
each receiving what it found. The write is over, and VMC falls with the last of its operation. -/
def Obligations.WritesArePerformed : Prop :=
  ∀ (s : State) (id : Nat) (x : GWrite),
    s.canonical → s.memory.writes.find? (fun y => y.id == id) = some x → x.held = false → x.dropped = none → s.mayMove x = true →
    s.markerMet x = true → NoneWaits s x.group x.wave →
    let others := s.memory.writes.filter fun y => y.id != id
    let isOver (t : State) : Prop := exec (.perform id) s = .next t ∧ t.memory.writes = others ∧
      (t.wave x.group x.wave).vmc = (if x.counted = true ∧ (∀ y, y ∈ others → y.op = x.op → y.counted = false)
        then (s.wave x.group x.wave).vmc - 1 else (s.wave x.group x.wave).vmc)
    (x.scratchOf = none → s.atEnd x = true → (∀ pa, pa ∈ x.covers → s.frozenAt pa = false ∧ s.admits (lineOf pa) = true) →
      (∀ cs, x.payld = .bytes cs → ∃ t, isOver t ∧ (∀ g a, t.scratchRead g a = s.scratchRead g a) ∧
        (∀ a b, x.byte a = some b → t.byteAt a = b) ∧ (∀ a, x.byte a = none → t.byteAt a = s.byteAt a) ∧
        (x.poison = false → ∀ l, t.linePoisoned (64 * l) =
          if ∀ i, i < 64 → (x.byte (64 * l + i)).isSome = true then false else s.linePoisoned (64 * l)) ∧
        (∀ n, x.seq = some n → (t.flow x.flowKey).unacked = (s.flow x.flowKey).unacked - 1)) ∧
      (∀ op ty ls a, x.payld = .atomic op ty ls → ty < 4 → x.counted = false →
        let n := if ty < 2 then 4 else 8
        let old (k : Nat) : Nat := (ls.take k).foldl (fun o l => atomicRule op ty o l.2.2.1 l.2.2.2) (leNat (s.bytesAt a n))
        a % n = 0 → s.linePoisoned (lineOf a) = false → (ls.map Prod.fst).Nodup →
        (∀ l, l ∈ ls → l.2.1 = a ∧ l.2.2.1 < 256 ^ n ∧ l.2.2.2 < 256 ^ n) →
        ∃ t, isOver t ∧ leNat (t.bytesAt a n) = old ls.length ∧ (∀ b, (b < a ∨ a + n ≤ b) → t.byteAt b = s.byteAt b) ∧
          ∀ rid k l r q, x.result = some rid → ls[k]? = some l → r ∈ (t.wave x.group x.wave).results → r.id = rid → q ∈ r.reqs →
            q.lane = l.1 → q.got = some ((natLE n (old k)).getD q.k 0))) ∧
    (∀ h cs, x.scratchOf = some h → x.payld = .bytes cs → s.bankClear x.group x.wave x.op (s.group h).unit = true →
      ∃ t, isOver t ∧ (∀ a b, x.byte a = some b → t.scratchRead h a = b) ∧
        (∀ a, x.byte a = none → t.scratchRead h a = s.scratchRead h a) ∧
        (∀ g a, g ≠ h → t.scratchRead g a = s.scratchRead g a) ∧ ∀ a, t.byteAt a = s.byteAt a) ∧
    (x.scratchOf = none → s.atEnd x = false → exec (.perform id) s = .next s)

/-- R13, R14, R162, R186, R191, R193, R270, R283: a message of another module comes to the reorder buffer. The ordered flow delivers the next
number and keeps a later one. On the unordered flow the first hand-over only keeps a message, and a later one delivers it where every
earlier one has come and none of them that is still kept touches its lines (the model's reading: log 32). A repeated one is dropped.
A write that stands at a frozen frame is not performed, and its module hears of it, which holds it (R270; the messages are the model's:
log 92). An atomic and a load are answered, with the poison of their lines. FILL copies a block of 128 bytes, and DROP discards one; the
write-back of a corrected line. -/
def ruleMessagesAndCopies : Prop :=
  ∀ (s : State) (peer ctx seq unit line : Nat) (ordered : Bool) (msg : RemoteMsg),
    let m := s.normMsg msg
    let k := 65536 + flowKey peer ctx ordered
    let f := s.flow k
    let l := lineOf line
    let b := line / 128 * 128
    let ahead := (seq + 2 ^ 32 - f.expect) % 2 ^ 32
    let comes : Out := exec (.deliver peer ctx ordered seq msg) s
    let nothing : Prop := comes = .next (s.hearModule peer)
    let lands (t : State) : Prop :=
      (∀ c, c ∈ m.bytes → t.byteAt c.1 = c.2 ∧ (m.poison = true → t.linePoisoned (lineOf c.1) = true)) ∧
      ∀ a, (∀ c, c ∈ m.bytes → c.1 ≠ a) → t.byteAt a = s.byteAt a
    let answers (t : State) (b : List Byte) (bad : List Nat) : Prop :=
      t.pod.responses = s.pod.responses ++ [{ id := s.nextId, peer := peer, ctx := ctx, seq := seq, bytes := b, poison := bad }]
    let turn : Prop := f.expect = seq ∧ f.early = [] ∧ (if ordered then f.kept = [] else f.kept = [(seq, m)])
    (peer ≠ s.mod → s.msgModule m = s.mod → m.hold = .none → seq < 2 ^ 32 → f.expect < 2 ^ 32 → (∀ e, e ∈ f.early → e < 2 ^ 32) →
      (let stores : Prop := s.canonical ∧ m.lanes = [] ∧ m.reads = [] ∧ (m.bytes.map Prod.fst).Nodup ∧ s.stuckAt m = none ∧
         ∀ c, c ∈ m.bytes → inClass c.1 = true
       (ordered = true → stores → s.msgWaits m = false → turn →
          ∃ t, comes = .next t ∧ lands t ∧ t.flow k = { f with expect := (seq + 1) % 2 ^ 32 }) ∧
       (∀ a, ordered = true → s.msgWaits m = false → turn → s.stuckAt m = some a → remoteHome (homeOf a) = false →
          ∃ t, comes = .next t ∧ SameBytes s t ∧ t.flow k = { f with expect := (seq + 1) % 2 ^ 32 } ∧
            .frozen peer ctx true seq a ∈ t.host.out) ∧
       (ordered = true → f.kept = [] → seq ∉ f.early → seq ≠ f.expect → ahead ≤ 4095 →
          ∃ t, comes = .next t ∧ SameBytes s t ∧ t.flow k = { f with kept := [(seq, m)] }) ∧
       (ordered = false → f.kept = [] → seq ∉ f.early → ahead ≤ 4095 →
          ∃ t, comes = .next t ∧ SameBytes s t ∧ t.flow k = { f with kept := [(seq, m)] }) ∧
       (ordered = false → f.kept = [(seq, m)] → seq ∉ f.early → ahead ≤ 4095 →
          (stores → s.msgWaits m = false → (∀ d, d < ahead → (f.expect + d) % 2 ^ 32 ∈ f.early) →
            ∃ t, comes = .next t ∧ lands t ∧
              t.flow k = Flow.settle (f.early.length + 1) { f with kept := [], early := f.early ++ [seq] }) ∧
          (stores → s.msgWaits m = false → turn →
            ∃ t, comes = .next t ∧ lands t ∧ t.flow k = { f with kept := [], expect := (seq + 1) % 2 ^ 32 }) ∧
          ((s.msgWaits m = true ∨ ∃ d, d < ahead ∧ (f.expect + d) % 2 ^ 32 ∉ f.early) → nothing)) ∧
       (∀ n y, ordered = false → f.kept = [(n, y), (seq, m)] → seq ∉ f.early → ahead ≤ 4095 → f.ahead n < ahead →
          (∃ j, j ∈ msgLines y ∧ j ∈ msgLines m) → nothing))) ∧
    (peer ≠ s.mod → s.msgModule m = s.mod → (4095 < (seq % 2 ^ 32 + 2 ^ 32 - f.expect % 2 ^ 32) % 2 ^ 32 ∨ seq % 2 ^ 32 ∈ f.early) →
      nothing) ∧
    (∀ lane a x new, s.canonical → peer ≠ s.mod → s.msgModule m = s.mod → m.hold = .none → m.bytes = [] → m.reads = [] → m.ty < 4 →
      m.lanes = [(lane, a, x, new)] → s.msgWaits m = false → seq < 2 ^ 32 → turn →
      let n := if m.ty < 2 then 4 else 8
      inClass a = true → s.frozenAt a = false → a % n = 0 → x < 256 ^ n → new < 256 ^ n →
      (s.linePoisoned (lineOf a) = false → ∃ t, comes = .next t ∧
        leNat (t.bytesAt a n) = atomicRule m.op m.ty (leNat (s.bytesAt a n)) x new ∧
        (∀ i, (i < a ∨ a + n ≤ i) → t.byteAt i = s.byteAt i) ∧
        answers t (natLE n (leNat (s.bytesAt a n))) []) ∧
      (s.linePoisoned (lineOf a) = true → ∃ t, comes = .next t ∧ SameBytes s t ∧
        answers t (natLE n (leNat (s.bytesAt a n))) (List.range n))) ∧
    (peer ≠ s.mod → s.msgModule m = s.mod → m.hold = .none → m.bytes = [] → m.lanes = [] → m.reads ≠ [] → s.msgWaits m = false →
      seq < 2 ^ 32 → turn → ∃ t, comes = .next t ∧ SameBytes s t ∧
        answers t (m.reads.map s.byteAt) ((List.range m.reads.length).filter fun i => s.linePoisoned (lineOf (m.reads.getD i 0)))) ∧
    (∀ o q a y, peer ≠ s.mod → ordered = true → m = { hold := .frozen o q a } → turn → seq < 2 ^ 32 →
      s.memory.writes.find? (fun x => x.seq == some q && x.flowKey == flowKey peer ctx o && !x.isContrib && !x.isMsg) = some y →
      ∃ t z, comes = .next t ∧ SameBytes s t ∧ z ∈ t.memory.writes ∧ z.id = y.id ∧ z.held = true ∧ z.seq = none) ∧
    (isUnit unit = true → s.bridgeOk unit (homeOf b) = true → s.admits b = true → s.admits (b + 64) = true →
      ∃ t, exec (.fill unit line) s = .next t ∧ SameBytes s t ∧
        (∀ j, Tbl.get? (t.core unit).view j = if j = b ∨ j = b + 64 then some (if s.linePoisoned j then [] else s.bytesAt j 64)
          else Tbl.get? (s.core unit).view j) ∧ ∀ u, u ≠ unit → t.core u = s.core u) ∧
    (∃ t, exec (.drop unit line) s = .next t ∧ { t with cores := s.cores } = s ∧ (∀ u, u ≠ unit → t.core u = s.core u) ∧
      (t.core unit) = { s.core unit with view := (s.core unit).view.filter fun e => e.1 / 128 != l / 128 }) ∧
    (s.memory.writeBacks.contains line = true → ∃ t, exec (.correctedWriteBack line) s = .next t ∧ SameBytes s t ∧
      Tbl.get? t.memory.errs line = none ∧ (∀ j, j ≠ line → Tbl.get? t.memory.errs j = Tbl.get? s.memory.errs j) ∧
      line ∉ t.memory.writeBacks) ∧
    (s.memory.writeBacks.contains line = false → exec (.correctedWriteBack line) s = .next s)

/-- R185-R195, R282, R284: writes advance, deliveries arrive, and cores copy lines. -/
def Obligations.WritesAdvanceAndMessagesArrive : Prop := ruleWritesAdvance ∧ ruleResponsesLeave ∧ ruleMessagesAndCopies

/-- R20, R26, R126, R242, R302: a result that has everything is written to its registers, loses its poison marks there, and its counter
falls; a poisoned one writes nothing, and its wave consumes poison; one that waits stays. -/
def ruleResultsAreWritten : Prop :=
  ∀ (s : State) (g w id : Nat) (r : Result),
    let W := s.wave g w
    W.results.find? (fun x => x.id == id) = some r →
    let less (n : Nat) (c : Counter) : Nat := if r.counter = c then n - 1 else n
    let isOver (t : State) : Prop := exec (.resultWrite g w id) s = .next t ∧ SameBytes s t ∧
      (t.wave g w).results = W.results.filter (fun x => x.id != id) ∧ (t.wave g w).vmc = less W.vmc .vmc ∧
      (t.wave g w).smc = less W.smc .smc ∧ (t.wave g w).mxc = less W.mxc .mxc ∧ (t.wave g w).cpc = less W.cpc .cpc ∧
      (∀ h v, (h, v) ≠ (g, w) → t.wave h v = s.wave h v)
    let scalars (t : State) (ws : List (Nat × DWord)) : Prop := ∀ k, k < 64 → (t.wave g w).s.toList.getD k 0 =
      match ws.find? fun p => p.1 == k && k != 0 with
      | some p => p.2
      | none => W.s.toList.getD k 0
    ((r.ready = false ∨ s.resultBehind g w r = true ∨ s.noticeReached g r = false) → exec (.resultWrite g w id) s = .next s) ∧
    (NoneWaits s g w → r.poisoned = false → s.resultBehind g w r = false →
      (∀ v, (r.kind = .load v ∨ r.kind = .ldk v) → r.hasData = true → (∀ q, q ∈ r.reqs → q.poison = false) →
        (∀ p q, p ∈ r.reqs → q ∈ r.reqs → p.lane = q.lane → p.k = q.k → p = q) → v + r.vregs.length ≤ W.v.length →
        ∃ t, isOver t ∧ (t.wave g w).s = W.s ∧ (t.wave g w).m = W.m ∧
          (∀ l j i q, j < r.vregs.length → i < 4 → r.lanes.getLsbD l = true → q ∈ r.reqs → q.lane = l → q.k = 4 * j + i →
            some (((t.wave g w).rawV (v + j) l).extractLsb' (8 * i) 8) = q.got) ∧
          (∀ n l, (n < v ∨ v + r.vregs.length ≤ n ∨ r.lanes.getLsbD l = false) → (t.wave g w).rawV n l = W.rawV n l) ∧
          (∀ n l, (n, l) ∈ (t.wave g w).vPoison ↔
            (n, l) ∈ W.vPoison ∧ ¬ (v ≤ n ∧ n < v + r.vregs.length ∧ l < 32 ∧ r.lanes.getLsbD l = true))) ∧
      (∀ d x, r.kind = .vals → r.out = [(.s d, x)] → ∃ t, isOver t ∧ scalars t [(d, x)] ∧ (t.wave g w).v = W.v ∧ (t.wave g w).m = W.m) ∧
      (∀ d a, r.kind = .tnow d a → d ≠ a → ∃ t, isOver t ∧
        scalars t [(d, BitVec.ofNat 64 s.time.lo), (a, BitVec.ofNat 64 s.time.hi)] ∧ (t.wave g w).v = W.v) ∧
      (∀ d c pas, r.kind = .noteGet d → c = s.ctxOf g → (s.ctx c).unread ≠ 0 → s.noticeReached g r = true →
        s.walkBytes c ((s.ctx c).notices + 16 * (s.ctx c).rd) 16 .read = some pas → (∀ p, p ∈ pas → s.linePoisoned (lineOf p) = false) →
        ∃ t, isOver t ∧ scalars t [(d, BitVec.ofNat 64 (leNat ((pas.map s.byteAt).take 8))),
            (d + 1, BitVec.ofNat 64 (leNat ((pas.map s.byteAt).drop 8)))] ∧
          t.ctx c = { s.ctx c with rd := ((s.ctx c).rd + 1) % 256, unread := (s.ctx c).unread - 1 } ∧
          (t.core (s.group g).unit).view = []) ∧
      (∀ d, r.kind = .noteGet d → (s.ctx (s.ctxOf g)).unread = 0 → ∃ t, isOver t ∧ scalars t [(d, 0), (d + 1, 0)] ∧ t.ctxs = s.ctxs)) ∧
    (r.ready = true → s.resultBehind g w r = false → (r.poisoned = true ∨ ∃ q, q ∈ r.reqs ∧ q.poison = true) →
      (∃ v, r.kind = .load v ∨ r.kind = .ldk v ∨ r.kind = .vals ∧ r.poisoned = true) →
      ∃ t u, exec (.resultWrite g w id) s = .next ((t.consumePoison g w r.region).settleFences g w) ∧
        t = s.modWave g w (fun _ => u) ∧ u.v = W.v ∧ u.s = W.s ∧ u.m = W.m ∧ u.results = W.results.filter fun x => x.id != id)

/-- R186, R187, R191, R26: results are read and written to their registers. -/
def Obligations.ResultsAreReadAndWritten : Prop := ruleLoadsAreRead ∧ ruleResultsAreWritten

/-! ## Kernels -/

/-- The 64 bytes of a launch packet (R70). -/
def packetBytes (p : Packet) : List Byte :=
  let i16 (x : Int) : List Byte := natLE 2 (x % 65536).toNat
  natLE 8 p.code ++ natLE 2 p.ngx ++ natLE 2 p.ngy ++ natLE 1 p.gang ++ natLE 1 p.dies ++
  natLE 1 ((if p.concurrent then 1 else 0) + (if p.tracked then 2 else 0) + (if p.hasProducer then 4 else 0)) ++ [0] ++ natLE 8 p.args ++
  natLE 8 p.producer ++ i16 p.a00 ++ i16 p.a01 ++ i16 p.a10 ++ i16 p.a11 ++ i16 p.cx ++ i16 p.cy ++ natLE 1 p.ex ++ natLE 1 p.ey ++
  List.replicate 18 0

/-- Every field within its width and the limits of R70; the fields of a producer are 0 where there is none. -/
def PacketOk (p : Packet) : Prop :=
  p.code < 2 ^ 64 ∧ 0 < p.ngx ∧ p.ngx < 2 ^ 16 ∧ 0 < p.ngy ∧ p.ngy < 2 ^ 16 ∧ 0 < p.gang ∧ p.gang ≤ 4 ∧ 0 < p.dies ∧ p.dies ≤ 3 ∧
  p.args < 2 ^ 64 ∧ p.producer < 2 ^ 64 ∧ p.ex < 256 ∧ p.ey < 256 ∧
  (∀ x, x ∈ [p.a00, p.a01, p.a10, p.a11, p.cx, p.cy] → -32768 ≤ x ∧ x < 32768) ∧
  if p.hasProducer then 0 < p.ex ∧ 0 < p.ey
  else p.producer = 0 ∧ p.a00 = 0 ∧ p.a01 = 0 ∧ p.a10 = 0 ∧ p.a11 = 0 ∧ p.cx = 0 ∧ p.cy = 0 ∧ p.ex = 0 ∧ p.ey = 0

/-- R70-R72, R82, R278, R334: LAUNCH hands its packet to the dispatcher, or answers -3 for a queue of another context; the dispatcher
accepts the packets that have come over the bridges of their dies in order, each with the next identifier of its queue, or answers -3, -2
or -1. The model's choices: the packet is read at the home, with the wave's own stores (log 38); a producer that names no kernel counts as complete (log 43). -/
def ruleKernelsAreLaunched : Prop :=
  ∀ (s : State) (d a b : Fin 64) (v : Nat) (l : Leaf) (m : LaunchMsg) (rest : List LaunchMsg) (p : Packet) (i : Image),
    let x := (s.rdS a.val).toNat
    let q := (s.rdS b.val).toNat
    let result (out : List (Dest × DWord)) : Result :=
      { id := s.nextId, kind := .launch d.val s.nextId, counter := .smc, sregs := [d.val], out := out }
    let Q := s.queue m.queue
    let id : Nat := m.ctx * 2 ^ 56 + m.queue * 2 ^ 48 + Q.count + 1
    let answers (t : State) (v : Int) : Prop := exec (.launchAcceptance m.id) s = .next t ∧ SameBytes s t ∧
      t.disp.launches = s.disp.launches.filter (fun y => y.id != m.id) ∧
      ∀ r r', (s.wave m.group m.wave).results.find? (fun r => r.id == m.id) = some r →
        (t.wave m.group m.wave).results.find? (fun r => r.id == m.id) = some r' →
        r'.out = [(.s (r.sregs.headD 0), BitVec.ofInt 64 v)]
    (PacketOk p → parsePacket (packetBytes p) = some p) ∧
    (x % 64 ≠ 0 → exec (.launch d a b) s = .next (s.raise cAlign 0 x)) ∧
    (x % 64 = 0 → (256 ≤ q ∨ (s.queue q).ctx ≠ some s.cctx) → ∃ t, exec (.launch d a b) s = .next t ∧
      Queued s t (result [(.s d.val, BitVec.ofInt 64 (-3))]) ∧ WaveQueuesClosed s t ∧ OnlyWave { s with nextId := s.nextId + 1 } t) ∧
    (x % 64 = 0 → q < 256 → (s.queue q).ctx = some s.cctx → s.rdVa s.cur.g x 64 .read = .ok v l → ∃ t,
      exec (.launch d a b) s = .next t ∧ Queued s t (result []) ∧ WaveQueuesClosed s t ∧
      t.disp.launches = s.disp.launches ++ [⟨s.nextId, s.cctx, q, s.ownBytes (l.pa + (x - l.va)) 64, s.cur.g, s.cur.w, s.launchWaits⟩] ∧
      OnlyWaveTlb { s with nextId := s.nextId + 1, disp := { s.disp with launches := t.disp.launches } } t) ∧
    (s.disp.launches = m :: rest → s.bridgeOk (s.group m.group).unit 512 = false →
      (∀ y, y ∈ rest → y.id ≠ m.id) → exec (.launchAcceptance m.id) s = .next s) ∧
    (s.disp.launches.filter (fun y => s.bridgeOk (s.group y.group).unit 512) = m :: rest →
      let refuses (v : Int) : Prop := ∃ t, answers t v ∧ t.disp.kernels = s.disp.kernels ∧ t.disp.queues = s.disp.queues
      ((Q.ctx ≠ some m.ctx ∨ (s.ctx m.ctx).st = .ending) → refuses (-3)) ∧
      (Q.ctx = some m.ctx → (s.ctx m.ctx).st ≠ .ending →
        (s.readLaunch m.ctx m.bytes = none → refuses (-2)) ∧
        (s.readLaunch m.ctx m.bytes = some (p, i) → 1024 ≤ s.queueLen m.queue → refuses (-1)) ∧
        (s.readLaunch m.ctx m.bytes = some (p, i) → s.queueLen m.queue < 1024 →
          (p.concurrent = true ∨ ∀ k, Q.last = some k → (s.kernel k).st ≠ .failed) →
          (p.hasProducer = true → (s.kernel p.producer).st ≠ .failed) →
          ∃ t, answers t (id : Int) ∧ (t.kernel id).ctx = m.ctx ∧ (t.kernel id).queue = m.queue ∧ (t.kernel id).st = .queued ∧
            (t.kernel id).pkt = p ∧ (t.kernel id).img = i ∧ (t.kernel id).waitWrites = m.waitWrites ∧
            (t.kernel id).pred = (if p.concurrent then none else Q.last) ∧
            t.queue m.queue = { Q with count := Q.count + 1, last := some id, cmds := Q.cmds ++ [id] } ∧
            (∀ k, k ≠ id → t.kernel k = s.kernel k) ∧ (∀ k, k ≠ m.queue → t.queue k = s.queue k))))

/-- A queue of which a gang of the head can be placed now (R69, R75). -/
def Eligible (s : State) (q : Nat) : Prop := q < 256 ∧ ∃ k p, s.headOf q = some k ∧ s.placeable k = some p

/-- R75: the queue that a decision serves: one passed over 15 times or more, the most passed first, the lowest number among equals;
else the next in turn of the highest priority. -/
def Serves (s : State) (q : Nat) : Prop :=
  let Q (r : Nat) := s.queue r
  Eligible s q ∧
  ((15 ≤ (Q q).pass ∧ ∀ r, Eligible s r → (Q r).pass < (Q q).pass ∨ (Q r).pass = (Q q).pass ∧ q ≤ r) ∨
   ((∀ r, Eligible s r → (Q r).pass < 15 ∧ (Q r).prio ≤ (Q q).prio) ∧
     let first := match Tbl.get? s.disp.lastServed (Q q).prio with
       | some x => x + 1
       | none => 0
     ∀ r, Eligible s r → (Q r).prio = (Q q).prio →
       (first ≤ q ∧ (r < first ∨ q ≤ r)) ∨ (q < first ∧ r < first ∧ q ≤ r)))

/-- R69, R72, R74, R75, R87, R89, R97, R100, R128, R151, R172: a dispatch decision restores the gang saved earliest of those that can be
placed; where none can, it places the lowest ready gang of the queue served, its groups on consecutive cores, its waves at their start
values. The order and the places of saved gangs are the model's choices (logs 45 and 46), and so is the turn that starts at queue 0 where
no queue of a priority has been served yet (log 74). -/
def ruleGangsArePlaced : Prop :=
  ∀ (s : State) (q k j u : Nat) (b : Nat × Nat × Nat × Nat),
    let K := s.kernel k
    let I := K.newImg.getD K.img
    (s.savedPlaces = [] → (∀ r, ¬ Eligible s r) → ∃ t, exec .dispatchDecision s = .next t ∧ t.groups = s.groups ∧
      t.disp.kernels = s.disp.kernels ∧ SameBytes s t) ∧
    (s.savedPlaces = [] → Serves s q → s.headOf q = some k → s.placeable k = some (k, j, u) → K.queue = q →
      ∃ t, exec .dispatchDecision s = .next t ∧ (t.kernel k).st = (if K.st = .queued then .running else K.st) ∧
        (t.queue q).pass = 0 ∧
        (∀ r, r < 256 → r ≠ q → (Eligible s r → (t.queue r).pass = (s.queue r).pass + 1) ∧
          (s.queueReady r = false → (t.queue r).pass = 0) ∧
          (s.queueReady r = true → ¬ Eligible s r → (t.queue r).pass = (s.queue r).pass)) ∧
        Tbl.get? t.disp.lastServed (s.queue q).prio = some q ∧
        ∀ n lin, (K.gangOf j)[n]? = some lin →
          let G := t.group (s.nextId + n)
          G.kernel = k ∧ G.gang = j ∧ G.inGang = n ∧ G.lin = lin ∧ G.gx = lin % K.pkt.ngx ∧ G.gy = lin / K.pkt.ngx ∧
          G.place = .placed ∧ G.unit = u + n ∧ G.scratchSize = I.scratch ∧ G.scratch = [] ∧ G.waves.map Prod.fst = List.range I.waves ∧
          (∀ w, w < I.waves → (G.bar 0).e = 32 * I.waves ∧ Tbl.getD (G.bar 0).member w 0 = 0xFFFFFFFF ∧
            let W := G.wave w
            W.v = List.replicate I.regs zeroRow ∧ (∀ r, r < 64 → W.s.toList.getD r 0 =
              if r = 1 then BitVec.ofNat 64 (I.base + I.dataOff) else if r = 2 then BitVec.ofNat 64 K.pkt.args else 0) ∧
            (∀ l, l < 32 → W.ctr.toList.getD l 0 = BitVec.ofNat 128 ((32 * (I.waves * lin + w) + l) * 2 ^ 64) ∧
              W.key.toList.getD l 0 = 0) ∧
            (∀ h, W.handle h = .empty) ∧ W.splits.map Prod.fst = [0] ∧
            (W.split 0).pc = BitVec.ofNat 64 (I.base + I.codeOff + 4 * I.entry) ∧ (W.split 0).members = 0xFFFFFFFF ∧
            (W.split 0).exec = 0xFFFFFFFF ∧ (W.split 0).fmt = 0)) ∧
    (b ∈ s.savedPlaces → (∀ y, y ∈ s.savedPlaces → y ≠ b → b.1 < y.1) → (∀ y, y ∈ s.disp.installs → y.complete = true) → ∃ t, exec .dispatchDecision s = .next t ∧
      t.disp.kernels = s.disp.kernels ∧ SameBytes s t ∧
      ∀ n e, (s.gangGroups b.2.1 b.2.2.1)[n]? = some e → (s.groups.map Prod.fst).Nodup →
        (t.group e.1).place = .placed ∧ (t.group e.1).unit = b.2.2.2 + n ∧ (t.group e.1).preempt = .no ∧
        ∀ w, ((t.group e.1).wave w).v = (e.2.wave w).v ∧ ((t.group e.1).wave w).s = (e.2.wave w).s)

/-- R69, R73, R74, R77: where the next gang of a kernel goes. It is the lowest-numbered gang not placed yet whose groups have their
producers done, of a kernel whose other dependences are met and none of whose saved gangs waits; it goes to the lowest die, quad and
core from which it fits into one quad, on dies that the packet allows, in the context's cores. -/
def ruleLowestGangAndPlace : Prop :=
  ∀ (s : State) (k n j u : Nat),
    let K := s.kernel k
    let I := K.newImg.getD K.img
    let ready (i : Nat) : Prop := i ∉ K.beyond ∧ ∀ lin, lin ∈ K.gangOf i → s.boxMet K lin = true
    let size := (K.gangOf j).length
    let fits (v : Nat) : Prop := v / 64 < 8 ∧ v % 64 / 4 < dieCores (v / 64) / 4 ∧ v % 4 + size ≤ 4 ∧
      K.pkt.dies.testBit (v / 64 / 4) = true ∧ v ∈ s.placeCores K.ctx ∧
      ∀ i, i < size → s.coreTakes K.ctx K.pkt.dies (v + i) I.regs I.scratch ((s.ctx K.ctx).det || I.det) (List.range I.waves) = true
    0 < K.pkt.gang →
    (s.placeable k = some (n, j, u) ↔
      n = k ∧ K.noGroups = false ∧ s.wholeMet K = true ∧ s.startMet K = true ∧ s.savedWaits k = false ∧
      K.nextGang ≤ j ∧ j < K.gangs ∧ ready j ∧ (∀ i, K.nextGang ≤ i → i < j → ¬ ready i) ∧ fits u ∧ ∀ v, v < u → ¬ fits v)

/-- R68-R76, R82: packets are queued, and gangs are placed. -/
def Obligations.KernelsAreLaunchedAndPlaced : Prop := ruleKernelsAreLaunched ∧ ruleGangsArePlaced ∧ ruleLowestGangAndPlace

/-- R61, R67, R78, R79, R83-R87, R273: bitmap bits, completion, failure and its spread, EXIT.K, HALT, pre-emption and the end of a
context. The model's choices: an event settles the work in flight at a save (log 22); the end of a context deletes its kernels and
bindings (log 23); the completion bit does not wait for commands in the MX queue (log 44), and a group that failed, or that
END_HALTED_GROUP ended, sets none (log 81); an armed dependant of a failed kernel is failing at once (log 77). -/
def Obligations.KernelsEnd : Prop :=
  ∀ (s : State) (g k c : Nat) (a : Fin 64) (e : Fin 256),
    let G := s.group g
    let K := s.kernel k
    let x := (s.rdS a.val).toNat
    (G.isEnded = true → G.failed = false → G.bit = false → (s.kernel G.kernel).tracked = true →
      (∀ w, w ∈ s.memory.writes → w.group = g → w.engine = true ∨ w.performedAt 4 = true) →
      ∃ t, exec (.groupBitmapSet g) s = .next t ∧ t.group g = { G with bit := true } ∧
        t.kernel G.kernel = { s.kernel G.kernel with bits := (s.kernel G.kernel).bits ++ [G.lin] } ∧
        (∀ h, h ≠ g → t.group h = s.group h) ∧ SameBytes s t) ∧
    (K.st = .retiring → s.kernelQuiet k = true → s.disp.installs = [] → ∃ t, exec (.kernelComplete k) s = .next t ∧
      (∃ n, t.kernel k = { K with st := .complete, poolBytes := n, mbx := [] }) ∧ t.groups = s.groups ∧ SameBytes s t) ∧
    (K.st = .retiring → s.kernelQuiet k = false → exec (.kernelComplete k) s = .next s) ∧
    (K.st = .failing → (∀ y, y ∈ s.groupsOf k → y.2.isEnded = true) → s.enginesIdle k = true → s.disp.installs = [] →
      ∃ t, exec (.kernelFailed k) s = .next t ∧ (t.kernel k).st = .failed ∧ (t.kernel k).code = K.code ∧ (t.kernel k).mbx = [] ∧
        ∀ n N, n ≠ k → Tbl.get? s.disp.kernels n = some N → N.st.canFail = true →
          (N.pred = some k ∨ N.pkt.hasProducer = true ∧ N.pkt.producer = k ∧ N.prodDone = false) →
          (t.kernel n).st = .failing ∧ (t.kernel n).code = K.code ∧ (t.kernel n).noGroups = true) ∧
    ((s.ctx s.cctx).priv = false → exec (.exitK a e) s = .next (s.raise cProt) ∧ exec .halt s = .next (s.raise cProt)) ∧
    ((s.ctx s.cctx).priv = true → Tbl.has s.disp.kernels x = true → (s.kernel x).st.canFail = true →
      ∃ t, exec (.exitK a e) s = .next t ∧ (t.kernel x).st = .failing ∧ (t.kernel x).code = e.val ∧ (t.kernel x).noGroups = true ∧
        ∀ h H, Tbl.get? s.groups h = some H → H.kernel = x → H.place ≠ .ended → (t.group h).place = .ended ∧ (t.group h).failed = true) ∧
    ((s.ctx s.cctx).priv = true → Tbl.has s.disp.kernels x = false → ∃ t, exec (.exitK a e) s = .next t ∧ Issued s t ∧ RegsStill s t ∧
      t.cw.region.isOpen = false ∧ t.disp = s.disp ∧ OnlyWave s t) ∧
    ((s.ctx s.cctx).priv = true → ∃ t, exec .halt s = .next t ∧ Issued s t ∧ RegsStill s t ∧ t.cg.halted = true ∧
      t.cw.region.isOpen = false ∧
      (∀ h H, Tbl.get? s.groups h = some H → H.kernel = s.cg.kernel → H.gang = s.cg.gang → H.place = .placed →
        (t.group h).preempt = .now) ∧
      (∀ h H, Tbl.get? s.groups h = some H → (H.kernel ≠ s.cg.kernel ∨ H.gang ≠ s.cg.gang) → h ≠ s.cur.g → t.group h = H) ∧
      ∃ n l, t.lamp.mgmtRing = l ++ [⟨s.time.lo, 0x81, s.cu, n⟩]) ∧
    (G.place = .placed → G.preempt = .now → s.settled g = true → ∃ t, exec (.preemptionPoint g) s = .next t ∧
      (∃ ws, t.group g = { G with place := .saved, preempt := .no, savedOrder := s.nextId, waves := ws } ∧
        ws = Tbl.mapVals G.waves fun w => { w with
          inflight := []
          splits := Tbl.mapVals w.splits fun p => if p.block.isPage then { p with block := .none } else p }) ∧
      (t.core G.unit).mxHolder.map Prod.fst ≠ some g ∧ (t.core G.unit).actHolder ≠ some g ∧ (t.core G.unit).tapHolder ≠ some g ∧
      (∀ h, h ≠ g → t.group h = s.group h) ∧ SameBytes s t) ∧
    ((s.ctx c).st = .ending → s.ctxQuiet c = true → ∃ t, exec (.contextFree c) s = .next t ∧ Tbl.get? t.ctxs c = none ∧
      (∀ n Q, (n, Q) ∈ t.disp.queues → Q.ctx ≠ some c) ∧ (∀ n N, (n, N) ∈ t.disp.kernels → N.ctx ≠ c) ∧
      (∀ n, n ≠ c → Tbl.get? t.ctxs n = Tbl.get? s.ctxs n) ∧
      ∀ h w l d, ((t.split h w l).block ≠ .ctxEnd d c)) ∧
    ((s.ctx c).st = .ending → s.ctxQuiet c = false → exec (.contextFree c) s = .next s)
/-! ## Contexts, fault queue, snapshots, notices -/

/-- A scalar is written before the split's next instruction issues (R66): it reads so from now on, and no other register differs. -/
def FinalS (s t : State) (d : Nat) (v : DWord) : Prop :=
  (∀ c, t.regAt c (.s d) = if d = 0 then 0 else v) ∧ ∀ c r, r ≠ .s d → t.regAt c r = s.regAt c r

/-- An instruction completes with a final scalar and closes the region; of its wave nothing else differs. -/
def EndsFinal (s t : State) (d : Nat) (v : DWord) : Prop :=
  FinalS s t d v ∧ Issued s t ∧ t.cw.region.isOpen = false ∧
  { t.cw with s := s.cw.s, inflight := s.cw.inflight, nextIssue := s.cw.nextIssue, splits := s.cw.splits, region := s.cw.region } = s.cw

/-- The 64 bytes of a context descriptor (R59). -/
def contextBytes (root tenant flags pen queues trap notices : Nat) : List Byte :=
  natLE 8 root ++ natLE 2 tenant ++ natLE 1 flags ++ [0] ++ natLE 2 pen ++ [0, 0] ++ natLE 32 queues ++ natLE 8 trap ++ natLE 8 notices

/-- R59, R61, R62, R66: CTX.NEW, CTX.SW and CTX.END, and the rights they ask for. The descriptor of CTX.NEW is read at the home, with the
wave's own stores (log 38), and a root with a bit of [15:0] or [63:52] set counts as malformed (log 80): the model's choices. -/
def Obligations.ContextsAreRun : Prop :=
  ∀ (s : State) (d a : Fin 64) (x : Fin 8) (c v root tenant flags pen queues trap notices : Nat) (l : Leaf),
    let p := (s.rdS a.val).toNat
    let b := contextBytes root tenant flags pen queues trap notices
    let priv := (s.ctx s.cctx).priv = true
    let states (i : Instr) (v : Int) : Prop := ∃ t, exec i s = .next t ∧ EndsFinal s t d.val (BitVec.ofInt 64 v) ∧ OnlyWave s t
    (¬ priv → ∀ i, i ∈ [Instr.ctxNew d a, .ctxSw d a x, .ctxEnd d a, .fqDone d a x, .tlbinv d a a x] →
      exec i s = .next (s.raise cProt)) ∧
    (priv → p % 64 ≠ 0 → exec (.ctxNew d a) s = .next (s.raise cAlign 0 p)) ∧
    (priv → p % 64 = 0 → s.rdVa s.cur.g p 64 .read = .ok v l → s.ownBytes (l.pa + (p - l.va)) 64 = b →
      ((∀ n, n < 64 → (s.ctx n).st ≠ .free) → ∃ t, exec (.ctxNew d a) s = .next t ∧ EndsFinal s t d.val (-1) ∧ t.ctxs = s.ctxs) ∧
      (c < 64 → (s.ctx c).st = .free → (∀ n, n < c → (s.ctx n).st ≠ .free) →
        let ok := root % 65536 = 0 ∧ root < 2 ^ 52 ∧ root / 2 ^ 48 ≠ 8 ∧ tenant ≠ 0 ∧ flags < 8 ∧ pen ≠ 0xFFFF ∧ notices % 4096 = 0 ∧
          ∀ q, q < 256 → queues.testBit q = true → (s.queue q).ctx = none
        root < 2 ^ 64 → tenant < 2 ^ 16 → flags < 2 ^ 8 → pen < 2 ^ 16 → queues < 2 ^ 256 → trap < 2 ^ 64 → notices < 2 ^ 64 →
        (ok → ∃ t, exec (.ctxNew d a) s = .next t ∧ EndsFinal s t d.val (BitVec.ofNat 64 c) ∧
          t.ctx c = { st := .live, root := root, tenant := tenant, det := flags % 2 = 1, priv := flags / 2 % 2 = 1
                      diag := flags / 4 % 2 = 1, penmax := if pen = 0 then 64 else pen, queues := queues, trap := trap
                      notices := notices } ∧
          (∀ n, n ≠ c → t.ctx n = s.ctx n) ∧ ∀ q, q < 256 → (t.queue q).ctx =
            if queues.testBit q then some c else (s.queue q).ctx) ∧
        (¬ ok → ∃ t, exec (.ctxNew d a) s = .next t ∧ EndsFinal s t d.val (-2) ∧ t.ctxs = s.ctxs ∧ t.disp = s.disp))) ∧
    (priv → ∀ i, i ∈ [Instr.ctxSw d a x, .ctxEnd d a] →
      (63 < p → states i (-3)) ∧ (p < 64 → p = s.cctx → states i (-4)) ∧
      (p < 64 → p ≠ s.cctx → (s.ctx p).st = .free → states i (-5))) ∧
    (priv → p < 64 → p ≠ s.cctx →
      ((s.ctx p).st = .ending → states (.ctxSw d a x) 3) ∧
      ((s.ctx p).st = .suspended → x.val = 0 → states (.ctxSw d a x) 2) ∧
      ((s.ctx p).st = .live → x.val ≠ 0 → states (.ctxSw d a x) 1) ∧
      ((s.ctx p).st = .live → x.val = 0 → ∃ t, exec (.ctxSw d a x) s = .next t ∧ EndsFinal s t d.val 1 ∧ (t.ctx p).st = .suspended ∧
        ∀ g G, Tbl.get? s.groups g = some G → G.place = .placed → (s.kernel G.kernel).ctx = p → (t.group g).preempt = .now) ∧
      ((s.ctx p).st = .suspended → x.val ≠ 0 → ∃ t, exec (.ctxSw d a x) s = .next t ∧ EndsFinal s t d.val 2 ∧ (t.ctx p).st = .live) ∧
      ((s.ctx p).st = .live ∨ (s.ctx p).st = .suspended → ∃ t, exec (.ctxEnd d a) s = .next t ∧ (t.ctx p).st = .ending ∧ (t.ctx p).fq = [] ∧
        (t.ctx p).endPrev = (if (s.ctx p).st = .live then 1 else 2) ∧
        (∃ v, v ∈ t.invals ∧ (t.ctx p).inval = some v.id ∧ v.ctx = some p ∧ v.va = none ∧ v.dies = List.range 8) ∧
        (∀ n q, q ∈ (t.die n).tlb → n < 8 → q.ctx ≠ p) ∧
        (∀ k K, Tbl.get? s.disp.kernels k = some K → K.ctx = p → K.st.canFail = true → (t.kernel k).st = .failing) ∧
        ∀ g G, Tbl.get? s.groups g = some G → (∃ K, Tbl.get? s.disp.kernels G.kernel = some K ∧ K.ctx = p) →
          (t.group g).place = .ended))

/-- R126, R264-R267, R300-R302: FQ.POP takes the oldest entry; FQ.DONE closes a popped one once the wave's earlier writes are performed
at module scope, and its waiter goes on, or with x = 1 its kernel fails with EXHAUSTED; CAPRD, NOTE.GET and NOTE.CNT. That NOTE.GET, and
NOTE.CNT with x = 1, close the region rests on R123 (log 57). -/
def ruleFaultQueueAndNotices : Prop :=
  ∀ (s : State) (d a : Fin 64) (x : Fin 8) (slot : Nat) (e : FqEntry) (h v l : Nat),
    let p := (s.rdS a.val).toNat
    let priv := (s.ctx s.cctx).priv = true
    let C := s.ctx s.cctx
    let queues (i : Instr) (out : List (Nat × Nat)) (closed : Bool) (t : State) : Prop := exec i s = .next t ∧
      Queued s t { id := s.nextId, kind := .vals, counter := .smc, sregs := out.map Prod.fst
                   region := if closed then 0 else s.regionNow
                   out := out.map fun o => (.s o.1, BitVec.ofNat 64 o.2) } ∧
      (if closed then WaveQueuesClosed s t else WaveQueues s t)
    let four (w : List Nat) : List (Nat × Nat) := (List.range 4).map fun i => (d.val + i, w.getD i 0)
    (d.val = 0 ∨ d.val % 4 ≠ 0 → exec (.fqPop d a) s = .next (s.raise cIllegal)) ∧
    (d.val ≠ 0 → d.val % 4 = 0 → ¬ priv → exec (.fqPop d a) s = .next (s.raise cProt)) ∧
    (d.val ≠ 0 → d.val % 4 = 0 → priv →
      (63 < p ∨ (s.ctx p).st = .free → ∃ t, queues (.fqPop d a) (four [0, 0, 0xFF, 0]) true t ∧ OnlyWave { s with nextId := s.nextId + 1 } t) ∧
      (p < 64 → (s.ctx p).st ≠ .free → (∀ y, y ∈ (s.ctx p).fq → y.2.popped = true) →
        ∃ t, queues (.fqPop d a) (four [0, 0, 0, 0]) true t ∧ OnlyWave { s with nextId := s.nextId + 1 } t) ∧
      (p < 64 → (s.ctx p).st ≠ .free → (slot, e) ∈ (s.ctx p).fq → e.popped = false →
        (∀ y, y ∈ (s.ctx p).fq → y.2.popped = false → y ≠ (slot, e) → e.order < y.2.order) →
        ∃ t, queues (.fqPop d a) (four [e.page, e.kernel,
            e.kind + 256 * 4 + 65536 * (if e.kind = 4 then 0xFF else e.level) + (if e.malformed then 2 ^ 24 else 0) + 2 ^ 32 * e.count,
            p + 256 * slot + 65536 * e.unit]) true t ∧
          t.ctx p = { s.ctx p with fq := Tbl.set (s.ctx p).fq slot { e with popped := true } } ∧
          OnlyWave { s with nextId := s.nextId + 1, ctxs := t.ctxs } t)) ∧
    (let c := p % 256
     let k := p / 256 % 256
     let Y := s.ctx c
     priv → NoneWaits s s.cur.g s.cur.w →
      (63 < c ∨ Y.st = .free → ∃ t, exec (.fqDone d a x) s = .next t ∧ EndsFinal s t d.val (-3) ∧ OnlyWave s t) ∧
      (c < 64 → Y.st ≠ .free → (∀ y, Tbl.get? Y.fq k = some y → y.popped = false) →
        ∃ t, exec (.fqDone d a x) s = .next t ∧ EndsFinal s t d.val (-1) ∧ OnlyWave s t) ∧
      (c < 64 → Y.st ≠ .free → Tbl.get? Y.fq k = some e → e.popped = true →
        (s.opsDone s.cur.g s.cur.w s.nextId = false → ∃ t, exec (.fqDone d a x) s = .next t ∧
          IssuedBlocked s t (.fqDone d.val (p % 65536) (x.val == 1) s.nextId) ∧ RegsStill s t ∧ t.ctxs = s.ctxs) ∧
        (s.opsDone s.cur.g s.cur.w s.nextId = true → e.waiters = [.split h v l] → (h, v, l) ≠ (s.cur.g, s.cur.w, s.cur.sl) →
          (x.val ≠ 1 → ∃ t, exec (.fqDone d a x) s = .next t ∧ FinalS s t d.val 0 ∧ t.csp = { s.csp.past s.cur.len with block := .none } ∧
            Tbl.get? (t.ctx c).fq k = none ∧ (t.split h v l).block = .none) ∧
          (x.val = 1 → Tbl.has s.disp.kernels (s.group h).kernel = true → (s.kernel (s.group h).kernel).st.canFail = true →
            ∃ t, exec (.fqDone d a x) s = .next t ∧ Tbl.get? (t.ctx c).fq k = none ∧
              (t.kernel (s.group h).kernel).st = .failing ∧ (t.kernel (s.group h).kernel).code = 0x11 ∧ (t.group h).place = .ended)))) ∧
    (∃ t, queues (.caprd d a x) [(d.val, s.capacity s.cctx p x.val)] false t ∧ OnlyWave { s with nextId := s.nextId + 1 } t) ∧
    (p < 8 → ∀ i, i < 64 →
      (s.capacity s.cctx p 0).testBit i = ((s.partition s.cctx).contains (64 * p + i) && (s.unit (64 * p + i)).inService) ∧
      (s.capacity s.cctx p 1).testBit i = ((s.partition s.cctx).contains (64 * p + i) && (s.unit (64 * p + i)).leased) ∧
      (s.capacity s.cctx p 2).testBit i = ((s.partition s.cctx).contains (64 * p + i) && (s.unit (64 * p + i)).st == .retired)) ∧
    (∀ i, (s.capacity s.cctx p 3).testBit i = (decide (i < 36) && s.laneGroupUp i)) ∧
    (let names : Prop := isUnit p = true ∨ (0x200 ≤ p ∧ p < 0x224) ∨ (0x400 ≤ p ∧ p < 0x600) ∨ (0x600 ≤ p ∧ p < 0x620)
     (names → s.capacity s.cctx p 4 = (s.unit p).score + (if (s.unit p).st = .retired then 2 ^ 16 else 0) +
       (if (s.unit p).leased then 2 ^ 17 else 0)) ∧
     (¬ names → s.capacity s.cctx p 4 = 2 ^ 64 - 1)) ∧
    (d.val = 0 ∨ d.val % 2 = 1 → exec (.noteGet d) s = .next (s.raise cIllegal)) ∧
    (d.val ≠ 0 → d.val % 2 = 0 → ∃ t, exec (.noteGet d) s = .next t ∧
      Queued s t { id := s.nextId, kind := .noteGet d.val, counter := .smc, sregs := [d.val, d.val + 1] } ∧ WaveQueuesClosed s t ∧
      OnlyWave { s with nextId := s.nextId + 1 } t) ∧
    (x.val ≠ 1 → ∃ t, queues (.noteCnt d x) [(d.val, C.lost + 2 ^ 32 * C.unread)] false t ∧ OnlyWave { s with nextId := s.nextId + 1 } t) ∧
    (x.val = 1 → ∃ t, queues (.noteCnt d x) [(d.val, C.lost + 2 ^ 32 * C.unread)] true t ∧ t.ctx s.cctx = { C with lost := 0 } ∧
      OnlyWave { s with nextId := s.nextId + 1, ctxs := t.ctxs } t)
/-- R96, R261, R268-R270, R278: TLBINV drops the translations it names on every die at once and waits until every die has settled the
accesses it had under way; a die that enters reset counts as settled, and one that stays silent for 100 µs is fenced. SNAP asks the
homes of the context's writable frames, which accept while their lo is below T, and freeze at T; the answer of another module's home
comes with the number, or with the number and 4 where it refuses. -/
def rulePagesAndSnapshots : Prop :=
  ∀ (s : State) (d a b : Fin 64) (x : Fin 8) (c id sn die frame : Nat) (v : Inval) (n : Snapshot),
    let A := (s.rdS a.val).toNat
    let B := (s.rdS b.val).toNat
    let wave := s.opsDone s.cur.g s.cur.w s.nextId
    let named (l : Leaf) : Prop := (x.val < 2 → l.ctx = A) ∧ (x.val = 0 → l.va ≤ B ∧ B < l.va + l.size)
    let settles (t : State) (op : Nat) (status : DWord) : Prop := ∀ g w l r, (s.split g w l).block = .tlbinv r op → r < 64 →
      (t.split g w l).block = .none ∧ (r ≠ 0 → (t.wave g w).s.toList.getD r 0 = status)
    let unasked := n.asked.filter fun f => f.1 != frame
    let answers (t : State) (y : DWord) : Prop := ∀ g w l r q z, n.issuer = some (g, w, l, r) → (s.split g w l).block = .snap q z →
      r < 64 → r ≠ 0 → (t.split g w l).block = .none ∧ (t.wave g w).s.toList.getD r 0 = y
    ((s.ctx s.cctx).priv = true → NoneWaits s s.cur.g s.cur.w →
      (x.val < 2 → 63 < A ∨ (s.ctx A).st = .free →
        ∃ t, exec (.tlbinv d a b x) s = .next t ∧ EndsFinal s t d.val (-3) ∧ OnlyWave s t) ∧
      (2 ≤ x.val ∨ A < 64 ∧ (s.ctx A).st ≠ .free →
        (wave = true → ∃ t y, exec (.tlbinv d a b x) s = .next t ∧ IssuedBlocked s t (.tlbinv d.val s.nextId) ∧ RegsStill s t ∧
          t.invals = s.invals ++ [y] ∧ y.id = s.nextId ∧ y.dies = List.range 8 ∧ y.forced = false ∧ y.since = s.now ∧
          y.ctx = (if x.val < 2 then some A else none) ∧ y.va = (if x.val = 0 then some B else none) ∧
          (∀ k l, k < 8 → (l ∈ (t.die k).tlb ↔ l ∈ (s.die k).tlb ∧ ¬ named l)) ∧ SameBytes s t) ∧
        (wave = false → ∃ t, exec (.tlbinv d a b x) s = .next t ∧
          IssuedBlocked s t (.tlbSend d.val A B x.val s.nextId) ∧ RegsStill s t ∧ t.dies = s.dies ∧ t.invals = s.invals))) ∧
    (s.invals = [v] → v.id = id → die ∈ v.dies →
      (s.accessesDone v die = false → exec (.invalidationAcknowledgement id die) s = .next s) ∧
      (s.accessesDone v die = true → (∃ k, k ∈ v.dies ∧ k ≠ die) → exec (.invalidationAcknowledgement id die) s = .next { s with
        invals := [{ v with dies := v.dies.filter fun k => k != die }] }) ∧
      (s.accessesDone v die = true → (∀ k, k ∈ v.dies → k = die) → ∃ t, exec (.invalidationAcknowledgement id die) s = .next t ∧
        t.invals = [] ∧ settles t id (if v.forced then 1 else 0))) ∧
    (die < 8 → (s.invals.map Inval.id).Nodup → (∀ g w, NoneWaits s g w) → ∃ t, exec (.resetEntryMessage die) s = .next t ∧ (t.die die).tlb = [] ∧
      (∀ k, k ≠ die → t.die k = s.die k) ∧ (∀ y, y ∈ t.invals → die ∉ y.dies) ∧
      (∀ y, y ∈ s.invals → die ∉ y.dies → y ∈ t.invals) ∧
      ∀ y k, y ∈ s.invals → die ∈ y.dies → k ∈ y.dies → k ≠ die →
        { y with dies := y.dies.filter fun k => k != die, forced := true } ∈ t.invals) ∧
    (s.invals = [v] → die ∈ v.dies →
      (s.passed v.since 100000 = true → (s.die die).fenced = false → ∃ t, exec (.dieFence die) s = .next t ∧
        t.die die = { s.die die with fenced := true } ∧
        t.lamp = { s.lamp with mgmtRing := s.lamp.mgmtRing ++ [⟨s.time.lo, 0x84, 0xFF00 + die, die⟩] } ∧
        ∀ y, y ∈ t.invals → y = { v with dies := v.dies.filter fun k => k != die, forced := true }) ∧
      (s.passed v.since 100000 = false → exec (.dieFence die) s = .next s)) ∧
    ((A ≤ s.time.hi + 20000 ∨ s.time.hi + 1000000000 < A) →
      ∃ t, exec (.snap d a) s = .next t ∧ EndsFinal s t d.val (-2) ∧ OnlyWave s t) ∧
    (s.time.hi + 20000 < A → A ≤ s.time.hi + 1000000000 →
      ((∀ k, k < 4 → Tbl.has (s.ctx s.cctx).snaps k = true) →
        ∃ t, exec (.snap d a) s = .next t ∧ EndsFinal s t d.val (-1) ∧ OnlyWave s t) ∧
      (id < 4 → Tbl.has (s.ctx s.cctx).snaps id = false → (∀ k, k < id → Tbl.has (s.ctx s.cctx).snaps k = true) →
        let fs := s.writableFrames s.cctx
        (fs = [] → ∃ t, exec (.snap d a) s = .next t ∧ EndsFinal s t d.val (BitVec.ofNat 64 id) ∧
          Tbl.get? (t.ctx s.cctx).snaps id = some { t := A, frames := [], complete := true }) ∧
        (fs ≠ [] → ∃ t, exec (.snap d a) s = .next t ∧ IssuedBlocked s t (.snap d.val id) ∧ RegsStill s t ∧
          t.cw.region.isOpen = false ∧ Tbl.get? (t.ctx s.cctx).snaps id = some
            { t := A, frames := fs, asked := fs, issuer := some (s.cur.g, s.cur.w, s.cur.sl, d.val) }))) ∧
    (Tbl.get? (s.ctx c).snaps id = some n →
      ((if remoteHome (homeOf frame) = true then sn % 4 = id else sn = id) → (∃ f, f ∈ n.asked ∧ f.1 = frame) →
        s.askReaches c id frame n = true →
        let no : Bool := if remoteHome (homeOf frame) then decide (4 ≤ sn) else decide (n.t ≤ s.time.lo)
        (unasked ≠ [] → ∃ t, exec (.snapshotRequest c sn frame) s = .next t ∧
          Tbl.get? (t.ctx c).snaps id = some { n with asked := unasked, refused := n.refused || no } ∧
          { t with ctxs := s.ctxs } = s) ∧
        (unasked = [] → (n.refused = true ∨ no = true) → ∃ t, exec (.snapshotRequest c sn frame) s = .next t ∧
          Tbl.get? (t.ctx c).snaps id = none ∧ answers t (-4)) ∧
        (unasked = [] → n.refused = false → no = false → ∃ t, exec (.snapshotRequest c sn frame) s = .next t ∧
          Tbl.get? (t.ctx c).snaps id = some { n with asked := [], complete := true, issuer := none } ∧
          answers t (BitVec.ofNat 64 id))) ∧
      ((if remoteHome (homeOf frame) = true then sn % 4 = id else sn = id) →
        ((∀ f, f ∈ n.asked → f.1 ≠ frame) ∨ s.askReaches c id frame n = false) → exec (.snapshotRequest c sn frame) s = .next s) ∧
      (n.t ≤ s.time.lo → ∃ t y, exec (.snapshotFreeze c id) s = .next t ∧ Tbl.get? (t.ctx c).snaps id = some { n with frozen := y } ∧
        (∀ f, f ∈ y ↔ n.refused = false ∧ ∃ z, (f, z) ∈ n.frames ∧ ∀ q, q ∈ n.asked → q.1 ≠ f) ∧ { t with ctxs := s.ctxs } = s) ∧
      (s.time.lo < n.t → exec (.snapshotFreeze c id) s = .next s))

/-- The lowest bit and the width of the index of a walk's level, the root's first (R258). -/
def walkIndex (n : Nat) : Nat × Nat := [(51, 13), (39, 12), (30, 9), (21, 9), (16, 5)].getD n (0, 0)

/-- The alignment of the table that an entry of a level names, and the size of the page that a leaf there maps (R258); 0: none. -/
def tableSize (n : Nat) : Nat := [32768, 4096, 4096, 256, 0].getD n 0
def leafSize (n : Nat) : Nat := [0, 0, 2 ^ 30, 2 ^ 21, 2 ^ 16].getD n 0

/-- The address field of a table entry (R259). -/
def entryAddress (e : Nat) : Nat := e / 2 ^ 8 % 2 ^ 44 * 2 ^ 8

/-- A valid entry is malformed (R259, R262): a reserved bit, a leaf or a table where none may stand, an address that is misaligned, in
the wrong memory or, of a table, a pod address. -/
def Malformed (n e : Nat) : Prop :=
  let a := entryAddress e
  let local' : Option Nat := if a < 0x12000000000 then some a else (podModule a).map fun _ => a % 2 ^ 41
  e / 2 ^ 52 ≠ 0 ∨
  (e / 2 % 2 = 1 ∧ (leafSize n = 0 ∨ a % leafSize n ≠ 0 ∨
    ¬ ∃ x, local' = some x ∧ (e / 2 ^ 6 % 4 = 0 ∧ x < 2 ^ 40 ∨ e / 2 ^ 6 % 4 = 1 ∧ 2 ^ 40 ≤ x))) ∨
  (e / 2 % 2 = 0 ∧ (n = 4 ∨ e / 2 ^ 2 % 2 ^ 6 ≠ 0 ∨ a % tableSize n ≠ 0 ∨ a / 2 ^ 48 = 8))

/-- A walk of an address comes to the entry at `a` of its level `n` below the root (R258). -/
def WalkComesTo (s : State) (c va : Nat) : Nat → Nat → Prop
  | 0, a => a = (s.ctx c).root + 8 * (va / 2 ^ 51 % 2 ^ 13)
  | n + 1, a => ∃ b, WalkComesTo s c va n b ∧
      let e := leNat (s.bytesAt b 8)
      s.linePoisoned (lineOf b) = false ∧ e % 2 = 1 ∧ e / 2 % 2 = 0 ∧ ¬ Malformed n e ∧
      a = entryAddress e + 8 * (va / 2 ^ (walkIndex (n + 1)).1 % 2 ^ (walkIndex (n + 1)).2)

/-- R258-R260, R262: the walk of an address, level by level: a leaf maps the page with its four rights; an entry that is invalid, or one that
is malformed or whose line is poisoned, raises PAGE with its level. An access without the right of its leaf raises PROT. -/
def ruleTableWalk : Prop :=
  ∀ (s : State) (c va n a d : Nat) (acc : Acc), n < 5 → WalkComesTo s c va n a →
    let e := leNat (s.bytesAt a 8)
    let poisoned := s.linePoisoned (lineOf a) = true
    let leaf : Leaf := ⟨c, va / leafSize n * leafSize n, leafSize n, s.norm (entryAddress e), e.testBit 2, e.testBit 3, e.testBit 4,
      e.testBit 5⟩
    let rights : Prop := match acc with
      | .read => e.testBit 2 = true
      | .write => e.testBit 3 = true
      | .readWrite => e.testBit 2 = true ∧ e.testBit 3 = true
      | .fetch => e.testBit 4 = true
    let reached : Prop := (s.die d).tlb = [] ∧ s.walkOk d c va = true
    ((poisoned ∨ e % 2 = 1 ∧ Malformed n e) → s.walk c va = .page (4 - n) true) ∧
    (¬ poisoned → e % 2 = 0 → s.walk c va = .page (4 - n) false) ∧
    (¬ poisoned → e % 2 = 1 → ¬ Malformed n e → e / 2 % 2 = 1 → s.walk c va = .leaf leaf ∧
      (reached → rights → s.xlate d c va acc = .ok (leaf.pa + va % leafSize n) leaf) ∧
      (reached → ¬ rights → s.xlate d c va acc = .prot va)) ∧
    (reached → poisoned ∨ e % 2 = 1 ∧ Malformed n e → s.xlate d c va acc = .page va (4 - n) true) ∧
    (reached → ¬ poisoned → e % 2 = 0 → s.xlate d c va acc = .page va (4 - n) false)

/-- R263, R264, R272: a fault whose page and kind match an entry joins it, and its count rises; another takes the lowest free slot; with
256 in use it takes none. The instruction blocks before it has executed, and the wave's other splits go on; in trap mode PAGE is DOUBLE
(R118). -/
def rulePageFaultsQueue : Prop :=
  ∀ (s : State) (c va kind level kernel unit k : Nat) (malformed : Bool) (w : Waiter) (e : FqEntry) (v : Fin 128) (ad : Addr) (q : Fin 4)
    (ls : List Leaf),
    let x := s.ctx c
    let page := va / 65536 * 65536
    let r := s.fqRaise c va kind level malformed kernel unit w
    let same (y : FqEntry) : Prop := y.page = page ∧ y.kind = kind
    let only (t : State) : Prop := (∀ d, d ≠ c → t.ctx d = s.ctx d) ∧ { t with ctxs := s.ctxs } = s
    ((k, e) ∈ x.fq → same e → (∀ y, y ∈ x.fq → same y.2 → y = (k, e)) → r.2 = some k ∧ only r.1 ∧ r.1.ctx c = { x with
      fq := Tbl.set x.fq k { e with count := min (e.count + 1) (2 ^ 32 - 1), waiters := e.waiters ++ [w] } }) ∧
    ((∀ y, y ∈ x.fq → ¬ same y.2) → k < 256 → Tbl.has x.fq k = false → (∀ j, j < k → Tbl.has x.fq j = true) →
      r.2 = some k ∧ only r.1 ∧ Tbl.get? (r.1.ctx c).fq k = some
        { popped := false, page := page, kind := kind, level := level, malformed := malformed, kernel := kernel, unit := unit
          count := 1, order := x.fqOrder, waiters := [w] } ∧
      ∀ j, j ≠ k → Tbl.get? (r.1.ctx c).fq j = Tbl.get? x.fq j) ∧
    ((∀ y, y ∈ x.fq → ¬ same y.2) → (∀ j, j < 256 → Tbl.has x.fq j = true) → r = (s, none)) ∧
    (let n := 4 * 2 ^ q.val
     (s.memCheck false false n n .read anyLeaf (s.laneAddrs ad) = .page va kind level malformed ls →
       exec (.ldg v ad q) s = .next ((s.keepAll ls).pageWait va kind level malformed)) ∧
     (s.memCheck false true n n .write (s.stgOk (wholeLines (s.lanePas (s.laneAddrs ad)) n)) (s.laneAddrs ad) =
         .page va kind level malformed ls →
       exec (.stg v ad q) s = .next ((s.keepAll ls).pageWait va kind level malformed))) ∧
    (s.csp.mode = .trap → s.pageWait va kind level malformed = s.endGroup s.cur.g cDouble cPage) ∧
    (s.csp.mode ≠ .trap → s.memory.errs = [] →
      let t := s.pageWait va kind level malformed
      let f := s.fqRaise s.cctx va kind level malformed s.cg.kernel s.cu (.split s.cur.g s.cur.w s.cur.sl)
      t.ctxs = f.1.ctxs ∧ t.csp = { s.csp with
        block := match f.2 with
          | some k => .page s.cctx k
          | none => .pageFull
        readySince := none } ∧
      OtherSplits s t ∧ { t.cw with splits := s.cw.splits } = s.cw ∧ SameBytes s t)

/-- R258-R272, R302: table walks and page faults, fault queues and notices, invalidation and snapshots. -/
def Obligations.FaultQueuesPagesAndSnapshots : Prop :=
  ruleFaultQueueAndNotices ∧ rulePagesAndSnapshots ∧ ruleTableWalk ∧ rulePageFaultsQueue

/-! ## Leases, monitors, heat -/

/-- The bin of a sample (R303). -/
def InBin (b v : Nat) : Prop :=
  (b = 0 ∧ v = 0) ∨ (0 < b ∧ b < 15 ∧ 2 ^ (b - 1) ≤ v ∧ v < 2 ^ b) ∨ (b = 15 ∧ 2 ^ 14 ≤ v)

/-- R290-R299: a lease starts only within the limits; a core is withdrawn, its groups pre-empted, and tested once it stands empty; a test
passed returns the unit with its score halved, a first failure repeats the test, a second retires the unit with a snuff record; lane
groups and channels. -/
def ruleLeases : Prop :=
  ∀ (s : State) (u v pattern : Nat),
    let x := s.unit u
    let core := isUnit u = true
    let channel := 0x400 ≤ u ∧ u < 0x600
    let lane := 0x200 ≤ u ∧ u < 0x224
    let k := (u - 0x200) / 2
    let testing := (x.st = .testing ∨ x.st = .retesting) ∧ x.copying = 0
    let event (t : State) : Prop := t.lamp.gen = s.lamp.gen + 1
    let raised := min (x.score + 4096) 0xFFFF
    let fails (i : Instr) (p : Nat) : Prop :=
      (x.st = .testing → ∃ t, exec i s = .next t ∧ (t.unit u).st = .retesting ∧ (t.unit u).score = raised ∧ (t.unit u).firstBad = p ∧
        (t.unit u).since = s.now ∧ t.flash = s.flash ∧ t.lamp.gen = s.lamp.gen) ∧
      (x.st = .retesting → ∃ t r, exec i s = .next t ∧ (t.unit u).st = .retired ∧ event t ∧
        t.lamp.retirements = s.lamp.retirements + 1 ∧ t.flash.snuffs = s.flash.snuffs ++ [r] ∧ r.unit = u ∧ r.cause = 1 ∧
        r.score = raised ∧ r.first = x.firstBad ∧ r.second = p ∧ r.reinstates = false ∧ r.lo = s.time.lo)
    (s.mayLease u = true → (x.st = .inService ∧ (x.forward = true ∨ x.due ≤ s.now) ∨ x.st = .retired ∧ x.reinstating = true) ∧
      (core ∨ lane ∨ channel) ∧
      (core → s.leasedWhere (fun v => isUnit v && v / 4 == u / 4) = 0 ∧ s.leasedWhere (fun v => isUnit v && v / 64 == u / 64) ≤ 1 ∧
        s.leasedWhere isUnit ≤ 7) ∧
      (lane → s.leasedWhere (fun v => 0x200 ≤ v && v < 0x224 && (v - 0x200) / 6 == (u - 0x200) / 6) = 0) ∧
      (channel → s.leasedWhere (fun v => 0x400 ≤ v && v < 0x600 && v / 32 == u / 32) = 0)) ∧
    ((s.unit u).forward = true → (s.unit v).forward = false → (s.unit v).early = false → s.leaseFirst v u = false) ∧
    (s.boot = .ready → s.mayLease u = true → (∀ v, s.mayLease v = true → s.leaseFirst v u = false) →
      (core → ∃ t, exec (.leaseStart u) s = .next t ∧ t.unit u = { x with
          st := .withdrawing, since := s.now, forward := false, early := false, firstBad := 0 } ∧
        event t ∧ ∀ g G, Tbl.get? s.groups g = some G →
          (G.place = .placed → G.unit = u → (t.group g).preempt ≠ .no) ∧
          ((∀ h H, (h, H) ∈ s.groups → H.place = .placed → H.unit = u → H.kernel ≠ G.kernel ∨ H.gang ≠ G.gang) → t.group g = G)) ∧
      (lane → ∃ t, exec (.leaseStart u) s = .next t ∧ t.unit u = { x with
          st := .testing, since := s.now, forward := false, early := false, firstBad := 0 } ∧
        event t ∧ ((s.link k).st = .up → (t.link k).st = .degraded)) ∧
      (channel → ∃ t, exec (.leaseStart u) s = .next t ∧ event t ∧
        let y := t.unit u
        { y with score := x.score, peak := x.peak, corr1 := x.corr1, corr16 := x.corr16, corr64 := x.corr64 } = { x with
          st := if x.onSpare then .testing else .withdrawing, copying := if x.onSpare then 0 else 1, since := s.now, forward := false
          early := false, firstBad := 0 })) ∧
    (s.mayLease u = false → exec (.leaseStart u) s = .next s) ∧
    (core → x.st = .withdrawing →
      (s.passed x.since 500000 = true → ∃ t, exec (.withdrawalDeadline u) s = .next t ∧ { t with groups := s.groups } = s ∧
        ∀ g G, Tbl.get? s.groups g = some G → G.place = .placed → G.unit = u → t.group g = { G with preempt := .now }) ∧
      (s.passed x.since 500000 = false → exec (.withdrawalDeadline u) s = .next s) ∧
      ((∀ e, e ∈ s.groups → e.2.place = .placed → e.2.unit ≠ u) → (s.core u).hold = [] → ∃ t, exec (.testingStart u) s = .next t ∧
        t.unit u = { x with st := .testing, since := s.now } ∧ (∀ w, w ≠ u → t.unit w = s.unit w) ∧ { t with lamp := s.lamp } = s) ∧
      ((∃ e, e ∈ s.groups ∧ e.2.place = .placed ∧ e.2.unit = u) ∨ (s.core u).hold ≠ [] → exec (.testingStart u) s = .next s)) ∧
    (core → testing →
      (s.passed x.since 30000000 = false → ∃ t, exec (.patternPass u) s = .next t ∧ event t ∧ t.unit u = { x with
        st := .inService, since := s.now, score := x.score / 2, forward := false, early := decide (1024 ≤ x.score / 2)
        reinstating := false
        due := s.now + (if 1024 ≤ x.score / 2 then 3600000000000 else 4 * 3600000000000) }) ∧
      (s.passed x.since 30000000 = true → exec (.patternPass u) s = .next s ∧ fails (.testTimeout u) 0)) ∧
    (core ∨ channel → testing → fails (.patternMismatch u pattern) pattern) ∧
    (lane → testing → s.passed x.since 2000000 = true →
      (∃ t, exec (.laneGroupTestEnd u 0) s = .next t ∧ event t ∧ (t.unit u).st = .inService ∧ (t.unit u).score = x.score / 2 ∧
        ((s.link k).st = .degraded → (∀ w, w / 2 = u / 2 → w ≠ u → (s.unit w).st = .inService) → (t.link k).st = .up)) ∧
      (pattern ≠ 0 → x.st = .retesting → (∀ w, w / 2 = u / 2 → w ≠ u → (s.unit w).st = .retired) → (s.link k).st = .degraded →
        ∃ t, exec (.laneGroupTestEnd u pattern) s = .next t ∧ (t.unit u).st = .retired ∧ (t.link k).st = .down ∧
          ∃ t', exec (.linkRetraining k) t = .next t' ∧ t' = t) ∧
      (pattern ≠ 0 → x.st = .testing → ∃ t, exec (.laneGroupTestEnd u pattern) s = .next t ∧ (t.unit u).st = .retesting)) ∧
    (channel →
      (testing → ∃ t, exec (.patternPass u) s = .next t ∧ t.unit u = { x with copying := 2 }) ∧
      (x.copying = 1 → ∃ t, exec (.channelCopyEnd u) s = .next t ∧
        t.unit u = { x with copying := 0, onSpare := true, st := .testing, since := s.now }) ∧
      (x.copying = 2 → ∃ t, exec (.channelCopyEnd u) s = .next t ∧ event t ∧ (t.unit u).st = .inService ∧ (t.unit u).copying = 0 ∧
        (t.unit u).onSpare = false))

/-- R10, R303, R304, R324: a monitor sample enters each point's extremes and its bin; the lifetime counters are written to flash; every
reading of a sensor above 95 °C, or of the power above 4.32 kW, is kept, and each span above 105 °C counts as one excursion; a hot
die steps down; it steps up once for 1 s every reading of its sensor has been 95 °C or less and every one of the module's power
4.32 kW or less; its bridges, and its way to DX, carry nothing while its clock relocks. -/
def ruleMonitorsAndHeat : Prop :=
  ∀ (s : State) (sensors : List Nat) (die e w : Nat),
    let cool := e ≤ 760 ∧ w ≤ 43200 ∧ s.passed (Tbl.getD s.lamp.warm die 0) 1000000000 = true ∧
      s.passed s.lamp.heavy 1000000000 = true
    let m := (s.die die).mhz
    let steps (t : State) (hz : Nat) : Prop :=
      t.die die = (if m = hz then s.die die else { s.die die with mhz := hz, relocking := true }) ∧ (∀ d, d ≠ die → t.die d = s.die d)
    let keeps (t : State) : Prop := (die < 8 → 760 < e → Tbl.get? t.lamp.warm die = some s.now) ∧
      (e ≤ 760 → t.lamp.warm = s.lamp.warm) ∧ t.lamp.heavy = (if 43200 < w then s.now else s.lamp.heavy) ∧
      (die < 8 → 840 < e → die ∉ s.lamp.excursion → die ∈ t.lamp.excursion ∧
        Tbl.getD t.lamp.excursions die 0 = Tbl.getD s.lamp.excursions die 0 + 1) ∧
      ((e ≤ 840 ∨ die ∈ s.lamp.excursion) → t.lamp.excursions = s.lamp.excursions) ∧
      (die < 8 → e ≤ 840 → die ∉ t.lamp.excursion)
    let still (t : State) : Prop := keeps t ∧ t.lamp.hot = s.lamp.hot ∧ { t with lamp := s.lamp } = s
    (∃ t, exec (.monitorSample sensors) s = .next t ∧ (∀ l, (t.link l).retriesSampled = 0) ∧
      ∀ i v, (s.samples sensors)[i]? = some v →
        let p := Tbl.getD s.lamp.monitors i {}
        let q := Tbl.getD t.lamp.monitors i {}
        q.hi = max p.hi v ∧ q.lo = some (min v (p.lo.getD v)) ∧
        ∀ b n, p.bins[b]? = some n → b < 16 →
          (InBin b v → q.bins[b]? = some (min (n + 1) (2 ^ 32 - 1))) ∧ (¬ InBin b v → q.bins[b]? = some n)) ∧
    exec .lifetimeCounterWrite s = .next { s with flash := { s.flash with life := {
      hours := s.lamp.hours0 + s.now / 3600000000000
      scores := s.lamp.units.map fun e => (e.1, e.2.score)
      peaks := s.lamp.units.map fun e => (e.1, e.2.peak)
      corrections := s.lamp.units.map fun e => (e.1, e.2.corr1, e.2.corr16, e.2.corr64)
      retired := s.lamp.retirements
      excursions := s.lamp.excursions } } } ∧
    (die < 8 → (840 < e ∨ 48000 < w) → ∃ t, exec (.thermalStepDown die e w) s = .next t ∧ steps t (if m = 1900 then 1500 else 1200) ∧
      die ∈ t.lamp.hot ∧ keeps t) ∧
    (e ≤ 840 → w ≤ 48000 → ∃ t, exec (.thermalStepDown die e w) s = .next t ∧ still t) ∧
    (die ∈ s.lamp.hot → cool → ∃ t, exec (.thermalStepUp ⟨die, e, w⟩) s = .next t ∧ steps t (if m = 1200 then 1500 else 1900) ∧
      (m ≠ 1200 → die ∉ t.lamp.hot) ∧ keeps t) ∧
    (die ∉ s.lamp.hot ∨ ¬ cool → ∃ t, exec (.thermalStepUp ⟨die, e, w⟩) s = .next t ∧ still t) ∧
    (die < 8 → (s.die die).relocking = true →
      (∀ u home, home < 512 → u / 64 ≠ home / 64 → (u / 64 = die ∨ home / 64 = die) → s.bridgeOk u home = false) ∧
      (∀ u home, 512 ≤ home → u / 64 = die → s.bridgeOk u home = false) ∧
      ∀ home, home / 64 = die → s.dxOk home = false)

/-- R288-R304, R324: leases, monitors and heat. -/
def Obligations.LeasesMonitorsAndHeat : Prop := ruleLeases ∧ ruleMonitorsAndHeat

/-! ## Pod time, bridges, links, reductions -/

/-- R238-R241: time passes, and the clock's interval widens; a reply within 2 µs of its request narrows it; while the time unit counts, lo and hi are those of
the last reply and the counts since it, less and more their 10,000th part, rounded up; the clock degrades, goes dark
and keeps its lo, and rises only by attestation; the oscillators fail and return. That one count of the oscillator is 1 ns of the time
that passes, that replies are accepted only while the reference is good, and that a request sent while it had failed is forgotten once it
is good again, are the model's readings (log 18). -/
def Obligations.PodTime : Prop :=
  ∀ (s : State) (plane : Fin 6) (tm em c n lo : Nat),
    let T := s.time
    let d := T.osc - c
    let ran := T.delta + n
    let slack (k : Nat) : Nat := (k + 9999) / 10000
    let lo' := max T.lo (tm - em)
    let hi' := min T.hi (tm + d + em)
    let dark (t : State) : Prop := t.time.tclk = .dark ∧ t.time.lo = T.lo ∧ t.time.hi = 2 ^ 64 - 1 ∧
      ∀ u h, h ∈ (t.core u).hold → h.darkFor = 0
    (T.tclk ≠ .dark → (s.elapse n).time.tclk ≠ .dark → (s.elapse n).now = s.now + n ∧ (s.elapse n).time.delta = T.delta + n ∧
      (s.elapse n).time.silent = T.silent + n ∧ (s.elapse n).time.loA = T.loA ∧ (s.elapse n).time.hiA = T.hiA ∧
      (s.elapse n).time.lo = T.loA + ran - slack ran ∧ (s.elapse n).time.hi = T.hiA + ran + slack ran ∧
      T.lo ≤ (s.elapse n).time.lo ∧ T.eps ≤ (s.elapse n).time.eps ∧ (s.elapse n).time.eps ≤ 0xFFFE) ∧
    (T.tclk = .dark → (s.elapse n).time.lo = T.lo ∧ (s.elapse n).time.hi = T.hi ∧
      ∀ u, ((s.elapse n).core u).hold = (s.core u).hold.map fun h => { h with darkFor := h.darkFor + n }) ∧
    (s.boot.timed = true → ∃ t, exec (.syncRequest plane) s = .next t ∧ t.time = { T with reqs := Tbl.set T.reqs plane.val T.osc } ∧
      t.host.out = .sync plane.val :: s.host.out ∧ { t with time := T, host := s.host } = s) ∧
    (Tbl.get? T.reqs plane.val = none → exec (.syncReply plane tm em) s = .next s) ∧
    (s.boot.timed = true → Tbl.get? T.reqs plane.val = some c →
      ((2000 < d ∨ T.refOk = false ∨ hi' < lo') → T.lo ≤ T.hi → ∃ t, exec (.syncReply plane tm em) s = .next t ∧
        t.time = { T with reqs := Tbl.del T.reqs plane.val, missed := T.missed + 1 } ∧ { t with time := T } = s) ∧
      (d ≤ 2000 → T.refOk = true → lo' ≤ hi' → hi' - lo' ≤ 2 * 0xFFFE → ∃ t, exec (.syncReply plane tm em) s = .next t ∧
        t.time.loA = lo' ∧ hi' ≤ t.time.hiA ∧ t.time.hiA ≤ hi' + 1 ∧ (t.time.hiA - lo') % 2 = 0 ∧ t.time.delta = 0 ∧ t.time.silent = 0 ∧
        t.time.onBackup = false ∧ t.time.tclk = (if (t.time.hiA - lo') / 2 ≤ 255 then .healthy else .degraded) ∧
        (∀ k, (t.elapse k).time.tclk ≠ .dark → (t.elapse k).time.lo = lo' + k - slack k ∧
          (t.elapse k).time.hi = t.time.hiA + k + slack k) ∧
        Tbl.get? t.time.reqs plane.val = none ∧ t.boot = if s.boot = .timing then .starting else s.boot)) ∧
    (T.tclk = .healthy → (s.timerLen 50000 ≤ T.silent ∨ 255 < T.eps) →
      exec .holdoverTimeout s = .next { s with time := { T with tclk := .degraded } }) ∧
    ((T.tclk ≠ .healthy ∨ T.silent < s.timerLen 50000 ∧ T.eps ≤ 255) → exec .holdoverTimeout s = .next s) ∧
    (T.tclk ≠ .dark → (s.timerLen 1000000 ≤ T.silent ∨ T.refOk = false ∨ 0xFFFE < T.eps) →
      ∃ t, exec .darkTransition s = .next t ∧ dark t ∧ t.host.out = .attestAsk :: s.host.out) ∧
    (T.silent < s.timerLen 1000000 → T.refOk = true → T.eps ≤ 0xFFFE → exec .darkTransition s = .next s) ∧
    (T.tclk = .dark → ∃ t, exec (.clockAttestation lo) s = .next t ∧ t.time = { T with loA := max T.loA (min lo (2 ^ 64 - 1)) }) ∧
    (T.tclk ≠ .dark → exec (.clockAttestation lo) s = .next s) ∧
    (T.backOk = true → T.tclk ≠ .dark → ∃ t, exec (.oscillatorMonitorFail false) s = .next t ∧ dark t ∧ t.time.refOk = false ∧
      t.time.onBackup = true ∧ t.boot = s.boot) ∧
    (T.refOk = true → exec (.oscillatorMonitorFail true) s = .next { s with time := { T with backOk := false } }) ∧
    (s.boot.powered = true → (T.refOk = false → ∃ t, exec (.oscillatorMonitorFail true) s = .next t ∧ t.boot = .off) ∧
      (T.backOk = false → ∃ t, exec (.oscillatorMonitorFail false) s = .next t ∧ t.boot = .off)) ∧
    exec .oscillatorMonitorPass s = .next (if T.refOk = true then s else { s with time := { T with refOk := true, reqs := [] } })

/-- R10, R278-R281, R293: the bridges and clocks of dies; training, retries, failover and acknowledgement of fabric links. The numbers
of the bridges, which die lies beyond one, and the times of the flits left at an acknowledgement are the model's readings (log 20). -/
def ruleBridgesAndLinks : Prop :=
  ∀ (s : State) (d l mhz port seq upto k : Nat) (again b : Bool),
    let D := s.die d
    let x := s.link l
    let n := if again then Tbl.getD s.bridges k 0 + 1 else 0
    let laneOut (g : Nat) : Prop := (s.unit (0x200 + 2 * l + g)).st = .retired
    let trained := if s.groupsUp l = 2 then LinkSt.up else .degraded
    let others (t : State) : Prop := ∀ e, e ≠ d → t.die e = s.die e
    let only (i : Instr) (y : Link) : Prop := ∃ t, exec i s = .next t ∧ t.link l = y ∧ (∀ j, j ≠ l → t.link j = s.link j) ∧
      { t with pod := s.pod } = s
    (bridgeDie k = d → (D.fenced = true ∨ 32 ≤ k → exec (.flitCrcFail k again) s = .next s) ∧
      (D.fenced = false → k < 32 → n < 16 → exec (.flitCrcFail k again) s = .next { s with bridges := Tbl.set s.bridges k n }) ∧
      (D.fenced = false → k < 32 → 16 ≤ n → ∃ t, exec (.flitCrcFail k again) s = .next t ∧ t.die d = { D with fenced := true } ∧ others t ∧
        t.lamp.mgmtRing = s.lamp.mgmtRing ++ [⟨s.time.lo, 0x84, 0xFF00 + d, d⟩])) ∧
    (∀ i, i < 8 → bridgeDie i = [4, 1, 5, 2, 6, 3, 7, 0].getD i 0 ∧ bridgeDie (8 + i) = [0, 4, 1, 5, 2, 6, 3, 7].getD i 0 ∧
      bridgeDie (16 + i) = i ∧ bridgeDie (24 + i) = i) ∧
    (d < 8 → (mhz = 1200 ∨ mhz = 1500 ∨ mhz = 1900) → ∃ t, exec (.frequencyStep d mhz) s = .next t ∧ others t ∧
      t.die d = if D.mhz = mhz then D else { D with mhz := mhz, relocking := true }) ∧
    (¬ (mhz = 1200 ∨ mhz = 1500 ∨ mhz = 1900) → exec (.frequencyStep d mhz) s = .next s) ∧
    (d < 8 → ∃ t, exec (.clockRelock d) s = .next t ∧ t.die d = { D with relocking := false } ∧ others t) ∧
    (d < 8 → ∃ t, exec (.dieResetComplete d) s = .next t ∧ t.die d = { D with fenced := false, tlb := [] } ∧ others t) ∧
    (l < 18 → port < 192 → x.st = .training → (¬ laneOut 0 ∨ ¬ laneOut 1) → ∃ t, exec (.linkTraining l port) s = .next t ∧
      t.link l = { st := trained, port := port, retriesSampled := x.retriesSampled } ∧
      t.mod = port / 3 ∧ (∀ j, j ≠ l → t.link j = s.link j)) ∧
    ((x.st ≠ .training ∨ laneOut 0 ∧ laneOut 1) → exec (.linkTraining l port) s = .next s) ∧
    ((∃ f, f ∈ x.unacked ∧ s.passed f.2 2000 = true) → (x.st = .up ∨ x.st = .degraded) →
      only (.ackTimeout l) { x with st := .retrying (x.st == .up), retry := 1, since := s.now, retriesSampled := x.retriesSampled + 1 }) ∧
    ((∀ f, f ∈ x.unacked → s.passed f.2 2000 = false) → exec (.ackTimeout l) s = .next s) ∧
    (x.st = .retrying b → s.passed x.since (min (2 ^ x.retry) 64 * 1000) = true →
      (x.retry < 8 → only (.retryTimeout l) { x with
        retry := x.retry + 1, since := s.now, retriesSampled := x.retriesSampled + 1 }) ∧
      (8 ≤ x.retry → ∃ t, exec (.retryTimeout l) s = .next t ∧ (t.link l).st = .down ∧ (t.link l).unacked = [] ∧
        (∃ q, t.lamp.mgmtRing = q ++ [⟨s.time.lo, 0x85, 0xFFFF, l⟩]) ∧
        ∀ k, (t.flow k).link = if (s.flow k).link = some l then s.failoverLink l else (s.flow k).link)) ∧
    (l < 18 →
      let good (j : Nat) : Prop := j ≠ l ∧ ((s.link j).st = .up ∨ (s.link j).st = .degraded)
      (∀ j, j < 18 → j / 3 = l / 3 → good j → ∃ k, s.failoverLink l = some k ∧ k / 3 = l / 3 ∧ good k) ∧
      ((∀ j, j < 18 → j / 3 = l / 3 → ¬ good j) →
        (∀ j i, i < 6 → 0 < i → j < 18 → j / 3 = (l / 3 + i) % 6 → (s.link j).st = .up →
          (∀ m n, n < i → 0 < n → m < 18 → m / 3 = (l / 3 + n) % 6 → (s.link m).st ≠ .up) →
          (∀ m, m / 3 = j / 3 → m < j → (s.link m).st ≠ .up) → s.failoverLink l = some j) ∧
        ((∀ j, j < 18 → j / 3 ≠ l / 3 → (s.link j).st ≠ .up) → s.failoverLink l = none))) ∧
    ((∃ f, f ∈ x.unacked ∧ f.1 ≤ upto) →
      let left := x.unacked.filter fun f => upto < f.1
      (x.st = .retrying b → only (.linkAcknowledgement l upto) { x with
        st := (if b then .up else .degraded), retry := 0, since := s.now, unacked := left.map fun f => (f.1, s.now) }) ∧
      ((∀ b, x.st ≠ .retrying b) → only (.linkAcknowledgement l upto) { x with unacked := left })) ∧
    ((∀ f, f ∈ x.unacked → upto < f.1) → exec (.linkAcknowledgement l upto) s = .next s) ∧
    (x.st = .down → ((¬ laneOut 0 ∨ ¬ laneOut 1) → only (.linkRetraining l) { x with st := .training }) ∧
      (laneOut 0 → laneOut 1 → exec (.linkRetraining l) s = .next s)) ∧
    (x.carries = true → seq = x.recvSeq → only (.flitReceipt l seq) { x with recvSeq := seq + 1 }) ∧
    (seq ≠ x.recvSeq → exec (.flitReceipt l seq) s = .next s)

/-- R14, R286, R287: contributions of members are gathered at the switch until every member's has come, and wait where its 8 MiB are full;
a round that stays short for 256 µs is abandoned, and each context of this module that contributed to its window hears of it by a notice
of kind 0x10; it stays remembered, so that what comes for it later is told apart (the model's choice: log 21). A formed round is
combined in rank order and written to its line, in the sequence of the plane's ordered flow, poisoned where a contribution was; a
contribution of a context that has ended or ends is dropped. -/
def ruleReductions : Prop :=
  ∀ (s : State) (src : Fin 64) (ctx line n k : Nat) (data : ContributedLine) (w : Window) (r : Round),
    let a := line / 64 * 64
    let bytes := data.bytes
    let arrives (t : State) : Prop := exec (.contributionArrival src ctx line n data) s = .next t
    let find (t : State) : Option Round := t.pod.rounds.find? fun r => r.win == k && r.line == a && r.round == n
    let due : Option Round := s.pod.rounds.find? fun r => r.line == a && r.round == n && !r.abandoned && s.passed r.since 256000
    let only (t : State) : Prop := { t with pod := s.pod } = s ∧
      { t.pod with rounds := s.pod.rounds, formed := s.pod.formed, waiting := s.pod.waiting } = s.pod
    let full := 8388608 < s.switchBytes w.plane + 64
    let young := r.abandoned = false ∧ s.passed r.since 256000 = false
    let whole := ∀ m, m < 64 → w.members.testBit m = true → m = src.val ∨ Tbl.has r.got m = true
    let joined : Round := { r with got := Tbl.set r.got src.val bytes, poison := r.poison || data.poison }
    let kept := src.val = s.mod → (s.ctx ctx).st = .live ∨ (s.ctx ctx).st = .suspended
    let F (p : Nat) : Flow := s.flow (planeFlow p)
    let sole (t : State) : Prop := { t with pod := s.pod, memory := s.memory } = s ∧
      { t.memory with flows := s.memory.flows } = s.memory ∧
      { t.pod with rounds := s.pod.rounds, formed := s.pod.formed, waiting := s.pod.waiting } = s.pod
    let elem (m i : Nat) : Nat := let z := if w.type = 1 then 8 else 4; leNat (((Tbl.getD r.got m []).drop (z * i)).take z)
    (s.windowOf src.val a = some (k, w) → w.members.testBit src.val = true ∧ w.base ≤ a ∧ a < w.base + w.pages * 65536) ∧
    (s.windowOf src.val a = some (k, w) → s.pod.waiting = [] →
      (bytes.length = 64 → kept →
        (¬ full → find s = none → ∃ t, arrives t ∧ only t ∧ t.pod.rounds = s.pod.rounds ++
          [{ win := k, line := a, round := n, got := [(src.val, bytes)], poison := data.poison, since := s.now }]) ∧
        (¬ full → find s = some r → young → Tbl.has r.got src.val = false →
          (¬ whole → ∃ t, arrives t ∧ only t ∧ find t = some joined ∧ t.pod.formed = s.pod.formed) ∧
          (whole → w.members.testBit s.mod = false → ∃ t, arrives t ∧ only t ∧ find t = none ∧ t.pod.formed = s.pod.formed) ∧
          (whole → w.members.testBit s.mod = true → ∃ t, arrives t ∧ sole t ∧ find t = none ∧
            t.pod.formed = s.pod.formed ++ [(w.plane, (F w.plane).next, a, reducedLine w joined, joined.poison)] ∧
            (t.flow (planeFlow w.plane)).next = ((F w.plane).next + 1) % 2 ^ 32)) ∧
        (full → (find s = none ∨ find s = some r ∧ young ∧ Tbl.has r.got src.val = false) → ∃ t, arrives t ∧ only t ∧
          t.pod.rounds = s.pod.rounds ∧ t.pod.waiting = [⟨src.val, ctx, a, n, bytes, data.poison⟩])) ∧
      (¬ kept → arrives s) ∧
      (bytes.length = 64 → kept → find s = some r → r.abandoned = true →
        arrives (if src.val = s.mod then s.postNotice ctx 0x83 0xFFFF (a / 64 % 2 ^ 32) else s))) ∧
    (s.pod.waiting = [] → due = some r → exec (.roundAbandon line n) s = .next
      ((s.pod.users.filter fun u => u.1 == r.win).foldl (fun t u => t.postNotice u.2 0x10 0xFFFF (a / 64 % 2 ^ 32)) { s with
        pod := { s.pod with rounds := s.pod.rounds.map fun q =>
          if q.win = r.win ∧ q.line = a ∧ q.round = n then { q with abandoned := true, got := [] } else q } })) ∧
    (due = none → exec (.roundAbandon line n) s = .next s) ∧
    (s.windowOf src.val a = none → s.pod.waiting = [] → arrives s) ∧
    (s.canonical → inClass a = true → s.frozenAt a = false → bytes.length = 64 → s.dxOk (homeOf a) = true → ∀ p rest,
      s.pod.formed = (p, (F p).expect, a, bytes, data.poison) :: rest → ∃ t, exec (.combinedWrite line bytes) s = .next t ∧
        t.pod.formed = rest ∧ (t.flow (planeFlow p)).expect = ((F p).expect + 1) % 2 ^ 32 ∧
        (∀ i, i < 64 → t.byteAt (a + i) = bytes.getD i 0) ∧ (∀ b, (b < a ∨ a + 64 ≤ b) → t.byteAt b = s.byteAt b) ∧
        t.linePoisoned a = data.poison) ∧
    ((∀ e, e ∈ s.pod.formed → e.2.2.1 ≠ a ∨ e.2.2.2.1 ≠ bytes ∨ e.2.1 ≠ (F e.1).expect) → exec (.combinedWrite line bytes) s = .next s) ∧
    (∀ i, i < (if w.type = 1 then 8 else 16) →
      let z := if w.type = 1 then 8 else 4
      let members := (List.range 64).filter fun m => w.members.testBit m
      let sum : Int := (members.map fun m => (BitVec.ofNat (8 * z) (elem m i)).toInt).sum
      (w.type = 0 ∨ w.type = 1 → ((reducedLine w r).drop (z * i)).take z =
        natLE z (BitVec.ofInt (8 * z) (max (-2 ^ (8 * z - 1)) (min sum (2 ^ (8 * z - 1) - 1)))).toNat) ∧
      (w.type = 2 → ∀ m ms, members = m :: ms → ((reducedLine w r).drop (z * i)).take z =
        natLE z (ms.foldl (fun acc j => (fAdd acc (BitVec.ofNat 32 (elem j i))).1) (BitVec.ofNat 32 (elem m i))).toNat))

/-- R277-R287: bridges, links and pod reductions. -/
def Obligations.LinksAndReductions : Prop := ruleBridgesAndLinks ∧ ruleReductions

/-! ## The host -/

/-- The first 32 bytes of a host message (R329). -/
def hostHead (cls kind tag key counter n : Nat) : List Byte :=
  natLE 2 1 ++ natLE 1 cls ++ natLE 1 kind ++ natLE 4 n ++ natLE 8 tag ++ natLE 1 key ++ natLE 7 0 ++ natLE 8 counter

/-- A whole message, with its authentication tag (R329). -/
def hostMessage (s : State) (cls kind tag key counter : Nat) (body : List Byte) : List Byte :=
  let h := hostHead cls kind tag key counter body.length
  h ++ natLE 32 (Config.kmac (Tbl.getD s.host.keys key []) (h ++ body)).toNat ++ body

/-- A message of this key and counter on this port is accepted (R328, R329). -/
def Accepts (s : State) (port : Fin 2) (tag key counter : Nat) (body : List Byte) : Prop :=
  s.boot.powered = true ∧ s.host.portsUp.toList.getD port.val false = true ∧ (Tbl.get? s.host.keys key).isSome = true ∧ key < 16 ∧
  tag < 2 ^ 64 ∧ counter < 2 ^ 64 ∧ s.lastCounter key < counter ∧ body.length ≤ 8128

/-- The commands of R330, with their kinds. -/
def hostCommands (p : Fin 2) : List (Nat × (List Byte → Instr)) :=
  [(1, .hostLaunch p), (2, .hostPodLaunch p), (3, .installReplacementImage p), (4, .contextCreate p), (5, .contextSuspend p),
   (6, .contextResume p), (7, .contextEnd p), (8, .setQueuePriority p), (9, .resumeHaltedGroup p), (10, .endHaltedGroup p)]

/-- A new command takes the next sequence number, and its entry; it is remembered with the reason and the value of its reply, which
waits for the persistent copy (R80, R81, R330). -/
def Commanded (s : State) (port : Fin 2) (i : List Byte → Instr) (kind : Nat) (body : List Byte) (reason value : Nat)
    (entry : JEntry → Prop) (more : State → Prop) : Prop :=
  ∀ tag key counter, Accepts s port tag key counter body → (∀ r, r ∈ s.host.recent → r.key = key → r.tag ≠ tag) →
    ∃ t e, exec (i (hostMessage s 1 kind tag key counter body)) s = .next t ∧ t.lastCounter key = counter ∧
      t.host.seq = s.host.seq + 1 ∧ Tbl.get? t.host.ring ((s.host.seq - 1) % 32768) = some e ∧ e.seq = s.host.seq ∧
      e.lo = s.time.lo ∧ e.kind = kind ∧ entry e ∧
      t.host.recent = ({ port := port.val, key := key, tag := tag, kind := kind, seq := s.host.seq, reason := reason, value := value } ::
        s.host.recent).take 4096 ∧ more t

/-- The entry of a command refused (state 4), complete (2) or accepted (0), with its queue and context. -/
def entryIs (st queue ctx : Nat) (e : JEntry) : Prop := e.st = st ∧ e.queue = queue ∧ e.ctx = ctx

/-- R80, R81, R329, R330: a message that is not well formed, authentic and newer is dropped; a repeated command is answered again and
not executed; each kind of command, with its refusals. The model's choices: reason 3 for a free context or where no group is halted (log
16); END_HALTED_GROUP counts its group as exited (log 23); the origin's next generation, which skips 0 (log 24); a command of an
unlisted kind is refused with reason 3 (log 25); the entry's fields of a refused command (log 75). -/
def Obligations.HostCommands : Prop :=
  ∀ (s : State) (port : Fin 2) (dg body pk : List Byte) (q c g old new prio kn lin tag key counter mask : Nat) (r : Recent)
    (p : Packet) (im a : Image) (x : Context) (G : Group),
    let same (t : State) : Prop := { t with host := s.host } = s
    let read (t : State) : Prop := { t with host := s.host } = s.meets t ∧ (s.memory.errs = [] → same t)
    let unused := (∀ y, y ∈ s.disp.installs → y.jseq ≠ s.host.seq) ∧ ∀ e, e ∈ s.ctxs → s.host.seq ∉ e.2.jsusp
    let queued (b : Nat) : List Byte := natLE 2 b ++ natLE 6 0
    let Q := s.queue q
    let bound := q < 256 ∧ Q.ctx = some c ∧ (s.ctx c).st ≠ .ending
    let unbound := 256 ≤ q ∨ Q.ctx = none ∨ Q.ctx = some c ∧ (s.ctx c).st = .ending
    (∀ y, y ∈ hostCommands port → (parseHost dg = none → exec (y.2 dg) s = .next s) ∧
      (∀ m, parseHost dg = some m → s.authentic dg m = false → exec (y.2 dg) s = .next s) ∧
      (c < 256 → ¬ (1 ≤ c ∧ c ≤ 10) →
        Commanded s port y.2 c body (if s.boot.isReady then 3 else 1) 0 (entryIs 4 0xFFFF 0xFF) same) ∧
      (s.boot.isReady = false → Commanded s port y.2 y.1 body 1 0
        (entryIs 4 (if y.1 ∈ [1, 2, 3, 8] ∧ 2 ≤ body.length then leNat (body.take 2) else 0xFFFF)
          (if y.1 ∈ [5, 6, 7] ∧ 1 ≤ body.length ∧ leNat (body.take 1) < 64 then leNat (body.take 1) else 0xFF)) same) ∧
      (Accepts s port tag key counter body → s.host.recent.find? (fun r => r.key == key && r.tag == tag) = some r →
        ∃ t, exec (y.2 (hostMessage s 1 y.1 tag key counter body)) s = .next t ∧ same t ∧ t.host.ring = s.host.ring ∧
          t.host.seq = s.host.seq ∧ t.host.recent = s.host.recent ∧
          (r.sent = false → t.host.out = s.host.out) ∧ (r.sent = true → ∃ b, t.host.out = .host (s.portFor port.val) b :: s.host.out ∧
            b.drop 64 = s.replyBody r))) ∧
    (let last := ((Tbl.get? s.flash.gLast q).map Prod.fst).getD 0
     let after (n : Nat) : Nat := if (n + 1) % 2 ^ 32 = 0 then 1 else (n + 1) % 2 ^ 32
     last < 2 ^ 32 → (Tbl.get? s.flash.genSent q = none → s.flash.nextGen q = after last) ∧
       ∀ n, n < 2 ^ 32 → Tbl.get? s.flash.genSent q = some n → s.flash.nextGen q ≠ n ∧ s.flash.nextGen q ≠ last ∧
         (s.flash.nextGen q = after n ∨ s.flash.nextGen q = after last)) ∧
    (s.boot = .ready → 0 < s.host.seq →
      (∀ y, y ∈ hostCommands port → body = [] → Commanded s port y.2 y.1 body 3 0 (entryIs 4 0xFFFF 0xFF) same) ∧
      (pk.length = 64 → q < 2 ^ 16 →
        let launch := Commanded s port (.hostLaunch port) 1 (queued q ++ pk)
        (unbound → launch 2 0 (entryIs 4 q 0xFF) same) ∧
        (bound → s.readLaunch c pk = none → launch 3 0 (entryIs 4 q c) read) ∧
        (bound → s.readLaunch c pk = some (p, im) → 1024 ≤ s.queueLen q → launch 4 0 (entryIs 4 q c) read) ∧
        (bound → s.readLaunch c pk = some (p, im) → s.queueLen q < 1024 →
          (p.concurrent = true ∨ ∀ k, Q.last = some k → (s.kernel k).st ≠ .failed) →
          (p.hasProducer = true → (s.kernel p.producer).st ≠ .failed) →
          let id := c * 2 ^ 56 + q * 2 ^ 48 + (Q.count + 1)
          0 < id → launch 0 id (fun e => entryIs 0 q c e ∧ e.kernel = id) fun t =>
            (t.kernel id).pkt = p ∧ (t.kernel id).img = im ∧ (t.kernel id).st = .queued ∧ (t.kernel id).jseq = s.host.seq ∧
            t.queue q = { Q with count := Q.count + 1, last := some id, cmds := Q.cmds ++ [id] })) ∧
      (pk.length = 64 → mask < 2 ^ 64 → q < 2 ^ 16 →
        let launch := Commanded s port (.hostPodLaunch port) 2 (queued q ++ natLE 8 mask ++ pk)
        let fits := mask.testBit s.mod = true ∧ bit (fieldAt pk 14 1) 2 = false ∧ parsePacket pk ≠ none
        (¬ fits → launch 3 0 (entryIs 4 q 0xFF) same) ∧ (fits → unbound → launch 2 0 (entryIs 4 q 0xFF) same) ∧
        (fits → bound → 1024 ≤ s.queueLen q → launch 4 0 (entryIs 4 q c) same)) ∧
      (pk.length = 64 → mask < 2 ^ 64 → mask.testBit s.mod = true → bit (fieldAt pk 14 1) 2 = false → parsePacket pk = some p → bound →
        s.queueLen q < 1024 → Commanded s port (.hostPodLaunch port) 2 (queued q ++ natLE 8 mask ++ pk) 0 0 (entryIs 0 q c) fun t =>
          ∃ o m, t.disp.origins = s.disp.origins ++ [o] ∧ o.queue = q ∧ o.members = mask ∧ o.packet = pk ∧ o.jseq = s.host.seq ∧
            o.since = s.now ∧ o.acks = [] ∧ o.gen = s.flash.nextGen q ∧ Tbl.get? t.flash.genSent q = some o.gen ∧
            t.host.out = .pod (PodMsg.toBytes m) :: s.host.out ∧ m.kind = 1 ∧ m.gen = o.gen ∧ m.queue = q ∧ m.members = mask ∧
            m.tenant = (s.ctx c).tenant ∧ m.packet = pk ∧ m.origin = s.mod ∧ m.time = 0) ∧
      (old < 2 ^ 64 → new < 2 ^ 64 → q < 2 ^ 16 →
        let install := Commanded s port (.installReplacementImage port) 3 (queued q ++ natLE 8 old ++ natLE 8 new)
        (unbound → install 2 0 (entryIs 4 q 0xFF) same) ∧
        (bound → (s.readImage c old = none ∨ s.readImage c new = none) → install 3 0 (entryIs 4 q c) read) ∧
        (bound → s.readImage c old = some a → s.readImage c new = some im → (∀ y, y ∈ s.disp.installs → y.complete = true) →
          (im.regs ≠ a.regs ∨ im.waves ≠ a.waves ∨ im.det ≠ a.det ∨ a.scratch < im.scratch) → install 3 0 (entryIs 4 q c) read)) ∧
      (old < 2 ^ 64 → new < 2 ^ 64 → bound → s.readImage c old = some a → s.readImage c new = some im →
        let install := Commanded s port (.installReplacementImage port) 3 (queued q ++ natLE 8 old ++ natLE 8 new)
        ((∃ y, y ∈ s.disp.installs ∧ y.queue = q ∧ y.complete = false) → install 6 0 (entryIs 4 q c) read) ∧
        ((∀ y, y ∈ s.disp.installs → y.complete = true) → im.regs = a.regs → im.waves = a.waves → im.det = a.det →
          im.scratch ≤ a.scratch → (∃ k K, Tbl.get? s.disp.kernels k = some K ∧ K.queue = q ∧ K.pkt.code = old ∧ K.unplaced = true) →
          install 0 0 (entryIs 0 q c) fun t =>
            t.disp.installs = s.disp.installs ++ [{ id := s.nextId, queue := q, ctx := c, old := old, img := im, jseq := s.host.seq }] ∧
            ∀ k K, Tbl.get? s.disp.kernels k = some K → K.queue = q → K.pkt.code = old → K.st.isFinal = false →
              t.kernel k = { K with install := some s.nextId, newImg := some im })) ∧
      (body.length = 64 →
        let create := Commanded s port (.contextCreate port) 4 body
        ((∀ k, k < 64 → (s.ctx k).st ≠ .free) → create 5 0 (entryIs 4 0xFFFF 0xFF) same) ∧
        (c < 64 → (s.ctx c).st = .free → (∀ k, k < c → (s.ctx k).st ≠ .free) →
          (s.parseCtx body = none → create 3 0 (entryIs 4 0xFFFF 0xFF) same) ∧
          (s.parseCtx body = some x → create 0 c (entryIs 2 0xFFFF c) fun t => t.ctx c = x))) ∧
      (c < 64 →
        let on (i : List Byte → Instr) (kind : Nat) := Commanded s port i kind (natLE 1 c)
        let all := [(5, Instr.contextSuspend port), (6, .contextResume port), (7, .contextEnd port)]
        ((s.ctx c).st = .free → ∀ y, y ∈ all → on y.2 y.1 3 0 (entryIs 4 0xFFFF c) same) ∧
        ((s.ctx c).st = .live → (∀ e, e ∈ s.groups → e.2.place = .placed → (s.kernel e.2.kernel).ctx ≠ c) → (s.ctx c).jsusp = [] →
          on (.contextSuspend port) 5 0 0 (entryIs 2 0xFFFF c) fun t => (t.ctx c).st = .suspended) ∧
        ((s.ctx c).st = .live → (∃ e, e ∈ s.groups ∧ e.2.place = .placed ∧ (s.kernel e.2.kernel).ctx = c) →
          on (.contextSuspend port) 5 0 0 (entryIs 0 0xFFFF c) fun t => (t.ctx c).st = .suspended) ∧
        ((s.ctx c).st = .suspended → on (.contextResume port) 6 0 0 (entryIs 2 0xFFFF c) fun t => (t.ctx c).st = .live) ∧
        ((s.ctx c).st = .live ∨ (s.ctx c).st = .suspended → (s.ctx c).jsusp = [] → unused →
          on (.contextEnd port) 7 0 0 (entryIs 0 0xFFFF c) fun t => (t.ctx c).st = .ending ∧ s.host.seq ∈ (t.ctx c).jend)) ∧
      (prio < 256 → q < 2 ^ 16 →
        let sets := Commanded s port (.setQueuePriority port) 8 (natLE 2 q ++ natLE 1 prio)
        (7 < prio → sets 3 0 (entryIs 4 q 0xFF) same) ∧
        (prio ≤ 7 → unbound → sets 2 0 (entryIs 4 q 0xFF) same) ∧
        (prio ≤ 7 → bound → sets 0 0 (entryIs 2 q c) fun t => t.queue q = { Q with prio := prio } ∧ ∀ k, k ≠ q → t.queue k = s.queue k)) ∧
      (kn < 2 ^ 64 → lin < 2 ^ 32 →
        let on (i : List Byte → Instr) (kind : Nat) := Commanded s port i kind (natLE 8 kn ++ natLE 4 lin)
        let found := s.groups.find? fun e => e.2.kernel == kn && e.2.lin == lin && e.2.halted && !e.2.isEnded
        (found = none → on (.resumeHaltedGroup port) 9 3 0 (entryIs 4 0xFFFF 0xFF) same ∧
          on (.endHaltedGroup port) 10 3 0 (entryIs 4 0xFFFF 0xFF) same) ∧
        (found = some (g, G) → Tbl.get? s.groups g = some G →
          on (.resumeHaltedGroup port) 9 0 0 (entryIs 2 (s.kernel kn).queue (s.kernel kn).ctx) (fun t =>
            t.group g = { G with halted := false }) ∧
          on (.endHaltedGroup port) 10 0 0 (entryIs 2 (s.kernel kn).queue (s.kernel kn).ctx) fun t =>
            (t.group g).place = .ended ∧ (t.group g).halted = false ∧ (t.kernel kn).exited = (s.kernel kn).exited + 1)))
/-- The management requests of R331: the kind, the least bytes of the body, the message. -/
def IsRequest (p : Fin 2) (kind n : Nat) (i : List Byte → Instr) : Prop :=
  (kind = 0x40 ∧ n = 2 ∧ i = .releaseSnapshot p) ∨ (kind = 0x41 ∧ n = 24 ∧ i = .defineReduceWindow p) ∨
  (kind = 0x42 ∧ n = 1 ∧ i = .removeReduceWindow p) ∨ (kind = 0x43 ∧ n = 3 ∧ i = .readMonitor p) ∨
  (kind = 0x44 ∧ n = 2 ∧ i = .retireUnit p) ∨ (kind = 0x45 ∧ n = 2 ∧ i = .reinstateUnit p) ∨
  (kind = 0x46 ∧ n = 5 ∧ i = .setChannelWeight p) ∨ (kind = 0x47 ∧ n = 72 ∧ i = .setTenantPartition p) ∨
  (kind = 0x48 ∧ n = 32 ∧ i = .attestation p) ∨ (kind = 0x49 ∧ n = 0 ∧ i = .readStatus p) ∨
  (kind = 0x4A ∧ n = 0 ∧ i = fun dg => .orderlyShutdown (.request p dg))

/-- A message of a key is answered at once, on a port that carries traffic, with this body. -/
def Answered (s : State) (port : Fin 2) (i : List Byte → Instr) (cls kind : Nat) (body : List Byte) (keys : Nat → Prop) (out : List Byte)
    (more : State → Prop) : Prop :=
  ∀ tag key counter, Accepts s port tag key counter body → keys key →
    ∃ t b, exec (i (hostMessage s cls kind tag key counter body)) s = .next t ∧
      t.host.out = .host (s.portFor port.val) b :: s.host.out ∧ b.drop 64 = out ∧ t.lastCounter key = counter ∧
      t.ownCounter key = s.ownCounter key + 1 ∧ more t

/-- A management request of a key that may manage is answered with a status and data (R331). -/
def Managed (s : State) (port : Fin 2) (i : List Byte → Instr) (kind : Nat) (body : List Byte) (status : Int) (data : List Byte)
    (more : State → Prop) : Prop :=
  Answered s port i 3 kind body (fun k => k ≤ 3) (natLE 8 (status % 2 ^ 64).toNat ++ data) more

/-- R65, R241, R270, R284, R285, R291, R299, R303, R324, R327-R329, R331: management requests, with their refusals; orderly shutdown by
its other causes. The model's choices: a mask that names a reserved core is refused with -1 (log 8); the layouts of the report and of
the status, and -1 for an unlisted kind (log 25); the time of the reinstating mark and its record (log 53). A halted module answers
READ_STATUS with 6 and its stage code. -/
def ruleManagementRequests : Prop :=
  ∀ (s : State) (port : Fin 2) (dg body : List Byte) (n c p f u l t ways k : Nat) (mask : Nat) (x : Monitor) (w : Window) (y : Snapshot)
    (kind least : Nat) (i : List Byte → Instr),
    let same (t : State) : Prop := { t with host := s.host } = s
    (IsRequest port kind least i →
      (parseHost dg = none → exec (i dg) s = .next s) ∧
      (∀ m, parseHost dg = some m → s.authentic dg m = false → exec (i dg) s = .next s) ∧
      Answered s port i 3 kind body (fun k => 3 < k ∧ k < 16) (natLE 8 (2 ^ 64 - 3)) same ∧
      (l < 256 → (l < 0x40 ∨ 0x4A < l) → Managed s port i l body (-1) [] same) ∧
      (0 < least → Managed s port i kind [] (-1) [] same)) ∧
    (c < 64 → n < 4 →
      let release := Managed s port (.releaseSnapshot port) 0x40 (natLE 1 c ++ natLE 1 n)
      (Tbl.get? (s.ctx c).snaps n = some y → y.complete = true → release 0 [] fun t => Tbl.get? (t.ctx c).snaps n = none ∧
        ∀ j, j ≠ n → Tbl.get? (t.ctx c).snaps j = Tbl.get? (s.ctx c).snaps j) ∧
      ((∀ y, Tbl.get? (s.ctx c).snaps n = some y → y.complete = false) → release (-2) [] same)) ∧
    (n < 16 → w.base % 65536 = 0 → w.base + w.pages * 65536 ≤ 2 ^ 40 → 0 < w.pages → w.pages ≤ 256 → w.plane < 6 → w.type < 3 →
      0 < w.tenant → w.tenant < 2 ^ 16 → w.members < 2 ^ 64 → 2 ≤ w.ranks.length →
      let define := Managed s port (.defineReduceWindow port) 0x41 (natLE 1 n ++ natLE 1 w.plane ++ natLE 1 w.type ++ [0] ++
        natLE 2 w.tenant ++ natLE 2 w.pages ++ natLE 8 w.base ++ natLE 8 w.members)
      let overlap (v : Window) : Prop := w.base < v.base + v.pages * 65536 ∧ v.base < w.base + w.pages * 65536 ∧
        ∃ m, m < 64 ∧ w.members.testBit m = true ∧ v.members.testBit m = true
      (Tbl.get? s.pod.windows n = none → (∀ e, e ∈ s.pod.windows → ¬ overlap e.2) →
        define 0 [] fun t => Tbl.get? t.pod.windows n = some w ∧ ∀ j, j ≠ n → Tbl.get? t.pod.windows j = Tbl.get? s.pod.windows j) ∧
      (((Tbl.get? s.pod.windows n).isSome = true ∨ ∃ e, e ∈ s.pod.windows ∧ overlap e.2) → define (-2) [] same)) ∧
    (n < 16 →
      let remove := Managed s port (.removeReduceWindow port) 0x42 (natLE 1 n)
      ((Tbl.get? s.pod.windows n).isSome = true → remove 0 [] fun t => Tbl.get? t.pod.windows n = none ∧
        ∀ j, j ≠ n → Tbl.get? t.pod.windows j = Tbl.get? s.pod.windows j) ∧
      (Tbl.get? s.pod.windows n = none → remove (-2) [] same)) ∧
    (p < monitorCount → f < 2 → Tbl.getD s.lamp.monitors p {} = x →
      ∀ low, x.lo = some low → Managed s port (.readMonitor port) 0x43 (natLE 2 p ++ natLE 1 f) 0
        (natLE 4 low ++ natLE 4 x.hi ++ x.bins.flatMap (natLE 4)) fun t =>
          Tbl.getD t.lamp.monitors p {} = (if f = 1 then {} else x) ∧
          ∀ j, j ≠ p → Tbl.get? t.lamp.monitors j = Tbl.get? s.lamp.monitors j) ∧
    (u < 2 ^ 16 → (leaseClass u).isSome = true →
      let retire := Managed s port (.retireUnit port) 0x44 (natLE 2 u)
      let reinstate := Managed s port (.reinstateUnit port) 0x45 (natLE 2 u)
      ((s.unit u).st = .inService → retire 0 [] fun t => (t.unit u).st = .retired ∧ t.lamp.gen = s.lamp.gen + 1 ∧
        (∃ q, t.flash.snuffs = s.flash.snuffs ++ [q] ∧ q.unit = u ∧ q.cause = 2 ∧ q.reinstates = false ∧ q.score = (s.unit u).score) ∧
        ∀ g G, Tbl.get? s.groups g = some G → isUnit u = true → G.place = .placed → G.unit = u → (t.group g).preempt = .now) ∧
      ((s.unit u).st ≠ .inService → retire (-2) [] same) ∧
      let free := leaseClass u = some 2 → s.spareTaken u = false
      ((s.unit u).st = .retired → free → reinstate 0 [] fun t => (t.unit u).reinstating = true ∧ t.flash = s.flash ∧
        (s.leaseRoom u = true → (t.unit u).leased = true ∧ (isUnit u = true → (t.unit u).st = .withdrawing)) ∧
        (s.leaseRoom u = false → t.unit u = { s.unit u with reinstating := true, forward := true })) ∧
      ((s.unit u).st ≠ .retired ∨ ¬ free → reinstate (-2) [] same)) ∧
    (p < 64 → 0 < t → t < 2 ^ 16 → 0 < k → k < 256 → (l < 18 ∨ l = 0xFF) →
      Managed s port (.setChannelWeight port) 0x46 (natLE 1 l ++ natLE 1 p ++ natLE 2 t ++ natLE 1 k) 0 [] fun q =>
        ∀ j i, j < 18 → i < 64 → Tbl.getD q.pod.vcs (64 * j + i) {} =
          if i = p ∧ (l = 0xFF ∨ j = l) then { Tbl.getD s.pod.vcs (64 * j + i) {} with tenant := t, weight := k }
          else Tbl.getD s.pod.vcs (64 * j + i) {}) ∧
    (0 < t → t < 2 ^ 16 → ways < 2 ^ 16 → mask < 2 ^ 512 →
      let partition := Managed s port (.setTenantPartition port) 0x47 (natLE 2 t ++ natLE 2 ways ++ natLE 4 0 ++ natLE 64 mask)
      let empty := mask = 0 ∨ ways = 0
      let lives := ∃ e, e ∈ s.ctxs ∧ e.2.st = .live ∧ e.2.tenant = t
      let fits := ∀ i, mask.testBit i = true → isUnit i = true ∧ isReserved i = false
      (¬ fits → partition (-1) [] same) ∧
      (fits → empty → lives → partition (-2) [] same) ∧
      (fits → ¬ (empty ∧ lives) → partition 0 [] fun q =>
        Tbl.get? q.tenants t = some ⟨(List.range 512).filter mask.testBit, ways⟩ ∧
        ∀ j, j ≠ t → Tbl.get? q.tenants j = Tbl.get? s.tenants j)) ∧
    (body.length = 32 →
      let report := body ++ (s.host.images.flatMap fun i => i.2.1 ++ natLE 4 i.2.2) ++ Config.serial ++
        natLE 8 (s.lamp.hours0 + s.now / 3600000000000)
      Managed s port (.attestation port) 0x48 body 0 (report ++ Config.sign report) same) ∧
    Managed s port (.readStatus port) 0x49 [] 0 s.statusData same ∧
    (∀ j, j < 256 → s.boot = .halted j → s.statusData.take 2 = [6, BitVec.ofNat 8 j]) ∧ (s.boot = .ready → s.statusData.take 2 = [5, 0]) ∧
    (let off (t : State) : Prop := t.boot = .off ∧ (∀ g G, Tbl.get? s.groups g = some G → (t.group g).place = .ended) ∧
       t.flash.life.hours = s.lamp.hours0 + s.now / 3600000000000
     Managed s port (fun dg => .orderlyShutdown (.request port dg)) 0x4A [] 0 [] off ∧
     (s.boot.powered = true →
       (p < 8 → 920 < f → ∃ t, exec (.orderlyShutdown (.sensor p f)) s = .next t ∧ off t ∧
         Tbl.getD t.flash.life.excursions p 0 = Tbl.getD s.lamp.excursions p 0 + (if p ∈ s.lamp.excursion then 0 else 1)) ∧
       (1 ≤ n → ∃ t, exec (.orderlyShutdown (.supply n)) s = .next t ∧ off t) ∧
       (s.time.refOk = false → s.time.backOk = false → ∃ t, exec (.orderlyShutdown .oscillators) s = .next t ∧ off t)) ∧
     (f ≤ 920 → exec (.orderlyShutdown (.sensor p f)) s = .next s) ∧ exec (.orderlyShutdown (.supply 0)) s = .next s)

/-- R80, R81, R328, R331: a journal entry is written to the persistent copy, in its place among the newest 4,096, and with its first writing its command's
reply leaves; a journal read; a port that fails hands its traffic to the other. -/
def ruleJournalAndPorts : Prop :=
  ∀ (s : State) (port : Fin 2) (n first count : Nat) (e : JEntry) (r : Recent),
    (s.entry n = none → exec (.journalPersist n) s = .next s) ∧
    (s.entry n = some e →
      ∃ t, exec (.journalPersist n) s = .next t ∧ { t with flash := s.flash, host := s.host } = s ∧
        (s.flash.journal.Pairwise (fun x y => x.seq < y.seq) →
          t.flash.journal.Pairwise (fun x y => x.seq < y.seq) ∧
          (s.flash.journal.length < 4096 → (∀ y, y ∈ s.flash.journal → y.seq ≠ n) →
            ∀ y, y ∈ t.flash.journal ↔ y = e ∨ y ∈ s.flash.journal) ∧
          (s.flash.journal.length ≤ 4096 → (∃ y, y ∈ s.flash.journal ∧ y.seq = n) →
            t.flash.journal = s.flash.journal.map fun y => if y.seq = n then e else y) ∧
          (s.flash.journal.length = 4096 → (∀ y, y ∈ s.flash.journal → y.seq ≠ n) →
            ((∀ y, y ∈ s.flash.journal → n < y.seq) → t.flash.journal = s.flash.journal) ∧
            ((∃ y, y ∈ s.flash.journal ∧ y.seq < n) → ∀ y, y ∈ t.flash.journal ↔ y = e ∨ y ∈ s.flash.journal.tail))) ∧
        ((∀ y, y ∈ s.host.recent → y.seq = n → y.sent = true) → t.host = s.host) ∧
        (s.host.recent.find? (fun y => y.seq == n && !y.sent) = some r →
          (∃ b, t.host.out = .host (s.portFor r.port) b :: s.host.out ∧ b.drop 64 = s.replyBody r) ∧
          t.host.recent = s.host.recent.map fun y => if y.seq = n then { y with sent := true } else y)) ∧
    (first < 2 ^ 64 → 0 < first → 0 < count → count ≤ 253 → ∀ low high,
      (∀ y, y ∈ s.host.ring → low ≤ y.2.seq ∧ y.2.seq ≤ high) → (∃ y, y ∈ s.host.ring ∧ y.2.seq = low) →
      (∃ y, y ∈ s.host.ring ∧ y.2.seq = high) →
      Answered s port (.journalRead port) 2 0 (natLE 8 first ++ natLE 2 count ++ natLE 6 0) (fun k => k < 16)
        (natLE 8 low ++ natLE 8 high ++ (List.range count).flatMap fun i => ((s.entry (first + i)).map JEntry.toBytes).getD [])
        fun t => { t with host := s.host } = s) ∧
    (∃ t, exec (.hostPortFailure port) s = .next t ∧ t.host.portsUp.toList.getD port.val true = false ∧
      (∀ q : Fin 2, q ≠ port → t.host.portsUp.toList.getD q.val true = s.host.portsUp.toList.getD q.val true) ∧
      { t.host with portsUp := s.host.portsUp } = s.host ∧ { t with host := s.host } = s ∧ t.portFor port.val = 1 - port.val)

/-- R327-R334, R81: management requests, the journal and the ports. -/
def Obligations.ManagementAndJournal : Prop := ruleManagementRequests ∧ ruleJournalAndPorts

/-! ## Pod launches and boot -/

/-- A pod-launch message whose fields fit (R91). -/
def PodFits (m : PodMsg) : Prop :=
  0 < m.gen ∧ m.gen < 2 ^ 32 ∧ m.origin < 64 ∧ m.members < 2 ^ 64 ∧ m.members.testBit m.origin = true ∧ m.queue < 256 ∧
  m.tenant < 2 ^ 16 ∧ m.packet.length = 64 ∧ bit (fieldAt m.packet 14 1) 2 = false ∧ m.time < 2 ^ 64 ∧ m.kind < 256

/-- R83, R91-R93: a newer beacon arms a kernel and is acknowledged, or is refused; a repeat is acknowledged again, a stale one dropped;
the start message, the abort and the time-outs at a member; acknowledgements, refusals and the time-out at the origin. At the origin
itself the kernel takes the entry of the command. The model's choices: an abort gives code 0 (log 24); the time of a refusal and of an
abort is 0 (log 47). -/
def Obligations.PodLaunches : Prop :=
  ∀ (s : State) (m : PodMsg) (c k T : Nat) (p : Packet) (i : Image) (g : Nat × Nat × Nat) (P : PodStart) (o : PodOrigin) (src : Fin 64),
    let Q := s.queue m.queue
    let newer := Tbl.get? s.flash.gLast m.queue = none ∨ (Tbl.get? s.flash.gLast m.queue = some g ∧
      1 ≤ (m.gen + 2 ^ 32 - g.1) % 2 ^ 32 ∧ (m.gen + 2 ^ 32 - g.1) % 2 ^ 32 < 2 ^ 31)
    let id := c * 2 ^ 56 + m.queue * 2 ^ 48 + (Q.count + 1)
    let K := s.kernel k
    let sends (t : State) (m : PodMsg) : Prop := t.host.out = .pod m.toBytes :: s.host.out
    let fails (j : Instr) (code : Nat) : Prop := ∃ t, exec j s = .next t ∧ (t.kernel k).st = .failed ∧ (t.kernel k).code = code ∧
      (t.kernel k).noGroups = true ∧ ∀ g, (t.group g).place = (s.group g).place
    let fromOrigin (kind time : Nat) : PodMsg := ⟨o.gen, s.mod, o.queue, o.tenant, o.members, o.packet, time, kind⟩
    let mine := s.disp.origins.find? fun o => o.queue == m.queue && o.gen == m.gen
    let gone (t : State) : Prop := t.disp.origins = s.disp.origins.filter fun x => !(x.queue == o.queue && x.gen == o.gen)
    let ended (t : State) (st code : Nat) : Prop := ∀ e, Tbl.get? s.host.ring ((o.jseq - 1) % 32768) = some e → e.seq = o.jseq →
      o.jseq ≠ 0 → e.st < 2 → Tbl.get? t.host.ring ((o.jseq - 1) % 32768) = some { e with st := st, code := code }
    (PodFits m → parsePod m.toBytes = some m) ∧
    (PodFits m → m.kind = 1 → m.time = 0 → m.members.testBit s.mod = true → s.boot = .ready →
      (newer → s.checkBeacon m = none → ∃ t, exec (.podLaunchBeacon m.toBytes) s = .next (t.sendPod { m with kind := 3, time := 0 }) ∧
        t = s.meets t ∧ (s.memory.errs = [] → t = s)) ∧
      (newer → s.checkBeacon m = some (c, p, i) → (m.origin ≠ s.mod ∨ mine = none) →
        (p.concurrent = true ∨ ∀ k, Q.last = some k → (s.kernel k).st ≠ .failed) →
        (p.hasProducer = true → (s.kernel p.producer).st ≠ .failed) →
        ∃ t e, exec (.podLaunchBeacon m.toBytes) s = .next t ∧ sends t { m with kind := 2, time := s.time.hi } ∧
          Tbl.get? t.flash.gLast m.queue = some (m.gen, m.origin, s.time.hi) ∧ (t.kernel id).st = .armed ∧ (t.kernel id).gen = m.gen ∧
          (t.kernel id).pkt = p ∧ (t.kernel id).img = i ∧
          (t.kernel id).pod = some { gen := m.gen, origin := m.origin, members := m.members, ackAt := s.now } ∧
          (t.queue m.queue).cmds = Q.cmds ∧ (t.queue m.queue).last = some id ∧ t.host.seq = s.host.seq + 1 ∧
          Tbl.get? t.host.ring ((s.host.seq - 1) % 32768) = some e ∧ e.kind = 2 ∧ e.queue = m.queue ∧ e.ctx = c ∧ e.kernel = id) ∧
      (newer → s.checkBeacon m = some (c, p, i) → m.origin = s.mod → mine = some o →
        (p.concurrent = true ∨ ∀ k, Q.last = some k → (s.kernel k).st ≠ .failed) →
        (p.hasProducer = true → (s.kernel p.producer).st ≠ .failed) →
        ∃ t, exec (.podLaunchBeacon m.toBytes) s = .next t ∧ sends t { m with kind := 2, time := s.time.hi } ∧
          Tbl.get? t.flash.gLast m.queue = some (m.gen, m.origin, s.time.hi) ∧ (t.kernel id).st = .armed ∧ (t.kernel id).pkt = p ∧
          (t.kernel id).img = i ∧ (t.kernel id).jseq = o.jseq ∧ t.disp.origins = s.disp.origins ∧ t.host.seq = s.host.seq ∧
          ∀ e, Tbl.get? s.host.ring ((o.jseq - 1) % 32768) = some e → e.seq = o.jseq →
            Tbl.get? t.host.ring ((o.jseq - 1) % 32768) = some { e with kernel := id }) ∧
      (Tbl.get? s.flash.gLast m.queue = some g → g.1 < 2 ^ 32 →
        (m.gen = g.1 → m.origin = g.2.1 →
          exec (.podLaunchBeacon m.toBytes) s = .next (s.sendPod { m with kind := 2, time := g.2.2 })) ∧
        (¬ newer → (m.gen ≠ g.1 ∨ m.origin ≠ g.2.1) → exec (.podLaunchBeacon m.toBytes) s = .next s))) ∧
    (PodFits m → m.kind = 4 → s.armedFor m = some k → K.st = .armed → K.pod = some P →
      (P.startT = none → ∃ t, exec (.podLaunchStart m.toBytes) s = .next t ∧
        t.kernel k = { K with pod := some { P with startT := some m.time, startAt := s.now, attested := false } }) ∧
      (P.startT ≠ none → ∃ t, exec (.podLaunchStart m.toBytes) s = .next t ∧ t.kernel k = K)) ∧
    (PodFits m → m.kind = 5 → s.armedFor m = some k → K.st = .armed → fails (.podLaunchAbort m.toBytes) 0) ∧
    (K.st = .armed → K.pod = some P →
      (P.startT = none → (s.passed P.ackAt 1000000 = true → fails (.startTimeout k) 0x10) ∧
        (s.passed P.ackAt 1000000 = false → exec (.startTimeout k) s = .next s) ∧ exec (.armedKernelStart k) s = .next s) ∧
      (P.startT = some T →
        (s.time.tclk = .dark → P.attested = false → s.passed P.startAt 1000000 = true → fails (.darkStartTimeout k) 0x0A) ∧
        ((s.time.tclk ≠ .dark ∨ P.attested = true ∨ s.passed P.startAt 1000000 = false) → exec (.darkStartTimeout k) s = .next s) ∧
        (T < s.time.lo → ∃ t, exec (.armedKernelStart k) s = .next t ∧ t.kernel k = { K with st := .queued } ∧
          k ∈ (t.queue K.queue).cmds ∧ (∀ j, j ∈ (s.queue K.queue).cmds → j ∈ (t.queue K.queue).cmds) ∧
          ((s.queue K.queue).cmds.Pairwise (· < ·) → k ∉ (s.queue K.queue).cmds → (t.queue K.queue).cmds.Pairwise (· < ·))) ∧
        (s.time.lo ≤ T → exec (.armedKernelStart k) s = .next s))) ∧
    (PodFits m → m.origin = s.mod → s.disp.origins.find? (fun o => o.queue == m.queue && o.gen == m.gen) = some o →
      m.members.testBit src.val = true →
      (m.kind = 2 → (∀ j, j < 64 → o.members.testBit j = true → j ≠ src.val → Tbl.has o.acks j = true) →
        (∀ e, e ∈ o.acks → e.2 ≤ m.time) → m.time + 2000 < 2 ^ 64 →
        ∃ t, exec (.podLaunchAcknowledgement src m.toBytes) s = .next t ∧ gone t ∧ sends t (fromOrigin 4 (m.time + 2000))) ∧
      (m.kind = 2 → (∃ j, j < 64 ∧ o.members.testBit j = true ∧ j ≠ src.val ∧ Tbl.has o.acks j = false) →
        ∃ t y, exec (.podLaunchAcknowledgement src m.toBytes) s = .next t ∧ t.host = s.host ∧
          t.disp.origins.find? (fun o => o.queue == m.queue && o.gen == m.gen) = some { o with acks := y } ∧
          Tbl.get? y src.val = some m.time ∧ ∀ j, j ≠ src.val → Tbl.get? y j = Tbl.get? o.acks j) ∧
      (m.kind = 3 → ∃ t, exec (.podLaunchRefusal src m.toBytes) s = .next t ∧ gone t ∧ sends t (fromOrigin 5 0) ∧ ended t 4 0)) ∧
    (s.disp.origins.find? (fun o => o.queue == k && s.passed o.since 200000) = some o →
      ∃ t, exec (.acknowledgementTimeout k) s = .next t ∧ gone t ∧ sends t (fromOrigin 5 0) ∧ ended t 3 0x10) ∧
    (s.disp.origins.find? (fun o => o.queue == k && s.passed o.since 200000) = none → exec (.acknowledgementTimeout k) s = .next s)

/-- R279, R299, R304, R325, R326: power-on keeps what flash holds; images are verified, and an older version or a signature leaf seen
before is rejected; training retires what fails and needs one link; the snuff records are applied before the module is ready. The
model's choices: the state at power-on (logs 4, 5 and 78: the time unit, memory and contexts are empty, the host keys and their counters
stay); the leaf, kind and version of an image, and that none at all halts (log 6); the pod's modules are those of the switch report (log
49); where the service kernel stands (log 48). -/
def Obligations.Boots : Prop :=
  ∀ (s : State) (x y : ImageFile) (failed : List Nat) (ports : SwitchReport) (u l p : Nat) (q : Snuff) (before after : List Snuff),
    let kind := Config.imageKind x.bytes
    let signed := Config.verifies (Config.digest x.bytes) x.signature
    let powered (t : State) (b : BootSt) : Prop := t.boot = b ∧ t.flash = s.flash ∧ t.groups = [] ∧ t.ctxs = [] ∧ t.memory = {} ∧
      t.disp = {} ∧ t.cores = [] ∧ t.time = {} ∧ t.now = 0 ∧ t.lamp.hours0 = s.flash.life.hours ∧
      t.lamp.retirements = s.flash.life.retired ∧ t.lamp.gen = 0 ∧ (∀ e, e ∈ s.flash.journal → e.seq < t.host.seq) ∧
      (∀ v n, Tbl.get? s.flash.life.scores v = some n → (t.unit v).score = n) ∧
      (∀ r, r ∈ t.host.recent ↔ r ∈ s.host.recent ∧ ∃ e, e ∈ s.flash.journal ∧ e.seq = r.seq) ∧
      t.host.keys = s.host.keys ∧ t.host.lastCtr = s.host.lastCtr ∧ t.host.replyCtr = s.host.replyCtr
    (s.boot = .off → ∃ t, exec .supplyInRange s = .next t ∧ powered t .verifying) ∧
    (s.boot ≠ .off → exec .supplyInRange s = .next s) ∧
    (∃ t, exec .uncleanReset s = .next t ∧ powered t .off) ∧
    ((Config.imageVersion x.bytes).toNat < Tbl.getD s.flash.versions kind 0 ∨ Config.leaf x.signature ∈ s.flash.leaves → s.imageOk x = false) ∧
    ((s.seeLeaf x).flash.leaves = (if signed then s.flash.leaves ++ [Config.leaf x.signature] else s.flash.leaves)) ∧
    ((s.takeImage x).flash.leaves = (s.seeLeaf x).flash.leaves ∧
      Tbl.getD (s.takeImage x).flash.versions kind 0 = max (Config.imageVersion x.bytes).toNat (Tbl.getD s.flash.versions kind 0) ∧
      (kind, Config.digest x.bytes, (Config.imageVersion x.bytes).toNat) ∈ (s.takeImage x).host.images ∧
      ∀ n k, n < 16 → (Config.hostKeys x.bytes)[n]? = some k → Tbl.get? (s.takeImage x).host.keys n = some k) ∧
    (s.boot = .verifying → exec (.imageVerify []) s = .next { s with boot := .halted 1 } ∧
      exec (.imageVerify [x]) s = .next
        (if s.imageOk x then { s.takeImage x with boot := .training } else { s.seeLeaf x with boot := .halted 1 }) ∧
      (Config.leaf x.signature = Config.leaf y.signature →
        exec (.imageVerify [x, y]) s = .next { (s.seeLeaf x).seeLeaf y with boot := .halted 1 })) ∧
    ((s.boot = .starting ∨ s.boot = .ready) →
      exec (.imageVerify [x]) s = .next (if s.imageOk x then s.takeImage x else s.seeLeaf x)) ∧
    ((s.boot = .off ∨ s.boot = .training ∨ s.boot = .timing ∨ s.boot = .halted u) → exec (.imageVerify [x]) s = .next s) ∧
    (s.boot = .training → ∃ t, exec (.memoryLinkTraining failed ports) s = .next t ∧
      t.boot = (if t.anyLink then .timing else .halted 2) ∧
      (u ∈ failed → (leaseClass u = some 1 ∨ leaseClass u = some 2) → (s.unit u).st = .inService → (t.unit u).st = .retired) ∧
      t.pod.members = ports.pod.filter (fun m => m < 64) ∧
      ((l, p) ∈ ports.ports → (ports.ports.map Prod.fst).Nodup → l < 18 → p < 192 → (s.link l).st = .training →
        0x200 + 2 * l ∉ failed → (s.unit (0x200 + 2 * l)).inService = true →
          (t.link l).port = p ∧ (t.link l).carries = true ∧ (ports.ports = [(l, p)] → t.mod = p / 3))) ∧
    (s.boot ≠ .training → exec (.memoryLinkTraining failed ports) s = .next s) ∧
    (s.boot = .starting → ∃ t, exec .bootStarting s = .next t ∧ t.boot = .ready ∧
      (s.flash.snuffs = before ++ q :: after → (∀ r, r ∈ after → r.unit ≠ q.unit) →
        (t.unit q.unit).st = if q.reinstates then .inService else .retired) ∧
      ((∀ r, r ∈ s.flash.snuffs → r.unit ≠ u) → (t.unit u).st = (s.unit u).st ∧ (s.memory.errs = [] → t.unit u = s.unit u)) ∧
      (s.groups = [] → s.cores = [] → s.disp = {} → ∀ e, e ∈ t.groups → (t.unit e.2.unit).inService = true)) ∧
    (s.boot ≠ .starting → exec .bootStarting s = .next s)
/-! ## Steps, words and the state after reset -/

/-- The words that stand at `a` in memory, read through the context's translation on the group's die, whose bridges carry the reads
(R27, R258, R278). -/
def CodeAt (s : State) (a : DWord) (ws : List Word) : Prop :=
  ∀ k w, ws[k]? = some w → ∃ pa l, s.xlate (unitDie s.cu) s.cctx (a + BitVec.ofNat 64 (4 * k)).toNat .fetch = .ok pa l ∧
    s.bridgeOk s.cu (homeOf pa) = true ∧ s.poisonedAt pa 4 = false ∧ w = BitVec.ofNat 32 (leNat (s.bytesAt pa 4))

/-- Log 1, R27, R115: a step is the first event of the agenda, run after its time has passed, but of commands that arrive on both
ports at the same instant those on port 0 come first, and what arrives with them does not come between the two (R328, log 25); where the
event latches an instruction, the step goes on with it. -/
def ruleStepsRunTheAgenda : Prop :=
  ∀ (s : State) (n : Nat) (e : Instr) (r : List (Nat × Instr)) (t : State),
    let steps : Prop := (t.latch = none → step s = .next t) ∧ (∀ i, t.latch = some i → step s = exec i { t with latch := none })
    let other (p q : Fin 2) (mid rest : List (Nat × Instr)) (f : Instr) : Prop := commandPort e = some p ∧ commandPort f = some q ∧
      p ≠ q ∧ r = mid ++ (0, f) :: rest ∧ ∀ x, x ∈ mid → x.1 = 0 ∧ commandPort x.2 ≠ some q
    s.agenda = (n, e) :: r →
    ((∀ p q mid rest f, ¬ other p q mid rest f) → exec e { ({ s with agenda := r } : State).elapse n with latch := none } = .next t →
      steps) ∧
    (∀ mid rest f, other 1 0 mid rest f →
      exec f { ({ s with agenda := (0, e) :: (mid ++ rest) } : State).elapse n with latch := none } = .next t → steps) ∧
    (∀ mid rest f, other 0 1 mid rest f →
      exec e { ({ s with agenda := (0, f) :: (mid ++ rest) } : State).elapse n with latch := none } = .next t → steps)

/-- R325: a halted module with nothing left in its agenda and no reply to send has stopped (the model's reading of R325: log 17). -/
def ruleHaltedModuleStops : Prop :=
  ∀ (s : State) (k : Nat), s.boot = .halted k → s.agenda = [] → (∀ r, r ∈ s.host.recent → r.sent = true) → step s = .fault (.halted k)

/-- R23, R24, R27, R115, R186: where decoder 0 of a scheduler chooses a split that stands inside its clause, and nothing holds
the instruction whose words stand at its pc, ISSUE latches that instruction, and the step is its meaning at the cursor of that
split; its fetch meets the stored errors of the lines it reads (R13, log 67). -/
def ruleIssueRunsTheDecodedInstruction : Prop :=
  ∀ (s : State) (n u k g w sl len stl port : Nat) (r : List (Nat × Instr)) (ws : List Word) (d : Decoded) (i : Instr) (y : Split)
      (ls : List Leaf),
    let s₀ : State := { ({ s with agenda := r } : State).elapse n with latch := none }
    let p₀ := (s₀.settleCore u).pickAll u
    let s₁ := (if k = 0 then p₀.beginCycle u else p₀).modCore u fun c => { c with pos := 2 * k + 1 }
    let s₂ := (s₁.modWave g w fun W => { W with yielded := false }).modSplit g w sl fun x => { x with claimed := true }
    let x : Split := { s₂.split g w sl with wait := {}, block := .none }
    let here : State := { s₂ with cur := ⟨g, w, sl, 1, 0⟩ }
    let taken : State := { (s₂.modCore u fun c => { c with
        first := some (g, w, sl, port, x.members), claims := Tbl.set c.claims k (g, w, sl) }) with
      cur := ⟨g, w, sl, ws.length, [0, 1, 3, 7].getD d.stall.val 0⟩ }
    let reads : List (Nat × Acc) := (List.range ws.length).map fun j => ((x.pc + BitVec.ofNat 64 (4 * j)).toNat, .fetch)
    let runs : State := (((taken.touchVas reads).modSp fun _ => x).keepAll ls).modW fun W =>
      { W with chk := W.chkNext.getD W.chk, chkNext := none }
    isUnit u = true → k < 4 → s.agenda = (n, .issue u) :: r → (p₀.core u).pos = 2 * k →
    s₁.choose0 u k = some (g, w, sl) → x.entering = .no →
    CodeAt here x.pc ws → decode ws = .ok d → (∀ j, 0 < j → j < ws.length → decode (ws.take j) = .error .truncated) →
    s₂.peek u g w sl false = .run y i len stl port ls →
    i = d.instr ∧ i.wf = true ∧ len = ws.length ∧ stl = [0, 1, 3, 7].getD d.stall.val 0 ∧ y = x ∧
    exec (.issue u) s₀ = .next { runs with latch := some d.instr } ∧ step s = exec d.instr { runs with latch := none }

/-- Log 1, R23, R24, R27, R115, R186, R325: a step runs the instruction that the words at the chosen split's pc decode to. That a halted
module with nothing to do stops is the model's reading (log 17). -/
def Obligations.StepsRunTheDecodedInstruction : Prop :=
  ruleStepsRunTheAgenda ∧ ruleHaltedModuleStops ∧ ruleIssueRunsTheDecodedInstruction

/-- R19, R20, R21, R36, R119, R126: what keeps a word from running. A malformed header is ILLEGAL; a header whose waits are not met
waits; a word of another class, or one that is not well formed, is ILLEGAL; under CHK an early read is STALL; a poisoned source is
consumed. A header's wait is evaluated once: where it is met, the cycle's start brings the split to the clause's first word. That ILLEGAL
comes before the waits, and STALL before poison, is the model's reading (log 28). -/
def Obligations.ClausesAndChecksAtIssue : Prop :=
  ∀ (m : State) (u g w sl : Nat),
    let s : State := { m with cur := ⟨g, w, sl, 1, 0⟩ }
    let x : Split := { s.csp with wait := {}, block := .none }
    let t := s.modSp fun _ => x
    let q := m.peek u g w sl false
    s.held u false = false →
    (∀ h, x.entering = .checked → CodeAt s x.pc [h] →
      let N := h.toNat / 2 ^ 28
      let cls := h.toNat / 2 ^ 25 % 8
      let exceeds (lo count : Nat) : Prop := h.toNat / 2 ^ lo % 8 ≠ 7 ∧ h.toNat / 2 ^ lo % 8 < count
      ((N = 0 ∨ 6 ≤ cls ∨ h.toNat % 2 ^ 12 ≠ 0) → q = .fault x cIllegal (N + 1) 9) ∧
      (N ≠ 0 → cls < 6 → h.toNat % 2 ^ 12 = 0 → (exceeds 22 s.cw.vmc ∨ exceeds 19 s.cw.smc ∨ exceeds 16 s.cw.mxc ∨ exceeds 13 s.cw.cpc) → q = .wait) ∧
      (N ≠ 0 → cls < 6 → h.toNat % 2 ^ 12 = 0 → ¬ (exceeds 22 s.cw.vmc ∨ exceeds 19 s.cw.smc ∨ exceeds 16 s.cw.mxc ∨ exceeds 13 s.cw.cpc) →
        (m.enterSplit u (g, w, sl)).split g w sl = { x with
          ctx := { hdr := x.pc, n := N, cls := cls, chk := h.toNat.testBit 12, idx := 0 }, pc := x.pc + 4, entering := .no })) ∧
    (∀ ws d, x.entering = .no → CodeAt s x.pc ws → decode ws = .ok d →
      (∀ j, 0 < j → j < ws.length → decode (ws.take j) = .error .truncated) → ws.length ≤ 3 → x.ctx.idx + ws.length ≤ x.ctx.n →
      let w0 := (ws.headD 0).toNat
      let major := w0 / 2 ^ 24 % 64
      let fn := w0 / 2 ^ 21 % 8
      let U := t.uses d.instr
      let fine := (∀ c, classOf major fn = some c → c = x.ctx.cls) ∧ d.instr.wf = true ∧ U.allocOk t.alloc = true
      let full := counterOf major fn ≠ .none ∧ 63 ≤ t.cw.count (counterOf major fn)
      let fenced := heldByFence major fn = true ∧ t.cw.fences ≠ []
      let free := t.cw.pendingOn U = false ∧ ¬ full ∧ ¬ fenced ∧ (∀ l, t.lineFor d.instr ≠ some (l, true)) ∧ t.issueWaits d.instr = false
      let early := t.cw.readsEarly t.cyc (if portOf major = 1 then U.everyLane else U) = true
      let bad := t.cw.readsPoison (U.unmarked d.instr) || t.readsBadTable d.instr (heldByFence major fn)
      (¬ fine → q = .fault x cIllegal ws.length (portOf major)) ∧
      (fine → t.cw.pendingOn U = true ∨ full ∨ fenced → q = .wait) ∧
      (fine → t.cw.pendingOn U = false → ¬ full → ¬ fenced → ∀ l, t.lineFor d.instr = some (l, true) → q = .line l) ∧
      (fine → t.cw.pendingOn U = false → ¬ full → ¬ fenced → t.issueWaits d.instr = true →
        q = match t.lineFor d.instr with | some l => .line l.1 | none => .wait) ∧
      (fine → free → (x.ctx.chk || t.cw.chkNext.getD t.cw.chk) = true → early → q = .fault x cStall ws.length (portOf major)) ∧
      (fine → free → ¬ early →
        (bad = true → q = .poison x (commits d.instr) (portOf major)) ∧
        (bad = false → ∃ ls, q = .run x d.instr ws.length ([0, 1, 3, 7].getD d.stall.val 0) (portOf major) ls))) ∧
    (∀ h, x.entering = .no → CodeAt s x.pc [h] → decode [h] = .error .unassigned → ∃ n p, q = .fault x cIllegal n p)

/-- 03_encoding.md: words that the manual writes out, of every family, decode to the instructions it gives for them. -/
def Obligations.WrittenWordsDecode : Prop :=
  let r (l : List Word) (st : Fin 4) (i : Instr) : Prop := decode l = .ok ⟨st, i⟩
  r [0x00800000] 0 .join ∧ r [0x00608005, 5] 0 (.bdiv 1 5 5) ∧ r [0x0041FFFE] 0 (.brc 3 (.near 0x7FFE)) ∧
  r [0x00A10004] 0 (.brk 2 (.near 4)) ∧ r [0x018001FF] 0 (.waitc 0 7 7 7) ∧ r [0x41A00020, 0x400] 1 (.setfmt 0x400) ∧
  r [0x02018210] 0 (.mand 3 1 2) ∧ r [0x02620200] 0 (.voteAny 4 1) ∧ r [0x04420A30] 0 (.smul 4 5 6) ∧ r [0x05A3A400] 0 (.srd 7 0x12) ∧
  r [0x05CA0600] 0 (.swr 0x14 3) ∧ r [0x46418488] 1 (.scmpImm 3 2 2 (.small 8)) ∧ r [0x464206A0, 0x80] 1 (.scmpImm 4 3 2 (.lit 0x80)) ∧
  r [0x09630011] 0 (.exitK 6 0x11) ∧ r [0x90010103] 2 (.vaddI32 4 2 3) ∧ r [0x12413C6B] 0 (.vmulI32Vi 4 (.short .lane) (.neg 11)) ∧
  r [0x9200BC70, 0x1F4] 2 (.vaddI32Vi 2 (.short .lane) (.lit 0x1F4)) ∧ r [0x93E57C4A] 2 (.vcmpVi 1 5 (.short .lane) (.imm 10)) ∧
  r [0x95618103] 2 (.vfma 6 2 3) ∧ r [0x9640C101] 2 (.vcvt 3 2 0 1) ∧ r [0x9700C106] 2 (.vtanh 3 2) ∧ r [0x98410100] 2 (.vred 4 2 0) ∧
  r [0x18C00483] 0 (.xsend 9 0 3) ∧ r [0x28008148] 0 (.ldg 2 (.lane 1 2) 0) ∧ r [0x2800C188, 0x80] 0 (.ldg 3 (.laneDisp 1 2 0x80) 0) ∧
  r [0x282081C8, 0x08000100] 0 (.stg 2 (.vreg 1 2 0x08000100) 0) ∧ r [0x2861808D, 0x100] 0 (.stsp 6 (.laneDisp 0 3 0x100) 1) ∧
  r [0x28A00143] 0 (.fence 5 3) ∧ r [0x29014188, 0x200] 0 (.atomAdd 5 (.laneDisp 1 0x200) 0 2 0) ∧
  r [0x2A004004, 0x100] 0 (.cpy 0 1 0 1 0 0x100) ∧ r [0x2A820600] 0 (.ftest 4 3) ∧ r [0x3020019C, 0x200] 0 (.mxra 0 (.laneDisp 1 7 0x200) 0) ∧
  r [0x31002400] 0 (.mxmac 0 1 1) ∧ r [0x30A00100, 0x5200] 0 (.mxdrn 0 (.base 1 0x5200) 0) ∧ r [0x38000018] 0 (.tapcfg 0 3) ∧
  r [0x3CE18100, 0x40] 0 (.sig 6 (.base 1 0x40)) ∧ r [0x3D428840] 0 (.barArvCount 5 4 0) ∧ r [0x3DC20A32] 0 (.mbxSend 4 5 6 2) ∧
  r [0x3E420A30] 0 (.launch 4 5 6) ∧ r [0x3EE00000] 0 .halt

/-- R239, R325, R156 and the model's choices (logs 3, 4 and 5): the machine right after reset. No supply yet, no context, kernel or
group, TCLK dark, and memory that reads zero (log 5). From it nothing but time passes until the supply is in range (log 1). -/
def Obligations.ResetState : Prop :=
  let s := State.reset
  s.boot = .off ∧ s.mod = 0 ∧ s.agenda = [] ∧ s.latch = none ∧ s.ctxs = [] ∧ s.groups = [] ∧ s.disp.kernels = [] ∧ s.txs = [] ∧
  s.time.tclk = .dark ∧ s.memory.writes = [] ∧ s.memory.poison = [] ∧ (∀ a, s.byteAt a = 0) ∧ (∀ g a, s.scratchRead g a = 0) ∧
  s.flash.journal = [] ∧ s.host.seq = 1 ∧ s.host.keys = [] ∧ (∀ u, s.unit u = {}) ∧ (∀ c, s.ctx c = {}) ∧ s.canonical ∧
  ∃ t, step s = .next t ∧ t.boot = .off ∧ t.now = 1 ∧ t.groups = [] ∧ ∀ a, t.byteAt a = 0

/-- 03_encoding.md: decoding the words of a well-formed instruction, whatever follows them, gives that instruction and its stall code,
for every operand at every value the encoding admits. -/
def Obligations.DecodeOfEncode : Prop :=
  ∀ (i : Instr) (stl : Fin 4) (rest : List Word), i.wf = true → encode stl i ≠ [] → decode (encode stl i ++ rest) = .ok ⟨stl, i⟩

/-- R11, R156: every step keeps the memory and every allocation in canonical form, whatever the instruction or event. -/
def Obligations.StepsKeepCanonicalForm : Prop := ∀ (s t : State), s.canonical → step s = .next t → t.canonical
end

