-- ==== Sys2Proof/Laws/Tbl.lean ====
section
/-! SUPPORT. Laws of the finite tables and of memory: a read after a write, and that every operation keeps the canonical form. -/

namespace Sys2Proof.Machine

variable {α : Type}

/-! ## Tables -/

@[simp] theorem Tbl.get?_set_self (t : Tbl α) (k : Nat) (v : α) : Tbl.get? (Tbl.set t k v) k = some v := by
  induction t with
  | nil => simp [Tbl.set, Tbl.get?]
  | cons e r ih =>
    obtain ⟨j, x⟩ := e
    simp only [Tbl.set]
    split
    · simp [Tbl.get?]
    · split
      · simp [Tbl.get?]
      · simp only [Tbl.get?]
        rw [if_neg (by omega), ih]

theorem Tbl.get?_set_of_ne (t : Tbl α) {k j : Nat} (v : α) (h : j ≠ k) : Tbl.get? (Tbl.set t k v) j = Tbl.get? t j := by
  induction t with
  | nil => simp only [Tbl.set, Tbl.get?]; rw [if_neg (by omega)]
  | cons e r ih =>
    obtain ⟨i, x⟩ := e
    simp only [Tbl.set]
    split
    · simp only [Tbl.get?]; rw [if_neg (by omega)]
    · split
      · subst_vars; simp only [Tbl.get?]; rw [if_neg (by omega), if_neg (by omega)]
      · simp only [Tbl.get?, ih]

theorem Tbl.get?_set (t : Tbl α) (k j : Nat) (v : α) :
    Tbl.get? (Tbl.set t k v) j = if j = k then some v else Tbl.get? t j := by
  split
  · subst_vars; exact Tbl.get?_set_self t _ v
  · exact Tbl.get?_set_of_ne t v ‹_›

@[simp] theorem Tbl.getD_set_self (t : Tbl α) (k : Nat) (v d : α) : Tbl.getD (Tbl.set t k v) k d = v := by
  simp [Tbl.getD]

theorem Tbl.getD_set_of_ne (t : Tbl α) {k j : Nat} (v d : α) (h : j ≠ k) :
    Tbl.getD (Tbl.set t k v) j d = Tbl.getD t j d := by
  simp [Tbl.getD, Tbl.get?_set_of_ne t v h]

@[simp] theorem Tbl.get?_del_self (t : Tbl α) (k : Nat) : Tbl.get? (Tbl.del t k) k = none := by
  induction t with
  | nil => rfl
  | cons e r ih =>
    obtain ⟨j, x⟩ := e
    simp only [Tbl.del]
    split
    · exact ih
    · simp only [Tbl.get?]; rw [if_neg ‹_›, ih]

theorem Tbl.get?_del_of_ne (t : Tbl α) {k j : Nat} (h : j ≠ k) : Tbl.get? (Tbl.del t k) j = Tbl.get? t j := by
  induction t with
  | nil => rfl
  | cons e r ih =>
    obtain ⟨i, x⟩ := e
    simp only [Tbl.del]
    split
    · subst_vars; simp only [Tbl.get?]; rw [if_neg (by omega), ih]
    · simp only [Tbl.get?, ih]

theorem Tbl.get?_mapVals (t : Tbl α) (f : α → α) (k : Nat) : Tbl.get? (Tbl.mapVals t f) k = (Tbl.get? t k).map f := by
  induction t with
  | nil => rfl
  | cons e r ih =>
    obtain ⟨j, x⟩ := e
    simp only [Tbl.mapVals, List.map_cons, Tbl.get?]
    split
    · rfl
    · exact ih

/-- Writing what a table holds changes nothing that is read. -/
theorem Tbl.get?_set_get (t : Tbl α) (k : Nat) (v : α) (h : Tbl.get? t k = some v) (j : Nat) :
    Tbl.get? (Tbl.set t k v) j = Tbl.get? t j := by
  rw [Tbl.get?_set]; split
  · subst_vars; exact h.symm
  · rfl

theorem Tbl.set_set (t : Tbl α) (k : Nat) (u v : α) : Tbl.set (Tbl.set t k u) k v = Tbl.set t k v := by
  induction t with
  | nil => simp [Tbl.set]
  | cons e r ih =>
    obtain ⟨j, x⟩ := e
    simp only [Tbl.set]
    split
    · simp [Tbl.set]
    · split
      · simp [Tbl.set]
      · simp only [Tbl.set]; rw [if_neg ‹_›, if_neg ‹_›, ih]

/-! ## The canonical form of a table -/

theorem Tbl.wf_tail {e : Nat × α} {r : Tbl α} (h : Tbl.wf (e :: r) = true) : Tbl.wf r = true := by
  cases r with
  | nil => rfl
  | cons f r => obtain ⟨j, x⟩ := e; obtain ⟨k, y⟩ := f; simp only [Tbl.wf, Bool.and_eq_true] at h; exact h.2

theorem Tbl.wf_cons_lt {j k : Nat} {x y : α} {r : Tbl α} (h : Tbl.wf ((j, x) :: (k, y) :: r) = true) : j < k := by
  simp only [Tbl.wf, Bool.and_eq_true, decide_eq_true_eq] at h; exact h.1

/-- A rising table stays rising under a new head below its first key. -/
theorem Tbl.wf_cons {j : Nat} {x : α} {r : Tbl α} (hr : Tbl.wf r = true) (h : ∀ k y q, r = (k, y) :: q → j < k) :
    Tbl.wf ((j, x) :: r) = true := by
  cases r with
  | nil => rfl
  | cons f r => obtain ⟨k, y⟩ := f; simp only [Tbl.wf, Bool.and_eq_true, decide_eq_true_eq]; exact ⟨h k y r rfl, hr⟩

/-- The first key of a table after a write. -/
theorem Tbl.set_head (t : Tbl α) (k : Nat) (v : α) (m : Nat) (hk : m < k) (ht : ∀ j y q, t = (j, y) :: q → m < j) :
    ∀ j y q, Tbl.set t k v = (j, y) :: q → m < j := by
  intro j y q h
  cases t with
  | nil => simp only [Tbl.set, List.cons.injEq, Prod.mk.injEq] at h; omega
  | cons e r =>
    obtain ⟨i, x⟩ := e
    have hi := ht i x r rfl
    simp only [Tbl.set] at h
    split at h
    · simp only [List.cons.injEq, Prod.mk.injEq] at h; omega
    · split at h
      · simp only [List.cons.injEq, Prod.mk.injEq] at h; omega
      · simp only [List.cons.injEq, Prod.mk.injEq] at h; omega

theorem Tbl.wf_set (t : Tbl α) (k : Nat) (v : α) (h : Tbl.wf t = true) : Tbl.wf (Tbl.set t k v) = true := by
  induction t with
  | nil => rfl
  | cons e r ih =>
    obtain ⟨j, x⟩ := e
    simp only [Tbl.set]
    split
    · exact Tbl.wf_cons h (by intro i y q e; simp only [List.cons.injEq, Prod.mk.injEq] at e; omega)
    · split
      · subst_vars
        exact Tbl.wf_cons (Tbl.wf_tail h) (by intro i y q e; subst e; exact Tbl.wf_cons_lt h)
      · exact Tbl.wf_cons (ih (Tbl.wf_tail h))
          (Tbl.set_head r k v j (by omega) (by intro i y q e; subst e; exact Tbl.wf_cons_lt h))

/-! ## Memory -/

@[simp] theorem Mem.read_nil (a : Nat) : Mem.read [] a = Mem.unlisted := rfl

theorem Mem.wf_tail {e : Host.Cell} {r : Mem} (h : Mem.wf (e :: r) = true) : Mem.wf r = true := by
  cases r with
  | nil => rfl
  | cons f r => obtain ⟨j, x⟩ := e; obtain ⟨k, y⟩ := f; simp only [Mem.wf, Bool.and_eq_true] at h; exact h.2

theorem Mem.wf_cons_lt {j k : Nat} {x y : Byte} {r : Mem} (h : Mem.wf ((j, x) :: (k, y) :: r) = true) : j < k := by
  simp only [Mem.wf, Bool.and_eq_true, decide_eq_true_eq] at h; exact h.1.2

theorem Mem.wf_cons_ne {j : Nat} {x : Byte} {r : Mem} (h : Mem.wf ((j, x) :: r) = true) : x ≠ Mem.unlisted := by
  cases r with
  | nil => simpa [Mem.wf] using h
  | cons f r => obtain ⟨k, y⟩ := f; simp only [Mem.wf, Bool.and_eq_true, bne_iff_ne] at h; exact h.1.1

theorem Mem.wf_cons {j : Nat} {x : Byte} {r : Mem} (hx : x ≠ Mem.unlisted) (hr : Mem.wf r = true)
    (h : ∀ k y q, r = (k, y) :: q → j < k) : Mem.wf ((j, x) :: r) = true := by
  cases r with
  | nil => simpa [Mem.wf] using hx
  | cons f r =>
    obtain ⟨k, y⟩ := f
    simp only [Mem.wf, Bool.and_eq_true, decide_eq_true_eq, bne_iff_ne]
    exact ⟨⟨hx, h k y r rfl⟩, hr⟩

/-- Nothing below the first listed address is listed. -/
theorem Mem.read_below (m : Mem) (a : Nat) (h : Mem.wf m = true) (hb : ∀ j y q, m = (j, y) :: q → a < j) :
    Mem.read m a = Mem.unlisted := by
  induction m with
  | nil => rfl
  | cons e r ih =>
    obtain ⟨j, x⟩ := e
    have := hb j x r rfl
    simp only [Mem.read]
    rw [if_neg (by omega)]
    exact ih (Mem.wf_tail h) (by intro k y q e; subst e; have := Mem.wf_cons_lt h; omega)

/-- The first listed address after a write. -/
theorem Mem.write_head (m : Mem) (a : Nat) (b : Byte) (n : Nat) (ha : n < a) (hm : ∀ j y q, m = (j, y) :: q → n < j)
    (hw : Mem.wf m = true) : ∀ j y q, Mem.write m a b = (j, y) :: q → n < j := by
  intro j y q h
  cases m with
  | nil =>
    simp only [Mem.write] at h
    split at h
    · cases h
    · simp only [List.cons.injEq, Prod.mk.injEq] at h; omega
  | cons e r =>
    obtain ⟨i, x⟩ := e
    have hi := hm i x r rfl
    simp only [Mem.write] at h
    split at h
    · split at h <;> simp only [List.cons.injEq, Prod.mk.injEq] at h <;> omega
    · split at h
      · split at h
        · subst h; have := Mem.wf_cons_lt hw; omega
        · simp only [List.cons.injEq, Prod.mk.injEq] at h; omega
      · simp only [List.cons.injEq, Prod.mk.injEq] at h; omega

/-- A write keeps the canonical form. -/
theorem Mem.wf_write (m : Mem) (a : Nat) (b : Byte) (h : Mem.wf m = true) : Mem.wf (Mem.write m a b) = true := by
  induction m with
  | nil => simp only [Mem.write]; split <;> simp_all [Mem.wf]
  | cons e r ih =>
    obtain ⟨j, x⟩ := e
    simp only [Mem.write]
    split
    · split
      · exact h
      · exact Mem.wf_cons ‹_› h (by intro k y q e; simp only [List.cons.injEq, Prod.mk.injEq] at e; omega)
    · split
      · split
        · exact Mem.wf_tail h
        · subst_vars
          exact Mem.wf_cons ‹_› (Mem.wf_tail h) (by intro k y q e; subst e; exact Mem.wf_cons_lt h)
      · exact Mem.wf_cons (Mem.wf_cons_ne h) (ih (Mem.wf_tail h))
          (Mem.write_head r a b j (by omega) (by intro k y q e; subst e; exact Mem.wf_cons_lt h) (Mem.wf_tail h))

theorem Mem.wf_writeBytes (bs : List Byte) : ∀ (m : Mem) (a : Nat), Mem.wf m = true → Mem.wf (Mem.writeBytes m a bs) = true := by
  induction bs with
  | nil => intro m a h; exact h
  | cons b r ih => intro m a h; exact ih _ _ (Mem.wf_write m a b h)

/-- A read after a write to the same address gives the value written. -/
theorem Mem.read_write_self (m : Mem) (a : Nat) (b : Byte) (h : Mem.wf m = true) : Mem.read (Mem.write m a b) a = b := by
  induction m with
  | nil => simp only [Mem.write]; split <;> simp_all [Mem.read]
  | cons e r ih =>
    obtain ⟨j, x⟩ := e
    simp only [Mem.write]
    split
    · split
      · subst_vars
        exact Mem.read_below _ _ h (by intro k y q e; simp only [List.cons.injEq, Prod.mk.injEq] at e; omega)
      · simp [Mem.read]
    · split
      · split
        · subst_vars
          exact Mem.read_below _ _ (Mem.wf_tail h) (by intro k y q e; subst e; exact Mem.wf_cons_lt h)
        · simp [Mem.read]
      · simp only [Mem.read]; rw [if_neg (by omega)]; exact ih (Mem.wf_tail h)

/-- A write leaves every other address alone. -/
theorem Mem.read_write_of_ne (m : Mem) {a c : Nat} (b : Byte) (h : c ≠ a) : Mem.read (Mem.write m a b) c = Mem.read m c := by
  induction m with
  | nil => simp only [Mem.write]; split <;> simp [Mem.read, Ne.symm h]
  | cons e r ih =>
    obtain ⟨j, x⟩ := e
    simp only [Mem.write]
    split
    · split
      · rfl
      · simp only [Mem.read]; rw [if_neg (by omega)]
    · split
      · split
        · subst_vars; simp only [Mem.read]; rw [if_neg (by omega)]
        · subst_vars; simp only [Mem.read]; rw [if_neg (by omega), if_neg (by omega)]
      · simp only [Mem.read, ih]

theorem Mem.read_write (m : Mem) (a c : Nat) (b : Byte) (h : Mem.wf m = true) :
    Mem.read (Mem.write m a b) c = if c = a then b else Mem.read m c := by
  split
  · subst_vars; exact Mem.read_write_self m _ b h
  · exact Mem.read_write_of_ne m b ‹_›

/-- What consecutive bytes written read as. -/
theorem Mem.read_writeBytes (bs : List Byte) : ∀ (m : Mem) (a c : Nat), Mem.wf m = true →
    Mem.read (Mem.writeBytes m a bs) c = if a ≤ c ∧ c < a + bs.length then bs.getD (c - a) 0 else Mem.read m c := by
  induction bs with
  | nil => intro m a c _; simp only [Mem.writeBytes, List.length_nil]; rw [if_neg (by omega)]
  | cons b r ih =>
    intro m a c h
    simp only [Mem.writeBytes, List.length_cons]
    rw [ih _ _ _ (Mem.wf_write m a b h), Mem.read_write m a c b h]
    by_cases h1 : a + 1 ≤ c ∧ c < a + 1 + r.length
    · rw [if_pos h1, if_pos (by omega)]
      have : c - a = (c - (a + 1)) + 1 := by omega
      rw [this]; simp
    · rw [if_neg h1]
      by_cases h2 : c = a
      · subst h2; rw [if_pos rfl, if_pos (by omega)]; simp
      · rw [if_neg h2, if_neg (by omega)]

theorem Mem.bytes_length (m : Mem) (n : Nat) : ∀ a, (Mem.bytes m a n).length = n := by
  induction n with
  | zero => intro a; rfl
  | succ n ih => intro a; simp [Mem.bytes, ih]

end Sys2Proof.Machine
end

