-- ==== Sys2Proof/Laws/Channel.lean ====
section
/-! SUPPORT. Laws of the virtual channels (R284): what deficit round robin can change, said once. -/

namespace Sys2Proof.Machine

@[simp] theorem State.modLink_vcs (s : State) (l : Nat) (f : Link → Link) : (s.modLink l f).pod.vcs = s.pod.vcs := rfl
@[simp] theorem State.modChannel_links (s : State) (l p : Nat) (f : VChannel → VChannel) : (s.modChannel l p f).pod.links = s.pod.links := rfl
@[simp] theorem State.deficit_modLink (s : State) (l m q : Nat) (f : Link → Link) : (s.modLink m f).deficit l q = s.deficit l q := rfl

/-- A channel's deficit is what was set last. -/
@[simp] theorem State.deficit_setDeficit (s : State) (l q n : Nat) : (s.setDeficit l q n).deficit l q = n := by
  by_cases h : q % 2 = 0 <;> simp [State.deficit, State.setDeficit, State.modChannel, h]

/-- `t` differs from `s` in deficits and turns alone. -/
def State.channelsOnly (s t : State) : Prop :=
  { t with pod := { t.pod with vcs := s.pod.vcs, links := s.pod.links } } = s

theorem channelsOnly_modLink {s t : State} (l : Nat) (f : Link → Link) (h : s.channelsOnly t) : s.channelsOnly (t.modLink l f) := h
theorem channelsOnly_setDeficit {s t : State} (l q n : Nat) (h : s.channelsOnly t) : s.channelsOnly (t.setDeficit l q n) := h
theorem channelsOnly_endVisit {s t : State} (l q : Nat) (h : s.channelsOnly t) : s.channelsOnly (t.endVisit l q) := h

/-- Deficit round robin moves deficits and turns, and nothing else: a message that is chosen still waits until it is sent. -/
theorem drr_channelsOnly (l : Nat) (load : Option Nat) (n : Nat) :
    ∀ {s t : State}, s.channelsOnly t → s.channelsOnly (drr l load n t).1 := by
  induction n with
  | zero => exact fun h => h
  | succ n ih =>
    intro s t h
    simp only [drr]
    split
    · exact ih (channelsOnly_endVisit _ _ (channelsOnly_setDeficit _ _ _ h))
    · have c := channelsOnly_modLink l (fun k => { k with inVisit := true }) (channelsOnly_setDeficit l (Tbl.getD t.pod.links l {}).turn
        (t.deficit l (Tbl.getD t.pod.links l {}).turn + 64 * (Tbl.getD t.pod.vcs (64 * l + (Tbl.getD t.pod.links l {}).turn / 2) {}).weight) h)
      split
      · split
        · split
          · exact channelsOnly_endVisit _ _ (channelsOnly_setDeficit _ _ _ h)
          · exact channelsOnly_setDeficit _ _ _ h
        · exact ih (channelsOnly_endVisit _ _ h)
      · split
        · split
          · exact channelsOnly_endVisit _ _ (channelsOnly_setDeficit _ _ _ c)
          · exact channelsOnly_setDeficit _ _ _ c
        · exact ih (channelsOnly_endVisit _ _ c)

/-- So does asking for a context's turn. -/
theorem State.turnFor_channelsOnly {s t : State} {l c id : Nat} {load : Bool} (h : s.turnFor l c id load = some t) : s.channelsOnly t := by
  unfold State.turnFor at h
  generalize 16384 = n at h
  split at h
  · exact Option.some.inj h ▸ rfl
  · simp only [Option.ite_none_right_eq_some] at h
    obtain ⟨-, e⟩ := h
    exact Option.some.inj e ▸ drr_channelsOnly _ _ _ rfl

end Sys2Proof.Machine
end

