-- ==== Sys2Proof/Laws/State.lean ====
section
/-! SUPPORT. Laws of the state: what each update leaves of each field, and what the accessors read after an update. -/

namespace Sys2Proof.Machine

variable (s : State)

/-! ## One lemma per field per update -/

@[simp] theorem State.setGroup_mod (g : Nat) (x : Group) : (s.setGroup g x).mod = s.mod := rfl
@[simp] theorem State.setGroup_boot (g : Nat) (x : Group) : (s.setGroup g x).boot = s.boot := rfl
@[simp] theorem State.setGroup_agenda (g : Nat) (x : Group) : (s.setGroup g x).agenda = s.agenda := rfl
@[simp] theorem State.setGroup_latch (g : Nat) (x : Group) : (s.setGroup g x).latch = s.latch := rfl
@[simp] theorem State.setGroup_cur (g : Nat) (x : Group) : (s.setGroup g x).cur = s.cur := rfl
@[simp] theorem State.setGroup_nextId (g : Nat) (x : Group) : (s.setGroup g x).nextId = s.nextId := rfl
@[simp] theorem State.setGroup_freeNo (g : Nat) (x : Group) : (s.setGroup g x).freeNo = s.freeNo := rfl
@[simp] theorem State.setGroup_now (g : Nat) (x : Group) : (s.setGroup g x).now = s.now := rfl
@[simp] theorem State.setGroup_time (g : Nat) (x : Group) : (s.setGroup g x).time = s.time := rfl
@[simp] theorem State.setGroup_memory (g : Nat) (x : Group) : (s.setGroup g x).memory = s.memory := rfl
@[simp] theorem State.setGroup_ctxs (g : Nat) (x : Group) : (s.setGroup g x).ctxs = s.ctxs := rfl
@[simp] theorem State.setGroup_tenants (g : Nat) (x : Group) : (s.setGroup g x).tenants = s.tenants := rfl
@[simp] theorem State.setGroup_disp (g : Nat) (x : Group) : (s.setGroup g x).disp = s.disp := rfl
@[simp] theorem State.setGroup_groups (g : Nat) (x : Group) : (s.setGroup g x).groups = Tbl.set s.groups g x := rfl
@[simp] theorem State.setGroup_txs (g : Nat) (x : Group) : (s.setGroup g x).txs = s.txs := rfl
@[simp] theorem State.setGroup_cores (g : Nat) (x : Group) : (s.setGroup g x).cores = s.cores := rfl
@[simp] theorem State.setGroup_dies (g : Nat) (x : Group) : (s.setGroup g x).dies = s.dies := rfl
@[simp] theorem State.setGroup_invals (g : Nat) (x : Group) : (s.setGroup g x).invals = s.invals := rfl
@[simp] theorem State.setGroup_pod (g : Nat) (x : Group) : (s.setGroup g x).pod = s.pod := rfl
@[simp] theorem State.setGroup_lamp (g : Nat) (x : Group) : (s.setGroup g x).lamp = s.lamp := rfl
@[simp] theorem State.setGroup_flash (g : Nat) (x : Group) : (s.setGroup g x).flash = s.flash := rfl
@[simp] theorem State.setGroup_host (g : Nat) (x : Group) : (s.setGroup g x).host = s.host := rfl

@[simp] theorem State.modG_mod (f : Group → Group) : (s.modG f).mod = s.mod := rfl
@[simp] theorem State.modG_boot (f : Group → Group) : (s.modG f).boot = s.boot := rfl
@[simp] theorem State.modG_agenda (f : Group → Group) : (s.modG f).agenda = s.agenda := rfl
@[simp] theorem State.modG_latch (f : Group → Group) : (s.modG f).latch = s.latch := rfl
@[simp] theorem State.modG_cur (f : Group → Group) : (s.modG f).cur = s.cur := rfl
@[simp] theorem State.modG_nextId (f : Group → Group) : (s.modG f).nextId = s.nextId := rfl
@[simp] theorem State.modG_freeNo (f : Group → Group) : (s.modG f).freeNo = s.freeNo := rfl
@[simp] theorem State.modG_now (f : Group → Group) : (s.modG f).now = s.now := rfl
@[simp] theorem State.modG_time (f : Group → Group) : (s.modG f).time = s.time := rfl
@[simp] theorem State.modG_memory (f : Group → Group) : (s.modG f).memory = s.memory := rfl
@[simp] theorem State.modG_ctxs (f : Group → Group) : (s.modG f).ctxs = s.ctxs := rfl
@[simp] theorem State.modG_tenants (f : Group → Group) : (s.modG f).tenants = s.tenants := rfl
@[simp] theorem State.modG_disp (f : Group → Group) : (s.modG f).disp = s.disp := rfl
@[simp] theorem State.modG_txs (f : Group → Group) : (s.modG f).txs = s.txs := rfl
@[simp] theorem State.modG_cores (f : Group → Group) : (s.modG f).cores = s.cores := rfl
@[simp] theorem State.modG_dies (f : Group → Group) : (s.modG f).dies = s.dies := rfl
@[simp] theorem State.modG_invals (f : Group → Group) : (s.modG f).invals = s.invals := rfl
@[simp] theorem State.modG_pod (f : Group → Group) : (s.modG f).pod = s.pod := rfl
@[simp] theorem State.modG_lamp (f : Group → Group) : (s.modG f).lamp = s.lamp := rfl
@[simp] theorem State.modG_flash (f : Group → Group) : (s.modG f).flash = s.flash := rfl
@[simp] theorem State.modG_host (f : Group → Group) : (s.modG f).host = s.host := rfl

@[simp] theorem State.modW_mod (f : Wave → Wave) : (s.modW f).mod = s.mod := rfl
@[simp] theorem State.modW_boot (f : Wave → Wave) : (s.modW f).boot = s.boot := rfl
@[simp] theorem State.modW_agenda (f : Wave → Wave) : (s.modW f).agenda = s.agenda := rfl
@[simp] theorem State.modW_latch (f : Wave → Wave) : (s.modW f).latch = s.latch := rfl
@[simp] theorem State.modW_cur (f : Wave → Wave) : (s.modW f).cur = s.cur := rfl
@[simp] theorem State.modW_nextId (f : Wave → Wave) : (s.modW f).nextId = s.nextId := rfl
@[simp] theorem State.modW_freeNo (f : Wave → Wave) : (s.modW f).freeNo = s.freeNo := rfl
@[simp] theorem State.modW_now (f : Wave → Wave) : (s.modW f).now = s.now := rfl
@[simp] theorem State.modW_time (f : Wave → Wave) : (s.modW f).time = s.time := rfl
@[simp] theorem State.modW_memory (f : Wave → Wave) : (s.modW f).memory = s.memory := rfl
@[simp] theorem State.modW_ctxs (f : Wave → Wave) : (s.modW f).ctxs = s.ctxs := rfl
@[simp] theorem State.modW_tenants (f : Wave → Wave) : (s.modW f).tenants = s.tenants := rfl
@[simp] theorem State.modW_disp (f : Wave → Wave) : (s.modW f).disp = s.disp := rfl
@[simp] theorem State.modW_txs (f : Wave → Wave) : (s.modW f).txs = s.txs := rfl
@[simp] theorem State.modW_cores (f : Wave → Wave) : (s.modW f).cores = s.cores := rfl
@[simp] theorem State.modW_dies (f : Wave → Wave) : (s.modW f).dies = s.dies := rfl
@[simp] theorem State.modW_invals (f : Wave → Wave) : (s.modW f).invals = s.invals := rfl
@[simp] theorem State.modW_pod (f : Wave → Wave) : (s.modW f).pod = s.pod := rfl
@[simp] theorem State.modW_lamp (f : Wave → Wave) : (s.modW f).lamp = s.lamp := rfl
@[simp] theorem State.modW_flash (f : Wave → Wave) : (s.modW f).flash = s.flash := rfl
@[simp] theorem State.modW_host (f : Wave → Wave) : (s.modW f).host = s.host := rfl

@[simp] theorem State.modSp_mod (f : Split → Split) : (s.modSp f).mod = s.mod := rfl
@[simp] theorem State.modSp_boot (f : Split → Split) : (s.modSp f).boot = s.boot := rfl
@[simp] theorem State.modSp_agenda (f : Split → Split) : (s.modSp f).agenda = s.agenda := rfl
@[simp] theorem State.modSp_latch (f : Split → Split) : (s.modSp f).latch = s.latch := rfl
@[simp] theorem State.modSp_cur (f : Split → Split) : (s.modSp f).cur = s.cur := rfl
@[simp] theorem State.modSp_nextId (f : Split → Split) : (s.modSp f).nextId = s.nextId := rfl
@[simp] theorem State.modSp_freeNo (f : Split → Split) : (s.modSp f).freeNo = s.freeNo := rfl
@[simp] theorem State.modSp_now (f : Split → Split) : (s.modSp f).now = s.now := rfl
@[simp] theorem State.modSp_time (f : Split → Split) : (s.modSp f).time = s.time := rfl
@[simp] theorem State.modSp_memory (f : Split → Split) : (s.modSp f).memory = s.memory := rfl
@[simp] theorem State.modSp_ctxs (f : Split → Split) : (s.modSp f).ctxs = s.ctxs := rfl
@[simp] theorem State.modSp_tenants (f : Split → Split) : (s.modSp f).tenants = s.tenants := rfl
@[simp] theorem State.modSp_disp (f : Split → Split) : (s.modSp f).disp = s.disp := rfl
@[simp] theorem State.modSp_txs (f : Split → Split) : (s.modSp f).txs = s.txs := rfl
@[simp] theorem State.modSp_cores (f : Split → Split) : (s.modSp f).cores = s.cores := rfl
@[simp] theorem State.modSp_dies (f : Split → Split) : (s.modSp f).dies = s.dies := rfl
@[simp] theorem State.modSp_invals (f : Split → Split) : (s.modSp f).invals = s.invals := rfl
@[simp] theorem State.modSp_pod (f : Split → Split) : (s.modSp f).pod = s.pod := rfl
@[simp] theorem State.modSp_lamp (f : Split → Split) : (s.modSp f).lamp = s.lamp := rfl
@[simp] theorem State.modSp_flash (f : Split → Split) : (s.modSp f).flash = s.flash := rfl
@[simp] theorem State.modSp_host (f : Split → Split) : (s.modSp f).host = s.host := rfl

@[simp] theorem State.setCore_mod (u : Nat) (x : Core) : (s.setCore u x).mod = s.mod := rfl
@[simp] theorem State.setCore_boot (u : Nat) (x : Core) : (s.setCore u x).boot = s.boot := rfl
@[simp] theorem State.setCore_agenda (u : Nat) (x : Core) : (s.setCore u x).agenda = s.agenda := rfl
@[simp] theorem State.setCore_latch (u : Nat) (x : Core) : (s.setCore u x).latch = s.latch := rfl
@[simp] theorem State.setCore_cur (u : Nat) (x : Core) : (s.setCore u x).cur = s.cur := rfl
@[simp] theorem State.setCore_nextId (u : Nat) (x : Core) : (s.setCore u x).nextId = s.nextId := rfl
@[simp] theorem State.setCore_freeNo (u : Nat) (x : Core) : (s.setCore u x).freeNo = s.freeNo := rfl
@[simp] theorem State.setCore_now (u : Nat) (x : Core) : (s.setCore u x).now = s.now := rfl
@[simp] theorem State.setCore_time (u : Nat) (x : Core) : (s.setCore u x).time = s.time := rfl
@[simp] theorem State.setCore_memory (u : Nat) (x : Core) : (s.setCore u x).memory = s.memory := rfl
@[simp] theorem State.setCore_ctxs (u : Nat) (x : Core) : (s.setCore u x).ctxs = s.ctxs := rfl
@[simp] theorem State.setCore_tenants (u : Nat) (x : Core) : (s.setCore u x).tenants = s.tenants := rfl
@[simp] theorem State.setCore_disp (u : Nat) (x : Core) : (s.setCore u x).disp = s.disp := rfl
@[simp] theorem State.setCore_groups (u : Nat) (x : Core) : (s.setCore u x).groups = s.groups := rfl
@[simp] theorem State.setCore_txs (u : Nat) (x : Core) : (s.setCore u x).txs = s.txs := rfl
@[simp] theorem State.setCore_cores (u : Nat) (x : Core) : (s.setCore u x).cores = Tbl.set s.cores u x := rfl
@[simp] theorem State.setCore_dies (u : Nat) (x : Core) : (s.setCore u x).dies = s.dies := rfl
@[simp] theorem State.setCore_invals (u : Nat) (x : Core) : (s.setCore u x).invals = s.invals := rfl
@[simp] theorem State.setCore_pod (u : Nat) (x : Core) : (s.setCore u x).pod = s.pod := rfl
@[simp] theorem State.setCore_lamp (u : Nat) (x : Core) : (s.setCore u x).lamp = s.lamp := rfl
@[simp] theorem State.setCore_flash (u : Nat) (x : Core) : (s.setCore u x).flash = s.flash := rfl
@[simp] theorem State.setCore_host (u : Nat) (x : Core) : (s.setCore u x).host = s.host := rfl

@[simp] theorem State.setDie_mod (d : Nat) (x : Die) : (s.setDie d x).mod = s.mod := rfl
@[simp] theorem State.setDie_boot (d : Nat) (x : Die) : (s.setDie d x).boot = s.boot := rfl
@[simp] theorem State.setDie_agenda (d : Nat) (x : Die) : (s.setDie d x).agenda = s.agenda := rfl
@[simp] theorem State.setDie_latch (d : Nat) (x : Die) : (s.setDie d x).latch = s.latch := rfl
@[simp] theorem State.setDie_cur (d : Nat) (x : Die) : (s.setDie d x).cur = s.cur := rfl
@[simp] theorem State.setDie_nextId (d : Nat) (x : Die) : (s.setDie d x).nextId = s.nextId := rfl
@[simp] theorem State.setDie_freeNo (d : Nat) (x : Die) : (s.setDie d x).freeNo = s.freeNo := rfl
@[simp] theorem State.setDie_now (d : Nat) (x : Die) : (s.setDie d x).now = s.now := rfl
@[simp] theorem State.setDie_time (d : Nat) (x : Die) : (s.setDie d x).time = s.time := rfl
@[simp] theorem State.setDie_memory (d : Nat) (x : Die) : (s.setDie d x).memory = s.memory := rfl
@[simp] theorem State.setDie_ctxs (d : Nat) (x : Die) : (s.setDie d x).ctxs = s.ctxs := rfl
@[simp] theorem State.setDie_tenants (d : Nat) (x : Die) : (s.setDie d x).tenants = s.tenants := rfl
@[simp] theorem State.setDie_disp (d : Nat) (x : Die) : (s.setDie d x).disp = s.disp := rfl
@[simp] theorem State.setDie_groups (d : Nat) (x : Die) : (s.setDie d x).groups = s.groups := rfl
@[simp] theorem State.setDie_txs (d : Nat) (x : Die) : (s.setDie d x).txs = s.txs := rfl
@[simp] theorem State.setDie_cores (d : Nat) (x : Die) : (s.setDie d x).cores = s.cores := rfl
@[simp] theorem State.setDie_dies (d : Nat) (x : Die) : (s.setDie d x).dies = Tbl.set s.dies d x := rfl
@[simp] theorem State.setDie_invals (d : Nat) (x : Die) : (s.setDie d x).invals = s.invals := rfl
@[simp] theorem State.setDie_pod (d : Nat) (x : Die) : (s.setDie d x).pod = s.pod := rfl
@[simp] theorem State.setDie_lamp (d : Nat) (x : Die) : (s.setDie d x).lamp = s.lamp := rfl
@[simp] theorem State.setDie_flash (d : Nat) (x : Die) : (s.setDie d x).flash = s.flash := rfl
@[simp] theorem State.setDie_host (d : Nat) (x : Die) : (s.setDie d x).host = s.host := rfl

@[simp] theorem State.setCtx_mod (c : Nat) (x : Context) : (s.setCtx c x).mod = s.mod := rfl
@[simp] theorem State.setCtx_boot (c : Nat) (x : Context) : (s.setCtx c x).boot = s.boot := rfl
@[simp] theorem State.setCtx_agenda (c : Nat) (x : Context) : (s.setCtx c x).agenda = s.agenda := rfl
@[simp] theorem State.setCtx_latch (c : Nat) (x : Context) : (s.setCtx c x).latch = s.latch := rfl
@[simp] theorem State.setCtx_cur (c : Nat) (x : Context) : (s.setCtx c x).cur = s.cur := rfl
@[simp] theorem State.setCtx_nextId (c : Nat) (x : Context) : (s.setCtx c x).nextId = s.nextId := rfl
@[simp] theorem State.setCtx_freeNo (c : Nat) (x : Context) : (s.setCtx c x).freeNo = s.freeNo := rfl
@[simp] theorem State.setCtx_now (c : Nat) (x : Context) : (s.setCtx c x).now = s.now := rfl
@[simp] theorem State.setCtx_time (c : Nat) (x : Context) : (s.setCtx c x).time = s.time := rfl
@[simp] theorem State.setCtx_memory (c : Nat) (x : Context) : (s.setCtx c x).memory = s.memory := rfl
@[simp] theorem State.setCtx_ctxs (c : Nat) (x : Context) : (s.setCtx c x).ctxs = Tbl.set s.ctxs c x := rfl
@[simp] theorem State.setCtx_tenants (c : Nat) (x : Context) : (s.setCtx c x).tenants = s.tenants := rfl
@[simp] theorem State.setCtx_disp (c : Nat) (x : Context) : (s.setCtx c x).disp = s.disp := rfl
@[simp] theorem State.setCtx_groups (c : Nat) (x : Context) : (s.setCtx c x).groups = s.groups := rfl
@[simp] theorem State.setCtx_txs (c : Nat) (x : Context) : (s.setCtx c x).txs = s.txs := rfl
@[simp] theorem State.setCtx_cores (c : Nat) (x : Context) : (s.setCtx c x).cores = s.cores := rfl
@[simp] theorem State.setCtx_dies (c : Nat) (x : Context) : (s.setCtx c x).dies = s.dies := rfl
@[simp] theorem State.setCtx_invals (c : Nat) (x : Context) : (s.setCtx c x).invals = s.invals := rfl
@[simp] theorem State.setCtx_pod (c : Nat) (x : Context) : (s.setCtx c x).pod = s.pod := rfl
@[simp] theorem State.setCtx_lamp (c : Nat) (x : Context) : (s.setCtx c x).lamp = s.lamp := rfl
@[simp] theorem State.setCtx_flash (c : Nat) (x : Context) : (s.setCtx c x).flash = s.flash := rfl
@[simp] theorem State.setCtx_host (c : Nat) (x : Context) : (s.setCtx c x).host = s.host := rfl

@[simp] theorem State.setKernel_mod (k : Nat) (x : Kernel) : (s.setKernel k x).mod = s.mod := rfl
@[simp] theorem State.setKernel_boot (k : Nat) (x : Kernel) : (s.setKernel k x).boot = s.boot := rfl
@[simp] theorem State.setKernel_agenda (k : Nat) (x : Kernel) : (s.setKernel k x).agenda = s.agenda := rfl
@[simp] theorem State.setKernel_latch (k : Nat) (x : Kernel) : (s.setKernel k x).latch = s.latch := rfl
@[simp] theorem State.setKernel_cur (k : Nat) (x : Kernel) : (s.setKernel k x).cur = s.cur := rfl
@[simp] theorem State.setKernel_nextId (k : Nat) (x : Kernel) : (s.setKernel k x).nextId = s.nextId := rfl
@[simp] theorem State.setKernel_freeNo (k : Nat) (x : Kernel) : (s.setKernel k x).freeNo = s.freeNo := rfl
@[simp] theorem State.setKernel_now (k : Nat) (x : Kernel) : (s.setKernel k x).now = s.now := rfl
@[simp] theorem State.setKernel_time (k : Nat) (x : Kernel) : (s.setKernel k x).time = s.time := rfl
@[simp] theorem State.setKernel_memory (k : Nat) (x : Kernel) : (s.setKernel k x).memory = s.memory := rfl
@[simp] theorem State.setKernel_ctxs (k : Nat) (x : Kernel) : (s.setKernel k x).ctxs = s.ctxs := rfl
@[simp] theorem State.setKernel_tenants (k : Nat) (x : Kernel) : (s.setKernel k x).tenants = s.tenants := rfl
@[simp] theorem State.setKernel_disp (k : Nat) (x : Kernel) : (s.setKernel k x).disp = { s.disp with kernels := Tbl.set s.disp.kernels k x } := rfl
@[simp] theorem State.setKernel_groups (k : Nat) (x : Kernel) : (s.setKernel k x).groups = s.groups := rfl
@[simp] theorem State.setKernel_txs (k : Nat) (x : Kernel) : (s.setKernel k x).txs = s.txs := rfl
@[simp] theorem State.setKernel_cores (k : Nat) (x : Kernel) : (s.setKernel k x).cores = s.cores := rfl
@[simp] theorem State.setKernel_dies (k : Nat) (x : Kernel) : (s.setKernel k x).dies = s.dies := rfl
@[simp] theorem State.setKernel_invals (k : Nat) (x : Kernel) : (s.setKernel k x).invals = s.invals := rfl
@[simp] theorem State.setKernel_pod (k : Nat) (x : Kernel) : (s.setKernel k x).pod = s.pod := rfl
@[simp] theorem State.setKernel_lamp (k : Nat) (x : Kernel) : (s.setKernel k x).lamp = s.lamp := rfl
@[simp] theorem State.setKernel_flash (k : Nat) (x : Kernel) : (s.setKernel k x).flash = s.flash := rfl
@[simp] theorem State.setKernel_host (k : Nat) (x : Kernel) : (s.setKernel k x).host = s.host := rfl

@[simp] theorem State.setQueue_mod (q : Nat) (x : Queue) : (s.setQueue q x).mod = s.mod := rfl
@[simp] theorem State.setQueue_boot (q : Nat) (x : Queue) : (s.setQueue q x).boot = s.boot := rfl
@[simp] theorem State.setQueue_agenda (q : Nat) (x : Queue) : (s.setQueue q x).agenda = s.agenda := rfl
@[simp] theorem State.setQueue_latch (q : Nat) (x : Queue) : (s.setQueue q x).latch = s.latch := rfl
@[simp] theorem State.setQueue_cur (q : Nat) (x : Queue) : (s.setQueue q x).cur = s.cur := rfl
@[simp] theorem State.setQueue_nextId (q : Nat) (x : Queue) : (s.setQueue q x).nextId = s.nextId := rfl
@[simp] theorem State.setQueue_freeNo (q : Nat) (x : Queue) : (s.setQueue q x).freeNo = s.freeNo := rfl
@[simp] theorem State.setQueue_now (q : Nat) (x : Queue) : (s.setQueue q x).now = s.now := rfl
@[simp] theorem State.setQueue_time (q : Nat) (x : Queue) : (s.setQueue q x).time = s.time := rfl
@[simp] theorem State.setQueue_memory (q : Nat) (x : Queue) : (s.setQueue q x).memory = s.memory := rfl
@[simp] theorem State.setQueue_ctxs (q : Nat) (x : Queue) : (s.setQueue q x).ctxs = s.ctxs := rfl
@[simp] theorem State.setQueue_tenants (q : Nat) (x : Queue) : (s.setQueue q x).tenants = s.tenants := rfl
@[simp] theorem State.setQueue_disp (q : Nat) (x : Queue) : (s.setQueue q x).disp = { s.disp with queues := Tbl.set s.disp.queues q x } := rfl
@[simp] theorem State.setQueue_groups (q : Nat) (x : Queue) : (s.setQueue q x).groups = s.groups := rfl
@[simp] theorem State.setQueue_txs (q : Nat) (x : Queue) : (s.setQueue q x).txs = s.txs := rfl
@[simp] theorem State.setQueue_cores (q : Nat) (x : Queue) : (s.setQueue q x).cores = s.cores := rfl
@[simp] theorem State.setQueue_dies (q : Nat) (x : Queue) : (s.setQueue q x).dies = s.dies := rfl
@[simp] theorem State.setQueue_invals (q : Nat) (x : Queue) : (s.setQueue q x).invals = s.invals := rfl
@[simp] theorem State.setQueue_pod (q : Nat) (x : Queue) : (s.setQueue q x).pod = s.pod := rfl
@[simp] theorem State.setQueue_lamp (q : Nat) (x : Queue) : (s.setQueue q x).lamp = s.lamp := rfl
@[simp] theorem State.setQueue_flash (q : Nat) (x : Queue) : (s.setQueue q x).flash = s.flash := rfl
@[simp] theorem State.setQueue_host (q : Nat) (x : Queue) : (s.setQueue q x).host = s.host := rfl

@[simp] theorem State.modMem_mod (f : Memory → Memory) : (s.modMem f).mod = s.mod := rfl
@[simp] theorem State.modMem_boot (f : Memory → Memory) : (s.modMem f).boot = s.boot := rfl
@[simp] theorem State.modMem_agenda (f : Memory → Memory) : (s.modMem f).agenda = s.agenda := rfl
@[simp] theorem State.modMem_latch (f : Memory → Memory) : (s.modMem f).latch = s.latch := rfl
@[simp] theorem State.modMem_cur (f : Memory → Memory) : (s.modMem f).cur = s.cur := rfl
@[simp] theorem State.modMem_nextId (f : Memory → Memory) : (s.modMem f).nextId = s.nextId := rfl
@[simp] theorem State.modMem_freeNo (f : Memory → Memory) : (s.modMem f).freeNo = s.freeNo := rfl
@[simp] theorem State.modMem_now (f : Memory → Memory) : (s.modMem f).now = s.now := rfl
@[simp] theorem State.modMem_time (f : Memory → Memory) : (s.modMem f).time = s.time := rfl
@[simp] theorem State.modMem_memory (f : Memory → Memory) : (s.modMem f).memory = f s.memory := rfl
@[simp] theorem State.modMem_ctxs (f : Memory → Memory) : (s.modMem f).ctxs = s.ctxs := rfl
@[simp] theorem State.modMem_tenants (f : Memory → Memory) : (s.modMem f).tenants = s.tenants := rfl
@[simp] theorem State.modMem_disp (f : Memory → Memory) : (s.modMem f).disp = s.disp := rfl
@[simp] theorem State.modMem_groups (f : Memory → Memory) : (s.modMem f).groups = s.groups := rfl
@[simp] theorem State.modMem_txs (f : Memory → Memory) : (s.modMem f).txs = s.txs := rfl
@[simp] theorem State.modMem_cores (f : Memory → Memory) : (s.modMem f).cores = s.cores := rfl
@[simp] theorem State.modMem_dies (f : Memory → Memory) : (s.modMem f).dies = s.dies := rfl
@[simp] theorem State.modMem_invals (f : Memory → Memory) : (s.modMem f).invals = s.invals := rfl
@[simp] theorem State.modMem_pod (f : Memory → Memory) : (s.modMem f).pod = s.pod := rfl
@[simp] theorem State.modMem_lamp (f : Memory → Memory) : (s.modMem f).lamp = s.lamp := rfl
@[simp] theorem State.modMem_flash (f : Memory → Memory) : (s.modMem f).flash = s.flash := rfl
@[simp] theorem State.modMem_host (f : Memory → Memory) : (s.modMem f).host = s.host := rfl

@[simp] theorem State.fresh_mod : s.fresh.mod = s.mod := rfl
@[simp] theorem State.fresh_boot : s.fresh.boot = s.boot := rfl
@[simp] theorem State.fresh_agenda : s.fresh.agenda = s.agenda := rfl
@[simp] theorem State.fresh_latch : s.fresh.latch = s.latch := rfl
@[simp] theorem State.fresh_cur : s.fresh.cur = s.cur := rfl
@[simp] theorem State.fresh_nextId : s.fresh.nextId = s.nextId + 1 := rfl
@[simp] theorem State.fresh_freeNo : s.fresh.freeNo = s.freeNo := rfl
@[simp] theorem State.fresh_now : s.fresh.now = s.now := rfl
@[simp] theorem State.fresh_time : s.fresh.time = s.time := rfl
@[simp] theorem State.fresh_memory : s.fresh.memory = s.memory := rfl
@[simp] theorem State.fresh_ctxs : s.fresh.ctxs = s.ctxs := rfl
@[simp] theorem State.fresh_tenants : s.fresh.tenants = s.tenants := rfl
@[simp] theorem State.fresh_disp : s.fresh.disp = s.disp := rfl
@[simp] theorem State.fresh_groups : s.fresh.groups = s.groups := rfl
@[simp] theorem State.fresh_txs : s.fresh.txs = s.txs := rfl
@[simp] theorem State.fresh_cores : s.fresh.cores = s.cores := rfl
@[simp] theorem State.fresh_dies : s.fresh.dies = s.dies := rfl
@[simp] theorem State.fresh_invals : s.fresh.invals = s.invals := rfl
@[simp] theorem State.fresh_pod : s.fresh.pod = s.pod := rfl
@[simp] theorem State.fresh_lamp : s.fresh.lamp = s.lamp := rfl
@[simp] theorem State.fresh_flash : s.fresh.flash = s.flash := rfl
@[simp] theorem State.fresh_host : s.fresh.host = s.host := rfl

@[simp] theorem Wave.putS_started (W : Wave) (r : Nat) (x : DWord) : (W.putS r x).started = W.started := by unfold Wave.putS; split <;> rfl
@[simp] theorem Wave.putS_wslot (W : Wave) (r : Nat) (x : DWord) : (W.putS r x).wslot = W.wslot := by unfold Wave.putS; split <;> rfl
@[simp] theorem Wave.putS_v (W : Wave) (r : Nat) (x : DWord) : (W.putS r x).v = W.v := by unfold Wave.putS; split <;> rfl
@[simp] theorem Wave.putS_m (W : Wave) (r : Nat) (x : DWord) : (W.putS r x).m = W.m := by unfold Wave.putS; split <;> rfl
@[simp] theorem Wave.putS_h (W : Wave) (r : Nat) (x : DWord) : (W.putS r x).h = W.h := by unfold Wave.putS; split <;> rfl
@[simp] theorem Wave.putS_vPoison (W : Wave) (r : Nat) (x : DWord) : (W.putS r x).vPoison = W.vPoison := by unfold Wave.putS; split <;> rfl
@[simp] theorem Wave.putS_fxf (W : Wave) (r : Nat) (x : DWord) : (W.putS r x).fxf = W.fxf := by unfold Wave.putS; split <;> rfl
@[simp] theorem Wave.putS_chk (W : Wave) (r : Nat) (x : DWord) : (W.putS r x).chk = W.chk := by unfold Wave.putS; split <;> rfl
@[simp] theorem Wave.putS_chkNext (W : Wave) (r : Nat) (x : DWord) : (W.putS r x).chkNext = W.chkNext := by unfold Wave.putS; split <;> rfl
@[simp] theorem Wave.putS_iregpc (W : Wave) (r : Nat) (x : DWord) : (W.putS r x).iregpc = W.iregpc := by unfold Wave.putS; split <;> rfl
@[simp] theorem Wave.putS_vmc (W : Wave) (r : Nat) (x : DWord) : (W.putS r x).vmc = W.vmc := by unfold Wave.putS; split <;> rfl
@[simp] theorem Wave.putS_smc (W : Wave) (r : Nat) (x : DWord) : (W.putS r x).smc = W.smc := by unfold Wave.putS; split <;> rfl
@[simp] theorem Wave.putS_mxc (W : Wave) (r : Nat) (x : DWord) : (W.putS r x).mxc = W.mxc := by unfold Wave.putS; split <;> rfl
@[simp] theorem Wave.putS_cpc (W : Wave) (r : Nat) (x : DWord) : (W.putS r x).cpc = W.cpc := by unfold Wave.putS; split <;> rfl
@[simp] theorem Wave.putS_key (W : Wave) (r : Nat) (x : DWord) : (W.putS r x).key = W.key := by unfold Wave.putS; split <;> rfl
@[simp] theorem Wave.putS_ctr (W : Wave) (r : Nat) (x : DWord) : (W.putS r x).ctr = W.ctr := by unfold Wave.putS; split <;> rfl
@[simp] theorem Wave.putS_region (W : Wave) (r : Nat) (x : DWord) : (W.putS r x).region = W.region := by unfold Wave.putS; split <;> rfl
@[simp] theorem Wave.putS_tokens (W : Wave) (r : Nat) (x : DWord) : (W.putS r x).tokens = W.tokens := by unfold Wave.putS; split <;> rfl
@[simp] theorem Wave.putS_spilled (W : Wave) (r : Nat) (x : DWord) : (W.putS r x).spilled = W.spilled := by unfold Wave.putS; split <;> rfl
@[simp] theorem Wave.putS_trap (W : Wave) (r : Nat) (x : DWord) : (W.putS r x).trap = W.trap := by unfold Wave.putS; split <;> rfl
@[simp] theorem Wave.putS_actB (W : Wave) (r : Nat) (x : DWord) : (W.putS r x).actB = W.actB := by unfold Wave.putS; split <;> rfl
@[simp] theorem Wave.putS_actPending (W : Wave) (r : Nat) (x : DWord) : (W.putS r x).actPending = W.actPending := by unfold Wave.putS; split <;> rfl
@[simp] theorem Wave.putS_inflight (W : Wave) (r : Nat) (x : DWord) : (W.putS r x).inflight = W.inflight := by unfold Wave.putS; split <;> rfl
@[simp] theorem Wave.putS_results (W : Wave) (r : Nat) (x : DWord) : (W.putS r x).results = W.results := by unfold Wave.putS; split <;> rfl
@[simp] theorem Wave.putS_fences (W : Wave) (r : Nat) (x : DWord) : (W.putS r x).fences = W.fences := by unfold Wave.putS; split <;> rfl
@[simp] theorem Wave.putS_arrivals (W : Wave) (r : Nat) (x : DWord) : (W.putS r x).arrivals = W.arrivals := by unfold Wave.putS; split <;> rfl
@[simp] theorem Wave.putS_tx (W : Wave) (r : Nat) (x : DWord) : (W.putS r x).tx = W.tx := by unfold Wave.putS; split <;> rfl
@[simp] theorem Wave.putS_nextIssue (W : Wave) (r : Nat) (x : DWord) : (W.putS r x).nextIssue = W.nextIssue := by unfold Wave.putS; split <;> rfl
@[simp] theorem Wave.putS_yielded (W : Wave) (r : Nat) (x : DWord) : (W.putS r x).yielded = W.yielded := by unfold Wave.putS; split <;> rfl
@[simp] theorem Wave.putS_mx (W : Wave) (r : Nat) (x : DWord) : (W.putS r x).mx = W.mx := by unfold Wave.putS; split <;> rfl
@[simp] theorem Wave.putS_splits (W : Wave) (r : Nat) (x : DWord) : (W.putS r x).splits = W.splits := by unfold Wave.putS; split <;> rfl
@[simp] theorem Wave.putS_ended (W : Wave) (r : Nat) (x : DWord) : (W.putS r x).ended = W.ended := by unfold Wave.putS; split <;> rfl
@[simp] theorem Wave.putS_adopted (W : Wave) (r : Nat) (x : DWord) : (W.putS r x).adopted = W.adopted := by unfold Wave.putS; split <;> rfl

@[simp] theorem Wave.putM_started (W : Wave) (r : Nat) (x : Word) : (W.putM r x).started = W.started := rfl
@[simp] theorem Wave.putM_wslot (W : Wave) (r : Nat) (x : Word) : (W.putM r x).wslot = W.wslot := rfl
@[simp] theorem Wave.putM_v (W : Wave) (r : Nat) (x : Word) : (W.putM r x).v = W.v := rfl
@[simp] theorem Wave.putM_s (W : Wave) (r : Nat) (x : Word) : (W.putM r x).s = W.s := rfl
@[simp] theorem Wave.putM_m (W : Wave) (r : Nat) (x : Word) : (W.putM r x).m = W.m.setIfInBounds r x := rfl
@[simp] theorem Wave.putM_h (W : Wave) (r : Nat) (x : Word) : (W.putM r x).h = W.h := rfl
@[simp] theorem Wave.putM_vPoison (W : Wave) (r : Nat) (x : Word) : (W.putM r x).vPoison = W.vPoison := rfl
@[simp] theorem Wave.putM_fxf (W : Wave) (r : Nat) (x : Word) : (W.putM r x).fxf = W.fxf := rfl
@[simp] theorem Wave.putM_chk (W : Wave) (r : Nat) (x : Word) : (W.putM r x).chk = W.chk := rfl
@[simp] theorem Wave.putM_chkNext (W : Wave) (r : Nat) (x : Word) : (W.putM r x).chkNext = W.chkNext := rfl
@[simp] theorem Wave.putM_iregpc (W : Wave) (r : Nat) (x : Word) : (W.putM r x).iregpc = W.iregpc := rfl
@[simp] theorem Wave.putM_vmc (W : Wave) (r : Nat) (x : Word) : (W.putM r x).vmc = W.vmc := rfl
@[simp] theorem Wave.putM_smc (W : Wave) (r : Nat) (x : Word) : (W.putM r x).smc = W.smc := rfl
@[simp] theorem Wave.putM_mxc (W : Wave) (r : Nat) (x : Word) : (W.putM r x).mxc = W.mxc := rfl
@[simp] theorem Wave.putM_cpc (W : Wave) (r : Nat) (x : Word) : (W.putM r x).cpc = W.cpc := rfl
@[simp] theorem Wave.putM_key (W : Wave) (r : Nat) (x : Word) : (W.putM r x).key = W.key := rfl
@[simp] theorem Wave.putM_ctr (W : Wave) (r : Nat) (x : Word) : (W.putM r x).ctr = W.ctr := rfl
@[simp] theorem Wave.putM_region (W : Wave) (r : Nat) (x : Word) : (W.putM r x).region = W.region := rfl
@[simp] theorem Wave.putM_tokens (W : Wave) (r : Nat) (x : Word) : (W.putM r x).tokens = W.tokens := rfl
@[simp] theorem Wave.putM_spilled (W : Wave) (r : Nat) (x : Word) : (W.putM r x).spilled = W.spilled := rfl
@[simp] theorem Wave.putM_trap (W : Wave) (r : Nat) (x : Word) : (W.putM r x).trap = W.trap := rfl
@[simp] theorem Wave.putM_actB (W : Wave) (r : Nat) (x : Word) : (W.putM r x).actB = W.actB := rfl
@[simp] theorem Wave.putM_actPending (W : Wave) (r : Nat) (x : Word) : (W.putM r x).actPending = W.actPending := rfl
@[simp] theorem Wave.putM_inflight (W : Wave) (r : Nat) (x : Word) : (W.putM r x).inflight = W.inflight := rfl
@[simp] theorem Wave.putM_results (W : Wave) (r : Nat) (x : Word) : (W.putM r x).results = W.results := rfl
@[simp] theorem Wave.putM_fences (W : Wave) (r : Nat) (x : Word) : (W.putM r x).fences = W.fences := rfl
@[simp] theorem Wave.putM_arrivals (W : Wave) (r : Nat) (x : Word) : (W.putM r x).arrivals = W.arrivals := rfl
@[simp] theorem Wave.putM_tx (W : Wave) (r : Nat) (x : Word) : (W.putM r x).tx = W.tx := rfl
@[simp] theorem Wave.putM_nextIssue (W : Wave) (r : Nat) (x : Word) : (W.putM r x).nextIssue = W.nextIssue := rfl
@[simp] theorem Wave.putM_yielded (W : Wave) (r : Nat) (x : Word) : (W.putM r x).yielded = W.yielded := rfl
@[simp] theorem Wave.putM_mx (W : Wave) (r : Nat) (x : Word) : (W.putM r x).mx = W.mx := rfl
@[simp] theorem Wave.putM_splits (W : Wave) (r : Nat) (x : Word) : (W.putM r x).splits = W.splits := rfl
@[simp] theorem Wave.putM_ended (W : Wave) (r : Nat) (x : Word) : (W.putM r x).ended = W.ended := rfl
@[simp] theorem Wave.putM_adopted (W : Wave) (r : Nat) (x : Word) : (W.putM r x).adopted = W.adopted := rfl

@[simp] theorem Wave.putRow_started (W : Wave) (r : Nat) (e : Word) (f : Nat → Word) : (W.putRow r e f).started = W.started := rfl
@[simp] theorem Wave.putRow_wslot (W : Wave) (r : Nat) (e : Word) (f : Nat → Word) : (W.putRow r e f).wslot = W.wslot := rfl
@[simp] theorem Wave.putRow_v (W : Wave) (r : Nat) (e : Word) (f : Nat → Word) : (W.putRow r e f).v = W.v.set r (Row.make fun l => if e.getLsbD l then f l else (W.v.getD r zeroRow).lane l) := rfl
@[simp] theorem Wave.putRow_s (W : Wave) (r : Nat) (e : Word) (f : Nat → Word) : (W.putRow r e f).s = W.s := rfl
@[simp] theorem Wave.putRow_m (W : Wave) (r : Nat) (e : Word) (f : Nat → Word) : (W.putRow r e f).m = W.m := rfl
@[simp] theorem Wave.putRow_h (W : Wave) (r : Nat) (e : Word) (f : Nat → Word) : (W.putRow r e f).h = W.h := rfl
@[simp] theorem Wave.putRow_vPoison (W : Wave) (r : Nat) (e : Word) (f : Nat → Word) : (W.putRow r e f).vPoison = W.vPoison := rfl
@[simp] theorem Wave.putRow_fxf (W : Wave) (r : Nat) (e : Word) (f : Nat → Word) : (W.putRow r e f).fxf = W.fxf := rfl
@[simp] theorem Wave.putRow_chk (W : Wave) (r : Nat) (e : Word) (f : Nat → Word) : (W.putRow r e f).chk = W.chk := rfl
@[simp] theorem Wave.putRow_chkNext (W : Wave) (r : Nat) (e : Word) (f : Nat → Word) : (W.putRow r e f).chkNext = W.chkNext := rfl
@[simp] theorem Wave.putRow_iregpc (W : Wave) (r : Nat) (e : Word) (f : Nat → Word) : (W.putRow r e f).iregpc = W.iregpc := rfl
@[simp] theorem Wave.putRow_vmc (W : Wave) (r : Nat) (e : Word) (f : Nat → Word) : (W.putRow r e f).vmc = W.vmc := rfl
@[simp] theorem Wave.putRow_smc (W : Wave) (r : Nat) (e : Word) (f : Nat → Word) : (W.putRow r e f).smc = W.smc := rfl
@[simp] theorem Wave.putRow_mxc (W : Wave) (r : Nat) (e : Word) (f : Nat → Word) : (W.putRow r e f).mxc = W.mxc := rfl
@[simp] theorem Wave.putRow_cpc (W : Wave) (r : Nat) (e : Word) (f : Nat → Word) : (W.putRow r e f).cpc = W.cpc := rfl
@[simp] theorem Wave.putRow_key (W : Wave) (r : Nat) (e : Word) (f : Nat → Word) : (W.putRow r e f).key = W.key := rfl
@[simp] theorem Wave.putRow_ctr (W : Wave) (r : Nat) (e : Word) (f : Nat → Word) : (W.putRow r e f).ctr = W.ctr := rfl
@[simp] theorem Wave.putRow_region (W : Wave) (r : Nat) (e : Word) (f : Nat → Word) : (W.putRow r e f).region = W.region := rfl
@[simp] theorem Wave.putRow_tokens (W : Wave) (r : Nat) (e : Word) (f : Nat → Word) : (W.putRow r e f).tokens = W.tokens := rfl
@[simp] theorem Wave.putRow_spilled (W : Wave) (r : Nat) (e : Word) (f : Nat → Word) : (W.putRow r e f).spilled = W.spilled := rfl
@[simp] theorem Wave.putRow_trap (W : Wave) (r : Nat) (e : Word) (f : Nat → Word) : (W.putRow r e f).trap = W.trap := rfl
@[simp] theorem Wave.putRow_actB (W : Wave) (r : Nat) (e : Word) (f : Nat → Word) : (W.putRow r e f).actB = W.actB := rfl
@[simp] theorem Wave.putRow_actPending (W : Wave) (r : Nat) (e : Word) (f : Nat → Word) : (W.putRow r e f).actPending = W.actPending := rfl
@[simp] theorem Wave.putRow_inflight (W : Wave) (r : Nat) (e : Word) (f : Nat → Word) : (W.putRow r e f).inflight = W.inflight := rfl
@[simp] theorem Wave.putRow_results (W : Wave) (r : Nat) (e : Word) (f : Nat → Word) : (W.putRow r e f).results = W.results := rfl
@[simp] theorem Wave.putRow_fences (W : Wave) (r : Nat) (e : Word) (f : Nat → Word) : (W.putRow r e f).fences = W.fences := rfl
@[simp] theorem Wave.putRow_arrivals (W : Wave) (r : Nat) (e : Word) (f : Nat → Word) : (W.putRow r e f).arrivals = W.arrivals := rfl
@[simp] theorem Wave.putRow_tx (W : Wave) (r : Nat) (e : Word) (f : Nat → Word) : (W.putRow r e f).tx = W.tx := rfl
@[simp] theorem Wave.putRow_nextIssue (W : Wave) (r : Nat) (e : Word) (f : Nat → Word) : (W.putRow r e f).nextIssue = W.nextIssue := rfl
@[simp] theorem Wave.putRow_yielded (W : Wave) (r : Nat) (e : Word) (f : Nat → Word) : (W.putRow r e f).yielded = W.yielded := rfl
@[simp] theorem Wave.putRow_mx (W : Wave) (r : Nat) (e : Word) (f : Nat → Word) : (W.putRow r e f).mx = W.mx := rfl
@[simp] theorem Wave.putRow_splits (W : Wave) (r : Nat) (e : Word) (f : Nat → Word) : (W.putRow r e f).splits = W.splits := rfl
@[simp] theorem Wave.putRow_ended (W : Wave) (r : Nat) (e : Word) (f : Nat → Word) : (W.putRow r e f).ended = W.ended := rfl
@[simp] theorem Wave.putRow_adopted (W : Wave) (r : Nat) (e : Word) (f : Nat → Word) : (W.putRow r e f).adopted = W.adopted := rfl

@[simp] theorem Wave.putH_started (W : Wave) (r : Nat) (x : Handle) : (W.putH r x).started = W.started := rfl
@[simp] theorem Wave.putH_wslot (W : Wave) (r : Nat) (x : Handle) : (W.putH r x).wslot = W.wslot := rfl
@[simp] theorem Wave.putH_v (W : Wave) (r : Nat) (x : Handle) : (W.putH r x).v = W.v := rfl
@[simp] theorem Wave.putH_s (W : Wave) (r : Nat) (x : Handle) : (W.putH r x).s = W.s := rfl
@[simp] theorem Wave.putH_m (W : Wave) (r : Nat) (x : Handle) : (W.putH r x).m = W.m := rfl
@[simp] theorem Wave.putH_h (W : Wave) (r : Nat) (x : Handle) : (W.putH r x).h = W.h.setIfInBounds r x := rfl
@[simp] theorem Wave.putH_vPoison (W : Wave) (r : Nat) (x : Handle) : (W.putH r x).vPoison = W.vPoison := rfl
@[simp] theorem Wave.putH_fxf (W : Wave) (r : Nat) (x : Handle) : (W.putH r x).fxf = W.fxf := rfl
@[simp] theorem Wave.putH_chk (W : Wave) (r : Nat) (x : Handle) : (W.putH r x).chk = W.chk := rfl
@[simp] theorem Wave.putH_chkNext (W : Wave) (r : Nat) (x : Handle) : (W.putH r x).chkNext = W.chkNext := rfl
@[simp] theorem Wave.putH_iregpc (W : Wave) (r : Nat) (x : Handle) : (W.putH r x).iregpc = W.iregpc := rfl
@[simp] theorem Wave.putH_vmc (W : Wave) (r : Nat) (x : Handle) : (W.putH r x).vmc = W.vmc := rfl
@[simp] theorem Wave.putH_smc (W : Wave) (r : Nat) (x : Handle) : (W.putH r x).smc = W.smc := rfl
@[simp] theorem Wave.putH_mxc (W : Wave) (r : Nat) (x : Handle) : (W.putH r x).mxc = W.mxc := rfl
@[simp] theorem Wave.putH_cpc (W : Wave) (r : Nat) (x : Handle) : (W.putH r x).cpc = W.cpc := rfl
@[simp] theorem Wave.putH_key (W : Wave) (r : Nat) (x : Handle) : (W.putH r x).key = W.key := rfl
@[simp] theorem Wave.putH_ctr (W : Wave) (r : Nat) (x : Handle) : (W.putH r x).ctr = W.ctr := rfl
@[simp] theorem Wave.putH_region (W : Wave) (r : Nat) (x : Handle) : (W.putH r x).region = W.region := rfl
@[simp] theorem Wave.putH_tokens (W : Wave) (r : Nat) (x : Handle) : (W.putH r x).tokens = W.tokens := rfl
@[simp] theorem Wave.putH_spilled (W : Wave) (r : Nat) (x : Handle) : (W.putH r x).spilled = W.spilled := rfl
@[simp] theorem Wave.putH_trap (W : Wave) (r : Nat) (x : Handle) : (W.putH r x).trap = W.trap := rfl
@[simp] theorem Wave.putH_actB (W : Wave) (r : Nat) (x : Handle) : (W.putH r x).actB = W.actB := rfl
@[simp] theorem Wave.putH_actPending (W : Wave) (r : Nat) (x : Handle) : (W.putH r x).actPending = W.actPending := rfl
@[simp] theorem Wave.putH_inflight (W : Wave) (r : Nat) (x : Handle) : (W.putH r x).inflight = W.inflight := rfl
@[simp] theorem Wave.putH_results (W : Wave) (r : Nat) (x : Handle) : (W.putH r x).results = W.results := rfl
@[simp] theorem Wave.putH_fences (W : Wave) (r : Nat) (x : Handle) : (W.putH r x).fences = W.fences := rfl
@[simp] theorem Wave.putH_arrivals (W : Wave) (r : Nat) (x : Handle) : (W.putH r x).arrivals = W.arrivals := rfl
@[simp] theorem Wave.putH_tx (W : Wave) (r : Nat) (x : Handle) : (W.putH r x).tx = W.tx := rfl
@[simp] theorem Wave.putH_nextIssue (W : Wave) (r : Nat) (x : Handle) : (W.putH r x).nextIssue = W.nextIssue := rfl
@[simp] theorem Wave.putH_yielded (W : Wave) (r : Nat) (x : Handle) : (W.putH r x).yielded = W.yielded := rfl
@[simp] theorem Wave.putH_mx (W : Wave) (r : Nat) (x : Handle) : (W.putH r x).mx = W.mx := rfl
@[simp] theorem Wave.putH_splits (W : Wave) (r : Nat) (x : Handle) : (W.putH r x).splits = W.splits := rfl
@[simp] theorem Wave.putH_ended (W : Wave) (r : Nat) (x : Handle) : (W.putH r x).ended = W.ended := rfl
@[simp] theorem Wave.putH_adopted (W : Wave) (r : Nat) (x : Handle) : (W.putH r x).adopted = W.adopted := rfl

/-! ## What an accessor reads after an update -/

@[simp] theorem State.group_setGroup (g : Nat) (x : Group) : (s.setGroup g x).group g = x := by simp [State.group]
theorem State.group_setGroup_of_ne {g h : Nat} (x : Group) (n : h ≠ g) : (s.setGroup g x).group h = s.group h := by
  simp [State.group, Tbl.getD_set_of_ne _ _ _ n]

@[simp] theorem State.cg_modG (f : Group → Group) : (s.modG f).cg = f s.cg := by
  simp [State.cg, State.modG, State.modGroup]
@[simp] theorem State.cw_modW (f : Wave → Wave) : (s.modW f).cw = f s.cw := by
  simp [State.cw, State.modW, State.modWave, State.setWave, State.modGroup, State.wave, Group.wave]
@[simp] theorem State.csp_modSp (f : Split → Split) : (s.modSp f).csp = f s.csp := by
  simp [State.csp, State.modSp, State.modSplit, State.setSplit, State.modWave, State.setWave, State.modGroup, State.split,
    State.wave, Group.wave, Wave.split]

theorem State.csp_eq : s.csp = Tbl.getD s.cw.splits s.cur.sl {} := rfl
theorem State.cw_eq : s.cw = Tbl.getD s.cg.waves s.cur.w {} := rfl
theorem State.cg_eq : s.cg = Tbl.getD s.groups s.cur.g {} := rfl

theorem State.modSp_eq (f : Split → Split) :
    s.modSp f = s.modW fun W => { W with splits := Tbl.set W.splits s.cur.sl (f s.csp) } := rfl
theorem State.modW_eq (f : Wave → Wave) : s.modW f = s.modG fun G => { G with waves := Tbl.set G.waves s.cur.w (f s.cw) } := rfl
theorem State.modG_eq (f : Group → Group) : s.modG f = { s with groups := Tbl.set s.groups s.cur.g (f s.cg) } := rfl

/-- A change of the current wave leaves the rest of its group. -/
theorem State.cg_modW (f : Wave → Wave) : (s.modW f).cg = { s.cg with waves := Tbl.set s.cg.waves s.cur.w (f s.cw) } := by
  rw [State.modW_eq]; simp

@[simp] theorem State.unit_modW (f : Wave → Wave) : (s.modW f).cg.unit = s.cg.unit := by rw [State.cg_modW]
@[simp] theorem State.kernel_modW (f : Wave → Wave) : (s.modW f).cg.kernel = s.cg.kernel := by rw [State.cg_modW]
@[simp] theorem State.cu_modW (f : Wave → Wave) : (s.modW f).cu = s.cu := by simp [State.cu]
@[simp] theorem State.cyc_modW (f : Wave → Wave) : (s.modW f).cyc = s.cyc := by simp [State.cyc, State.cc, State.core]
@[simp] theorem State.cctx_modW (f : Wave → Wave) : (s.modW f).cctx = s.cctx := by
  have h : ((s.modW f).group s.cur.g).kernel = (s.group s.cur.g).kernel := s.kernel_modW f
  simp only [State.cctx, State.ctxOf, State.kernel, State.modW_disp, State.modW_cur, h]

/-- A change of the current wave that keeps its splits keeps the current split. -/
theorem State.csp_modW (f : Wave → Wave) (h : (f s.cw).splits = s.cw.splits) : (s.modW f).csp = s.csp := by
  rw [State.csp_eq, State.csp_eq, State.cw_modW, h]; rfl

@[simp] theorem State.cw_modSp (f : Split → Split) :
    (s.modSp f).cw = { s.cw with splits := Tbl.set s.cw.splits s.cur.sl (f s.csp) } := by
  rw [State.modSp_eq]; simp
@[simp] theorem State.cu_modSp (f : Split → Split) : (s.modSp f).cu = s.cu := by rw [State.modSp_eq]; simp
@[simp] theorem State.cyc_modSp (f : Split → Split) : (s.modSp f).cyc = s.cyc := by rw [State.modSp_eq]; simp
@[simp] theorem State.cctx_modSp (f : Split → Split) : (s.modSp f).cctx = s.cctx := by rw [State.modSp_eq]; simp

@[simp] theorem State.core_setCore (u : Nat) (x : Core) : (s.setCore u x).core u = x := by simp [State.core]
theorem State.core_setCore_of_ne {u v : Nat} (x : Core) (n : v ≠ u) : (s.setCore u x).core v = s.core v := by
  simp [State.core, Tbl.getD_set_of_ne _ _ _ n]
@[simp] theorem State.die_setDie (d : Nat) (x : Die) : (s.setDie d x).die d = x := by simp [State.die]
theorem State.die_setDie_of_ne {d e : Nat} (x : Die) (n : e ≠ d) : (s.setDie d x).die e = s.die e := by
  simp [State.die, Tbl.getD_set_of_ne _ _ _ n]
@[simp] theorem State.ctx_setCtx (c : Nat) (x : Context) : (s.setCtx c x).ctx c = x := by simp [State.ctx]
theorem State.ctx_setCtx_of_ne {c d : Nat} (x : Context) (n : d ≠ c) : (s.setCtx c x).ctx d = s.ctx d := by
  simp [State.ctx, Tbl.getD_set_of_ne _ _ _ n]
@[simp] theorem State.kernel_setKernel (k : Nat) (x : Kernel) : (s.setKernel k x).kernel k = x := by simp [State.kernel]
theorem State.kernel_setKernel_of_ne {k j : Nat} (x : Kernel) (n : j ≠ k) : (s.setKernel k x).kernel j = s.kernel j := by
  simp [State.kernel, Tbl.getD_set_of_ne _ _ _ n]
@[simp] theorem State.queue_setQueue (q : Nat) (x : Queue) : (s.setQueue q x).queue q = x := by simp [State.queue]

end Sys2Proof.Machine
end

