-- ==== Sys2Proof/Laws/Registers.lean ====
section
/-! SUPPORT. Laws of the operations that read and write registers, and of going on to the next instruction: what each does,
said once. -/

namespace Sys2Proof.Machine

/-! ## The pipeline's view (R25) -/

/-- An entry of another register is passed over. -/
theorem pipeVal_skip (c : Nat) (d : Dest) (xs ys : List Inflight) (h : ∀ e ∈ xs, e.dest ≠ d) :
    ∀ raw, pipeVal c d raw (xs ++ ys) = pipeVal c d raw ys := by
  induction xs with
  | nil => intro raw; rfl
  | cons e r ih =>
    intro raw
    simp only [List.cons_append, pipeVal]
    rw [if_neg (h e (by simp)), ih (fun e he => h e (by simp [he]))]

/-- The newest entries of a register that agree act as one. -/
theorem pipeVal_agree (c R : Nat) (o : DWord) (d : Dest) (xs ys : List Inflight)
    (h : ∀ e ∈ xs, e.dest = d → e.ready = R ∧ e.old = o) :
    ∀ raw, (∃ e ∈ xs, e.dest = d) → pipeVal c d raw (xs ++ ys) = if c < R then pipeVal c d o ys else raw := by
  induction xs with
  | nil => intro raw ⟨e, he, _⟩; cases he
  | cons e r ih =>
    intro raw hex
    have hr : ∀ e ∈ r, e.dest = d → e.ready = R ∧ e.old = o := fun x hx => h x (by simp [hx])
    simp only [List.cons_append, pipeVal]
    by_cases hd : e.dest = d
    · obtain ⟨h1, h2⟩ := h e (by simp) hd
      rw [if_pos hd, h1, h2]
      split
      · by_cases hx : ∃ x ∈ r, x.dest = d
        · rw [ih hr o hx]; split <;> rfl
        · exact pipeVal_skip c d r ys (fun x hx' hxd => hx ⟨x, hx', hxd⟩) o
      · rfl
    · rw [if_neg hd]
      refine ih hr raw ?_
      obtain ⟨x, hx, hxd⟩ := hex
      rcases List.mem_cons.1 hx with rfl | hx
      · exact absurd hxd hd
      · exact ⟨x, hx, hxd⟩

/-- Dropping the producers that no longer matter changes no later read. -/
theorem pipeVal_pruned (c0 : Nat) (d : Dest) (c : Nat) (hc : c0 ≤ c) (xs : List Inflight) :
    ∀ raw, pipeVal c d raw (pruned c0 xs).reverse = pipeVal c d raw xs.reverse := by
  have key : ∀ zs : List Inflight, ∀ raw,
      pipeVal c d raw (pruned c0 zs.reverse).reverse = pipeVal c d raw zs := by
    intro zs
    induction zs with
    | nil => intro raw; rfl
    | cons e r ih =>
      intro raw
      have hp : pruned c0 (e :: r).reverse =
          if e.ready ≤ c0 && !(pruned c0 r.reverse).any (fun f => f.dest == e.dest) then pruned c0 r.reverse
          else pruned c0 r.reverse ++ [e] := by
        simp [pruned, List.foldl_append]
      rw [hp]
      split
      · rename_i hcond
        simp only [Bool.and_eq_true, decide_eq_true_eq, Bool.not_eq_true', List.any_eq_false, beq_iff_eq] at hcond
        simp only [pipeVal]
        by_cases hd : e.dest = d
        · rw [if_pos hd, if_neg (by omega)]
          have := pipeVal_skip c d (pruned c0 r.reverse).reverse [] (by
            intro f hf hfd; exact hcond.2 f (by simpa using hf) (hfd.trans hd.symm)) raw
          simpa [pipeVal] using this
        · rw [if_neg hd]; exact ih raw
      · rw [List.reverse_append]
        simp only [List.reverse_cons, List.reverse_nil, List.nil_append, List.cons_append, pipeVal]
        split
        · split
          · exact ih _
          · rfl
        · exact ih raw
  intro raw
  simpa using key xs.reverse raw

/-- New producers after the old ones, for a register that none of them writes. -/
theorem pipeVal_pushed_skip (c0 c : Nat) (hc : c0 ≤ c) (d : Dest) (xs ns : List Inflight) (h : ∀ e ∈ ns, e.dest ≠ d)
    (raw : DWord) : pipeVal c d raw (pruned c0 xs ++ ns).reverse = pipeVal c d raw xs.reverse := by
  rw [List.reverse_append, pipeVal_skip c d ns.reverse _ (by simpa using h), pipeVal_pruned c0 d c hc]

/-- New producers after the old ones, for a register that they write, each with the value it held and the cycle it is ready. -/
theorem pipeVal_pushed (c0 c R : Nat) (hc : c0 ≤ c) (o : DWord) (d : Dest) (xs ns : List Inflight)
    (h : ∀ e ∈ ns, e.dest = d → e.ready = R ∧ e.old = o) (hex : ∃ e ∈ ns, e.dest = d) (raw : DWord) :
    pipeVal c d raw (pruned c0 xs ++ ns).reverse = if c < R then pipeVal c d o xs.reverse else raw := by
  rw [List.reverse_append, pipeVal_agree c R o d ns.reverse _ (by simpa using h) raw (by simpa using hex),
    pipeVal_pruned c0 d c hc]

/-! ## Reading one register -/

theorem State.rdS_eq (s : State) (r : Nat) : s.rdS r = s.regAt s.cyc (.s r) := rfl

theorem State.rdM_eq (s : State) (r : Nat) : s.rdM r = (s.regAt s.cyc (.m r)).setWidth 32 := rfl

theorem Row.lane_make (f : Nat → Word) (l : Nat) : (Row.make f).lane l = if l < 32 then f l else 0 := by
  unfold Row.lane Row.make
  rw [List.getD_eq_getElem?_getD, Vector.getElem?_toList]
  split
  · rw [Vector.getElem?_eq_getElem (by omega)]; simp
  · rw [Vector.getElem?_eq_none (by omega)]; rfl

theorem pipeVal_nil_all (c : Nat) (d : Dest) (raw : DWord) : pipeVal c d raw [] = raw := rfl

theorem State.rdVL_eq (s : State) (r l : Nat) (h : l < 32) : s.rdVL r l = (s.regAt s.cyc (.v r l)).setWidth 32 := by
  unfold State.rdVL State.rdV State.regAt Wave.rawV
  split
  · rename_i he
    rw [List.isEmpty_iff.1 he]
    simp [pipeVal]
  · rw [Row.lane_make, if_pos h]

/-! ## Lists and vectors -/

theorem getD_setIfInBounds {α : Type} {n : Nat} (v : Vector α n) (i j : Nat) (x d : α) :
    (v.setIfInBounds i x).toList.getD j d = if i = j ∧ j < n then x else v.toList.getD j d := by
  simp only [List.getD_eq_getElem?_getD, Vector.getElem?_toList]
  rw [Vector.getElem?_setIfInBounds]
  by_cases h : i = j
  · subst h
    by_cases hn : i < n
    · simp [hn]
    · simp [hn]
  · simp [h]

theorem getD_listSet {α : Type} (v : List α) (i j : Nat) (x d : α) :
    (v.set i x).getD j d = if i = j ∧ j < v.length then x else v.getD j d := by
  simp only [List.getD_eq_getElem?_getD, List.getElem?_set]
  by_cases h : i = j
  · subst h
    by_cases hn : i < v.length
    · simp [hn]
    · simp [hn]
  · simp [h]

theorem mem_maskLanes (e : Word) (l : Nat) : l ∈ maskLanes e ↔ l < 32 ∧ e.getLsbD l = true := by
  simp [maskLanes, lanes]

/-! ## Changes of the current wave -/

/-- A change of the current wave touches nothing else. -/
theorem OnlyWave.modW (s : State) (f : Wave → Wave) : OnlyWave s (s.modW f) where
  machine := by rw [State.modW_eq, State.modG_eq]
  groups g h := by rw [State.modW_eq, State.modG_eq]; exact Tbl.get?_set_of_ne _ _ h
  group := by rw [State.cg_modW]
  waves w h := by rw [State.cg_modW]; exact Tbl.get?_set_of_ne _ _ h
  bytes := ⟨fun _ => rfl, fun g a => by
    unfold State.scratchRead
    by_cases h : g = s.cur.g
    · subst h
      have := congrArg Group.scratch (s.cg_modW f)
      exact congrArg (Mem.read · a) this
    · have : (s.modW f).group g = s.group g := by
        rw [State.modW_eq, State.modG_eq]; simp [State.group, Tbl.getD_set_of_ne _ _ _ h]
      rw [this]⟩

theorem OnlyWave.cur {s t : State} (h : OnlyWave s t) : t.cur = s.cur := by
  have := congrArg State.cur h.machine
  exact this

theorem OnlyWave.trans {s t u : State} (h : OnlyWave s t) (k : OnlyWave t u) : OnlyWave s u := by
  have hc : t.cur = s.cur := h.cur
  refine ⟨?_, ?_, ?_, ?_, ?_, ?_⟩
  · have h1 := h.machine
    have h2 := k.machine
    calc { u with groups := s.groups } = { ({ u with groups := t.groups } : State) with groups := s.groups } := rfl
      _ = { t with groups := s.groups } := by rw [h2]
      _ = s := h1
  · intro g hg; rw [k.groups g (by rw [hc]; exact hg), h.groups g hg]
  · have h1 := h.group
    have h2 := k.group
    calc { u.cg with waves := s.cg.waves } = { ({ u.cg with waves := t.cg.waves } : Group) with waves := s.cg.waves } := rfl
      _ = { t.cg with waves := s.cg.waves } := by rw [h2]
      _ = s.cg := h1
  · intro w hw; rw [k.waves w (by rw [hc]; exact hw), h.waves w hw]
  · intro a; rw [k.bytes.memory, h.bytes.memory]
  · intro g a; rw [k.bytes.scratch, h.bytes.scratch]

theorem OnlyWave.modSp (s : State) (f : Split → Split) : OnlyWave s (s.modSp f) := by
  rw [State.modSp_eq]; exact OnlyWave.modW s _

theorem OnlyWave.refl (s : State) : OnlyWave s s := ⟨rfl, fun _ _ => rfl, rfl, fun _ _ => rfl, ⟨fun _ => rfl, fun _ _ => rfl⟩⟩

/-! ## Going on (R24) -/

@[simp] theorem State.applyStall_cw (s : State) :
    s.applyStall.cw = { s.cw with nextIssue := max s.cw.nextIssue (s.cyc + 1 + s.cur.stall) } := by
  unfold State.applyStall; simp

@[simp] theorem State.applyStall_cur (s : State) : s.applyStall.cur = s.cur := rfl
@[simp] theorem State.applyStall_cyc (s : State) : s.applyStall.cyc = s.cyc := by unfold State.applyStall; simp
@[simp] theorem State.applyStall_csp (s : State) : s.applyStall.csp = s.csp := by
  rw [State.csp_eq, State.csp_eq, State.applyStall_cw]; rfl

@[simp] theorem State.retire_cur (s : State) : s.retire.cur = s.cur := rfl
@[simp] theorem State.retire_cw (s : State) : s.retire.cw = { s.cw with
    nextIssue := max s.cw.nextIssue (s.cyc + 1 + s.cur.stall)
    splits := Tbl.set s.cw.splits s.cur.sl (s.csp.past s.cur.len) } := by
  simp [State.retire]
@[simp] theorem State.retire_csp (s : State) : s.retire.csp = s.csp.past s.cur.len := by simp [State.retire]
@[simp] theorem State.retire_cyc (s : State) : s.retire.cyc = s.cyc := by simp [State.retire]

theorem State.retire_only (s : State) : OnlyWave s s.retire :=
  (OnlyWave.modW s _).trans (OnlyWave.modSp s.applyStall _)

/-- A read of a register sees only the stored registers and what is in flight. -/
theorem State.regAt_congr {s t : State} (hs : t.cw.s = s.cw.s) (hm : t.cw.m = s.cw.m) (hv : t.cw.v = s.cw.v)
    (hi : t.cw.inflight = s.cw.inflight) (c : Nat) (d : Dest) : t.regAt c d = s.regAt c d := by
  cases d <;> simp only [State.regAt, Wave.rawV, hs, hm, hv, hi]

@[simp] theorem State.retire_regAt (s : State) (c : Nat) (d : Dest) : s.retire.regAt c d = s.regAt c d :=
  State.regAt_congr (by simp) (by simp) (by simp) (by simp) c d

/-! ## Fixed-latency results -/

theorem Draws.none {s t : State} (e : Word) (h : t.cw.ctr = s.cw.ctr) : Draws s t e 0 := by
  intro i _
  rw [h]
  split
  · apply BitVec.eq_of_toNat_eq
    rw [BitVec.toNat_ofNat]
    have := (s.cw.ctr.toList.getD i 0).isLt
    omega
  · rfl

/-- An instruction whose registers are written in `u` and that then goes on. -/
theorem Fixed.retire {s u : State} {W : Dest → Prop} {val : Dest → DWord} {lat : Nat} {fl : Flags} {n : Nat}
    (results : Results s u W val lat) (flags : u.cw.fxf = s.cw.fxf ||| fl) (poison : PoisonClears s u W)
    (draws : Draws s u s.csp.exec n) (wave : WaveBut s u) (only : OnlyWave s u)
    (splits : u.cw.splits = s.cw.splits) (next : u.cw.nextIssue = s.cw.nextIssue) (cyc : u.cyc = s.cyc) :
    Fixed s u.retire W val lat fl n := by
  have hcur : u.cur = s.cur := only.cur
  have hsp : u.csp = s.csp := by rw [State.csp_eq, State.csp_eq, splits, hcur]
  refine ⟨⟨?_, ?_, ?_⟩, ?_, ?_, ?_, ?_, ⟨?_, ?_, ?_⟩, only.trans u.retire_only⟩
  · intro d hd c hc; rw [State.retire_regAt]; exact results.result d hd c hc
  · intro d hd c hc h; rw [State.retire_regAt]; exact results.early d hd c hc h
  · intro d hd c hc; rw [State.retire_regAt]; exact results.kept d hd c hc
  · rw [State.retire_cw]; exact flags
  · exact ⟨fun p => by rw [State.retire_cw]; exact poison.lanes p, fun k h => by rw [State.retire_cw]; exact poison.scalars k h,
      fun k => by rw [State.retire_cw]; exact poison.masks k⟩
  · intro i hi; rw [State.retire_cw]; exact draws i hi
  · unfold WaveBut at *; rw [State.retire_cw]; exact wave
  · rw [State.retire_csp, hsp, hcur]
  · intro k hk
    rw [State.retire_cw, ← splits]
    exact Tbl.get?_set_of_ne _ _ (by rw [hcur]; exact hk)
  · rw [State.retire_cw]; show max u.cw.nextIssue _ = _; rw [next, cyc, hcur]

/-- A scalar result (R25, R33). -/
theorem State.wrS_results (s : State) (r : Nat) (v : DWord) (hr : r < 64) :
    Results s (s.wrS r v) (fun d => d = .s r) (fun _ => if r = 0 then 0 else v) 2 := by
  unfold State.wrS
  by_cases h0 : r = 0
  · subst h0
    rw [if_pos rfl]
    exact ⟨by rintro d rfl c _; simp [State.regAt], by intros; rfl, by intros; rfl⟩
  · rw [if_neg h0]
    refine ⟨?_, ?_, ?_⟩
    · rintro d rfl c hc
      simp only [State.regAt, State.cw_modW, Wave.putS, if_neg h0]
      rw [pipeVal_pushed s.cyc c (s.cyc + latScalar) (by omega) (s.cw.s.toList.getD r 0) _ _ _ (by simp) (by simp),
        if_neg (by simp only [latScalar]; omega), getD_setIfInBounds, if_pos ⟨rfl, hr⟩]
    · rintro d rfl c hc hlt
      simp only [State.regAt, State.cw_modW, Wave.putS, if_neg h0]
      rw [pipeVal_pushed s.cyc c (s.cyc + latScalar) hc (s.cw.s.toList.getD r 0) _ _ _ (by simp) (by simp),
        if_pos (by simp only [latScalar]; omega)]
    · intro d hd c hc
      cases d with
      | s k =>
        have hk : r ≠ k := fun e => hd (by rw [e])
        have hk' : ¬ (r = k ∧ k < 64) := fun e => hk e.1
        simp only [State.regAt, State.cw_modW, Wave.putS, if_neg h0]
        rw [pipeVal_pushed_skip s.cyc c hc _ _ _ (by simp [hk]), getD_setIfInBounds, if_neg hk']
      | m k =>
        simp only [State.regAt, State.cw_modW, Wave.putS, if_neg h0]
        rw [pipeVal_pushed_skip s.cyc c hc _ _ _ (by simp)]
      | v k l =>
        simp only [State.regAt, State.cw_modW, Wave.putS, if_neg h0]
        rw [pipeVal_pushed_skip s.cyc c hc _ _ _ (by simp)]; rfl
      | h k => rfl

/-- A mask result. -/
theorem State.wrM_results (s : State) (r : Nat) (v : Word) (lat : Nat) (hr : r < 8) :
    Results s (s.wrM r v lat) (fun d => d = .m r) (fun _ => v.setWidth 64) lat := by
  unfold State.wrM
  refine ⟨?_, ?_, ?_⟩
  · rintro d rfl c hc
    simp only [State.regAt, State.cw_modW, Wave.putM]
    rw [pipeVal_pushed s.cyc c (s.cyc + lat) (by omega) ((s.cw.m.toList.getD r 0).setWidth 64) _ _ _ (by simp) (by simp),
      if_neg (by omega), getD_setIfInBounds, if_pos ⟨rfl, hr⟩]
  · rintro d rfl c hc hlt
    simp only [State.regAt, State.cw_modW, Wave.putM]
    rw [pipeVal_pushed s.cyc c (s.cyc + lat) hc ((s.cw.m.toList.getD r 0).setWidth 64) _ _ _ (by simp) (by simp),
      if_pos (by omega)]
  · intro d hd c hc
    cases d with
    | m k =>
      have hk : r ≠ k := fun e => hd (by rw [e])
      have hk' : ¬ (r = k ∧ k < 8) := fun e => hk e.1
      simp only [State.regAt, State.cw_modW, Wave.putM]
      rw [pipeVal_pushed_skip s.cyc c hc _ _ _ (by simp [hk]), getD_setIfInBounds, if_neg hk']
    | s k =>
      simp only [State.regAt, State.cw_modW, Wave.putM]
      split
      · rfl
      · rw [pipeVal_pushed_skip s.cyc c hc _ _ _ (by simp)]
    | v k l =>
      simp only [State.regAt, State.cw_modW, Wave.putM]
      rw [pipeVal_pushed_skip s.cyc c hc _ _ _ (by simp)]; rfl
    | h k => rfl

/-- A lane of a register after the lanes of a mask of a register are written. -/
theorem Wave.rawV_putRow (W : Wave) (r : Nat) (e : Word) (f : Nat → Word) (k l : Nat) (hr : r < W.v.length) :
    (W.putRow r e f).rawV k l = if k = r ∧ l < 32 ∧ e.getLsbD l = true then f l else W.rawV k l := by
  simp only [Wave.rawV, Wave.putRow_v]
  rw [getD_listSet]
  by_cases hk : r = k
  · subst hk
    rw [if_pos ⟨rfl, hr⟩, Row.lane_make]
    by_cases hl : l < 32
    · simp [hl]
    · simp only [hl, false_and, and_false, if_false]
      unfold Row.lane
      rw [List.getD_eq_getElem?_getD, List.getElem?_eq_none (by simpa using hl)]; rfl
  · rw [if_neg (by simp [hk]), if_neg (by intro h; exact hk h.1.symm)]

/-- A vector result (R25, R129): the lanes of exec. -/
theorem State.wrV_results (s : State) (r : Nat) (f : Nat → Word) (hr : r < s.cw.v.length) :
    Results s (s.wrV r f) (ExecLanes s r) (laneOf fun l => (f l).toNat) 4 := by
  have hin : ∀ k l, (∃ x ∈ (maskLanes s.csp.exec).map fun l => (⟨s.cyc + latVector, .v r l, (s.cw.rawV r l).setWidth 64, false⟩ : Inflight),
      x.dest = .v k l) ↔ k = r ∧ l < 32 ∧ s.csp.exec.getLsbD l = true := by
    intro k l
    constructor
    · rintro ⟨x, hx, hd⟩
      obtain ⟨y, hy, rfl⟩ := List.mem_map.1 hx
      simp only [Dest.v.injEq] at hd
      obtain ⟨rfl, rfl⟩ := hd
      exact ⟨rfl, (mem_maskLanes _ _).1 hy⟩
    · rintro ⟨rfl, hl⟩
      exact ⟨_, List.mem_map.2 ⟨l, (mem_maskLanes _ _).2 hl, rfl⟩, rfl⟩
  have hraw : ∀ k l, ((s.wrV r f).cw.rawV k l) = if k = r ∧ l < 32 ∧ s.csp.exec.getLsbD l = true then f l else s.cw.rawV k l := by
    intro k l
    unfold State.wrV State.wrVIn
    rw [State.cw_modW]
    exact Wave.rawV_putRow s.cw r s.csp.exec f k l hr
  have hinf : (s.wrV r f).cw.inflight = pruned s.cyc s.cw.inflight ++
      (maskLanes s.csp.exec).map fun l => (⟨s.cyc + latVector, .v r l, (s.cw.rawV r l).setWidth 64, false⟩ : Inflight) := by
    unfold State.wrV State.wrVIn; rw [State.cw_modW]
  refine ⟨?_, ?_, ?_⟩
  · rintro d ⟨l, hl, he, rfl⟩ c hc
    simp only [State.regAt, hraw, hinf]
    rw [pipeVal_pushed s.cyc c (s.cyc + latVector) (by omega) ((s.cw.rawV r l).setWidth 64) _ _ _ ?_ ((hin r l).2 ⟨rfl, hl, he⟩),
      if_neg (by simp only [latVector]; omega), if_pos (by simp [hl, he])]
    · simp only [laneOf]; exact BitVec.eq_of_toNat_eq (by simp)
    · intro x hx hd
      obtain ⟨y, hy, rfl⟩ := List.mem_map.1 hx
      simp only [Dest.v.injEq, true_and] at hd
      subst hd; exact ⟨rfl, rfl⟩
  · rintro d ⟨l, hl, he, rfl⟩ c hc hlt
    simp only [State.regAt, hraw, hinf]
    rw [pipeVal_pushed s.cyc c (s.cyc + latVector) hc ((s.cw.rawV r l).setWidth 64) _ _ _ ?_ ((hin r l).2 ⟨rfl, hl, he⟩),
      if_pos (by simp only [latVector]; omega)]
    intro x hx hd
    obtain ⟨y, hy, rfl⟩ := List.mem_map.1 hx
    simp only [Dest.v.injEq, true_and] at hd
    subst hd; exact ⟨rfl, rfl⟩
  · intro d hd c hc
    have hs : (s.wrV r f).cw.s = s.cw.s := by unfold State.wrV State.wrVIn; rw [State.cw_modW]; rfl
    have hm : (s.wrV r f).cw.m = s.cw.m := by unfold State.wrV State.wrVIn; rw [State.cw_modW]; rfl
    cases d with
    | v k l =>
      have hn : ¬ (k = r ∧ l < 32 ∧ s.csp.exec.getLsbD l = true) := by
        rintro ⟨rfl, h1, h2⟩; exact hd ⟨l, h1, h2, rfl⟩
      simp only [State.regAt, hraw, hinf, if_neg hn]
      rw [pipeVal_pushed_skip s.cyc c hc]
      intro x hx hxd; exact hn ((hin k l).1 ⟨x, hx, hxd⟩)
    | s k =>
      simp only [State.regAt, hs, hinf]
      rw [pipeVal_pushed_skip s.cyc c hc]
      intro x hx; obtain ⟨y, _, rfl⟩ := List.mem_map.1 hx; simp
    | m k =>
      simp only [State.regAt, hm, hinf]
      rw [pipeVal_pushed_skip s.cyc c hc]
      intro x hx; obtain ⟨y, _, rfl⟩ := List.mem_map.1 hx; simp
    | h k => rfl

/-- An instruction with one scalar result. -/
theorem State.scalar_fixed (s : State) (r : Nat) (v : DWord) (hr : r < 64) :
    Fixed s (s.wrS r v).retire (fun d => d = .s r) (fun _ => if r = 0 then 0 else v) 2 0 0 := by
  have hcw : (s.wrS r v).cw = s.cw ∨ (s.wrS r v).cw = { s.cw.putS r v with
      inflight := pruned s.cyc s.cw.inflight ++ [⟨s.cyc + latScalar, .s r, s.cw.s.toList.getD r 0, false⟩] } := by
    unfold State.wrS
    split
    · exact .inl rfl
    · exact .inr (by rw [State.cw_modW])
  have hcyc : (s.wrS r v).cyc = s.cyc := by unfold State.wrS; split <;> simp
  have honly : OnlyWave s (s.wrS r v) := by
    unfold State.wrS
    split
    · exact OnlyWave.refl s
    · exact OnlyWave.modW s _
  refine Fixed.retire (s.wrS_results r v hr) ?_ ?_ ?_ ?_ honly ?_ ?_ hcyc
  · rcases hcw with h | h <;> rw [h] <;> simp
  · unfold State.wrS
    by_cases h0 : r = 0
    · rw [if_pos h0]
      refine ⟨fun p => by simp, fun k hk => ?_, fun k => by simp⟩
      simp only [Dest.s.injEq]
      exact ⟨fun h => ⟨h, fun e => hk (e.trans h0)⟩, fun h => h.1⟩
    · rw [if_neg h0]
      refine ⟨fun p => ?_, fun k _ => ?_, fun k => ?_⟩ <;> rw [State.cw_modW] <;> simp [Wave.putS, if_neg h0]
  · apply Draws.none; rcases hcw with h | h <;> rw [h]; simp
  · unfold WaveBut; rcases hcw with h | h <;> rw [h]; simp [Wave.putS]; split <;> rfl
  · rcases hcw with h | h <;> rw [h]; simp
  · rcases hcw with h | h <;> rw [h]; simp

/-- An instruction with one mask result, and flags. -/
theorem State.mask_fixed (s : State) (r : Nat) (v : Word) (lat : Nat) (fl : Flags) (hr : r < 8) :
    Fixed s ((s.wrM r v lat).orFlags fl).retire (fun d => d = .m r) (fun _ => v.setWidth 64) lat fl 0 := by
  have h := s.wrM_results r v lat hr
  have hreg : ∀ c d, ((s.wrM r v lat).orFlags fl).regAt c d = (s.wrM r v lat).regAt c d := by
    intro c d
    exact State.regAt_congr (by simp [State.orFlags]) (by simp [State.orFlags]) (by simp [State.orFlags])
      (by simp [State.orFlags]) c d
  refine Fixed.retire ⟨fun d hd c hc => ?_, fun d hd c hc hl => ?_, fun d hd c hc => ?_⟩ ?_ ?_ ?_ ?_
    ((OnlyWave.modW s _).trans (OnlyWave.modW _ _)) ?_ ?_ ?_
  · rw [hreg]; exact h.result d hd c hc
  · rw [hreg]; exact h.early d hd c hc hl
  · rw [hreg]; exact h.kept d hd c hc
  · simp [State.orFlags, State.wrM]
  · refine ⟨fun p => ?_, fun k _ => ?_, fun k => ?_⟩ <;> simp [State.orFlags, State.wrM, Wave.putM]
  · apply Draws.none; simp [State.orFlags, State.wrM]
  · unfold WaveBut; simp [State.orFlags, State.wrM, Wave.putM]
  · simp [State.orFlags, State.wrM]
  · simp [State.orFlags, State.wrM]
  · simp [State.orFlags, State.wrM]

theorem State.orFlags_zero (s : State) : (s.orFlags 0).cw = s.cw := by simp [State.orFlags]

/-- An instruction with one mask result and no flags. -/
theorem State.mask_fixed0 (s : State) (r : Nat) (v : Word) (lat : Nat) (hr : r < 8) :
    Fixed s (s.wrM r v lat).retire (fun d => d = .m r) (fun _ => v.setWidth 64) lat 0 0 := by
  refine Fixed.retire (s.wrM_results r v lat hr) ?_ ?_ ?_ ?_ (OnlyWave.modW s _) ?_ ?_ ?_
  · simp [State.wrM]
  · refine ⟨fun p => ?_, fun k _ => ?_, fun k => ?_⟩ <;> simp [State.wrM, Wave.putM]
  · apply Draws.none; simp [State.wrM]
  · unfold WaveBut; simp [State.wrM, Wave.putM]
  · simp [State.wrM]
  · simp [State.wrM]
  · simp [State.wrM]

/-- Poison marks after a vector result. -/
theorem State.wrV_poison (s : State) (r : Nat) (f : Nat → Word) : PoisonClears s (s.wrV r f) (ExecLanes s r) := by
  refine ⟨fun p => ?_, fun k _ => by simp [State.wrV, State.wrVIn, ExecLanes, Wave.putRow],
    fun k => by simp [State.wrV, State.wrVIn, ExecLanes, Wave.putRow]⟩
  unfold State.wrV State.wrVIn
  rw [State.cw_modW]
  simp only [List.mem_filter, Bool.not_eq_true', Bool.and_eq_false_iff]
  refine and_congr_right fun _ => ?_
  constructor
  · rintro h ⟨l, hl, he, hd⟩
    simp only [Dest.v.injEq] at hd
    rcases h with h | h
    · simp [hd.1] at h
    · rw [hd.2, he] at h; cases h
  · intro h
    by_cases hp : p.1 = r
    · refine .inr (Bool.eq_false_iff.2 fun he => h ⟨p.2, ?_, he, by rw [hp]⟩)
      exact Nat.lt_of_not_le fun hle => by simp [BitVec.getLsbD_of_ge _ _ hle] at he
    · exact .inl (by simpa using hp)

/-- An instruction with one vector result. -/
theorem State.vector_fixed (s : State) (r : Nat) (f : Nat → Word) (hr : r < s.cw.v.length) :
    Fixed s (s.wrV r f).retire (ExecLanes s r) (laneOf fun l => (f l).toNat) 4 0 0 := by
  refine Fixed.retire (s.wrV_results r f hr) ?_ (s.wrV_poison r f) ?_ ?_ (by unfold State.wrV State.wrVIn; exact OnlyWave.modW s _) ?_ ?_ ?_
  · simp [State.wrV, State.wrVIn]
  · apply Draws.none; simp [State.wrV, State.wrVIn]
  · unfold WaveBut; simp [State.wrV, State.wrVIn, Wave.putRow]
  · simp [State.wrV, State.wrVIn]
  · simp [State.wrV, State.wrVIn]
  · simp [State.wrV, State.wrVIn]

end Sys2Proof.Machine
end

