-- ==== Sys2Proof/Tests/Slice0.lean ====
section
/-! SUPPORT. Tests. Expected words come from the manual's worked encodings or from its encoding tables; the witnesses show that the
hypotheses of each statement, clause by clause, can be met together. -/

open Sys2Proof Sys2Proof.Machine

/-- A wave of one split with every lane, on core 0, in a live context that holds every right; see State.place. -/
def base : State := State.reset.place 32 0

/-- The same with a scalar, a mask or a format set. -/
def withS (s : State) (r : Nat) (x : DWord) : State := s.modW fun W => { W with s := W.s.setIfInBounds r x }
def withFmt (s : State) (f : Word) : State := s.modSp fun p => { p with fmt := f }
def inTrap (s : State) : State := s.modSp fun p => { p with mode := .trap }
def withTrapAddr (s : State) (a : Nat) : State := s.modCtx 0 fun c => { c with trap := a }

set_option maxRecDepth 20000

theorem witness_SpecialRegisterWrites_fmt : (0x0B : Fin 64).val = 0x0B ∧ ((withS base 5 0x77).rdS 5).toNat < 2 ^ 32 ∧
    fmtOk (((withS base 5 0x77).rdS 5).setWidth 32) = true := by decide
theorem witness_SpecialRegisterWrites_fmtBad : 2 ^ 32 ≤ ((withS base 5 0x100000000).rdS 5).toNat ∧
    fmtOk (((withS base 5 0x8000).rdS 5).setWidth 32) = false := by decide
theorem witness_SpecialRegisterWrites_limits : ((withS base 5 31).rdS 5).toNat < 32 ∧ 32 ≤ ((withS base 5 32).rdS 5).toNat ∧
    ((withS base 5 1).rdS 5).toNat < 2 ∧ 2 ≤ ((withS base 5 2).rdS 5).toNat := by decide
theorem witness_SpecialRegisterWrites_penmax : (base.ctx base.cctx).priv = true ∧ 0 < ((withS base 5 0xFFFE).rdS 5).toNat ∧
    ((withS base 5 0xFFFE).rdS 5).toNat < 0xFFFF ∧ (base.rdS 5).toNat = 0 ∧ 0xFFFF ≤ ((withS base 5 0xFFFF).rdS 5).toNat ∧
    ((base.modCtx 0 fun c => { c with priv := false }).ctx 0).priv = false := by decide

/-- An image of 64 words of code whose words 0 and 4 are headers; the clause at word 4 begins with JOIN. -/
def coded : State :=
  let s := base.modKernel 0 fun K => { K with img := { codeWords := 64, regs := 128 } }
  { s with memory := { s.memory with mem := Mem.writeBytes (Mem.writeBytes s.memory.mem 0 [0x11]) 0x10014 [0, 0, 0x80, 0] } }

/-- The leaf that maps the low GiB. -/
def lowLeaf : Leaf := ⟨0, 0, 1073741824, 0, true, true, true, false⟩

theorem witness_UniformControlFlow_header : coded.isHeader (BitVec.ofNat 64 (wordsFromHeader coded (targetOffset (.near 0)))) ∧
    (withS coded 5 1).rdS 5 ≠ 0 ∧ coded.rdS 5 = 0 ∧ (withS coded 5 0x10000).isHeader ((withS coded 5 0x10000).rdS 5) :=
  ⟨⟨lowLeaf, by decide⟩, by decide, by decide, ⟨lowLeaf, by decide⟩⟩

theorem witness_UniformControlFlow_noHeader :
    coded.headerBit 0 (coded.imgOf 0 0) (BitVec.ofNat 64 (wordsFromHeader coded (targetOffset (.near 1)))).toNat = .no ∧
    coded.csp.exec = coded.csp.members ∧ coded.headerBit 0 (coded.imgOf 0 0) (coded.rdS 5).toNat = .no := by decide

theorem witness_DivergentBranches_narrowed : (base.modSp fun p => { p with exec := 1 }).csp.exec ≠ base.csp.members := by decide

theorem witness_DivergentBranches_agree :
    let s := coded
    let dest : DWord := BitVec.ofNat 64 (wordsFromHeader s (targetOffset (.near 0)))
    let rejoin : DWord := BitVec.ofNat 64 (wordsFromHeader s (4 : Word).toInt)
    s.csp.exec = s.csp.members ∧ Tbl.has s.cw.splits s.cur.sl = true ∧ s.isHeader dest ∧ (s.headerRead dest).isHeader rejoin ∧
    ((s.headerRead dest).headerRead rejoin).rdCode (rejoin + 4) = .ok 0x00800000 lowLeaf ∧ decodeWord 0x00800000 [] = .ok .join ∧
    s.csp.exec &&& s.rdM 1 = 0 :=
  ⟨by decide, by decide, ⟨lowLeaf, by decide⟩, ⟨lowLeaf, by decide⟩, by decide, by decide, by decide⟩

/-- Half of the lanes are in m1. -/
def divided : State := coded.modW fun W => { W with m := W.m.setIfInBounds 1 0xFFFF }

theorem witness_DivergentBranches_divided :
    let s := divided
    let dest : DWord := BitVec.ofNat 64 (wordsFromHeader s (targetOffset (.near 0)))
    let rejoin : DWord := BitVec.ofNat 64 (wordsFromHeader s (4 : Word).toInt)
    s.csp.exec = s.csp.members ∧ Tbl.has s.cw.splits s.cur.sl = true ∧ s.isHeader dest ∧ (s.headerRead dest).isHeader rejoin ∧
    ((s.headerRead dest).headerRead rejoin).rdCode (rejoin + 4) = .ok 0x00800000 lowLeaf ∧ decodeWord 0x00800000 [] = .ok .join ∧
    s.csp.exec &&& s.rdM 1 ≠ 0 ∧ s.csp.exec &&& ~~~ s.rdM 1 ≠ 0 ∧ s.csp.mode ≠ .trap ∧ s.cw.tokens.length < 16 ∧
    s.cw.freeSlot = some 1 :=
  ⟨by decide, by decide, ⟨lowLeaf, by decide⟩, ⟨lowLeaf, by decide⟩, by decide, by decide, by decide, by decide, by decide, by decide,
    by decide⟩

/-- Every split slot of the wave is taken; every token, resident and spilled, is too. -/
def fullSlots (s : State) : State := s.modW fun W => { W with splits := [1, 2, 3].foldl (fun t k => Tbl.set t k {}) W.splits }
def fullTokens (s : State) : State :=
  let t : Token := ⟨0x10010, 0, 0xFFFFFFFF, 0, 0, 0, 0, false⟩
  (s.modW fun W => { W with tokens := List.replicate 16 t }).modG fun G => { G with spill := (List.range 16).map fun i => (i, t) }

theorem witness_DivergentBranches_noSlot :
    let s := fullSlots divided
    let dest : DWord := BitVec.ofNat 64 (wordsFromHeader s (targetOffset (.near 0)))
    let rejoin : DWord := BitVec.ofNat 64 (wordsFromHeader s (4 : Word).toInt)
    s.csp.exec = s.csp.members ∧ Tbl.has s.cw.splits s.cur.sl = true ∧ s.isHeader dest ∧ (s.headerRead dest).isHeader rejoin ∧
    ((s.headerRead dest).headerRead rejoin).rdCode (rejoin + 4) = .ok 0x00800000 lowLeaf ∧
    s.csp.exec &&& s.rdM 1 ≠ 0 ∧ s.csp.exec &&& ~~~ s.rdM 1 ≠ 0 ∧ s.csp.mode ≠ .trap ∧ s.cw.tokens.length < 16 ∧
    s.cw.freeSlot = none :=
  ⟨by decide, by decide, ⟨lowLeaf, by decide⟩, ⟨lowLeaf, by decide⟩, by decide, by decide, by decide, by decide, by decide, by decide⟩

theorem witness_DivergentBranches_noToken :
    let s := fullTokens divided
    let dest : DWord := BitVec.ofNat 64 (wordsFromHeader s (targetOffset (.near 0)))
    s.csp.exec = s.csp.members ∧ s.isHeader dest ∧ s.csp.exec &&& s.rdM 1 ≠ 0 ∧ s.csp.exec &&& ~~~ s.rdM 1 ≠ 0 ∧
    s.csp.mode ≠ .trap ∧ 16 ≤ s.cw.tokens.length ∧ ∀ i, i < 16 → Tbl.has s.cg.spill i = true :=
  ⟨by decide, ⟨lowLeaf, by decide⟩, by decide, by decide, by decide, by decide, by decide⟩

/-- A token whose rejoin clause is the split's own, and one that rejoins elsewhere. -/
def holding (s : State) (t : Token) : State := s.modW fun W => { W with tokens := [t] }

theorem plainWave_base (t : Token) : PlainWave (holding base t) := ⟨rfl, rfl, rfl, Nat.zero_lt_succ 3, rfl⟩

theorem stackRuns_of {ts : List Token}
    (h : (ts.all fun t => decide (t.pending ≠ 0 ∧ t.pending &&& ~~~t.arrived &&& ~~~t.waiting ≠ 0)) = true) : StackRuns ts :=
  fun t m => by simpa using List.all_eq_true.mp h t m

theorem witness_TokensJoinAndBreak_none : base.csp.ctx.idx = 0 ∧ base.csp.mode = .active ∧ base.cw.spilled = [] ∧
    (∀ t ∈ base.cw.tokens, t.pending &&& base.csp.members = 0) ∧ (base.modSp fun p => { p with ctx := { p.ctx with idx := 1 } }).csp.ctx.idx ≠ 0 := by
  decide

theorem witness_TokensJoinAndBreak_elsewhere :
    let t : Token := ⟨0x10010, 0, 0xFFFFFFFF, 0, 0, 0, 0, false⟩
    let s := holding base t
    s.csp.ctx.idx = 0 ∧ PlainWave s ∧ s.cw.tokens = t :: [] ∧ t.pending &&& s.csp.members ≠ 0 ∧ t.rejoin ≠ s.csp.ctx.hdr :=
  ⟨by decide, plainWave_base _, rfl, by decide, by decide⟩

theorem witness_TokensJoinAndBreak_runs :
    let t : Token := ⟨0x10000, 0, 0xFFFFFFFF, 0, 0, 0, 0, false⟩
    let s := (holding base t).modSp fun p => { p with members := 1, exec := 1 }
    s.csp.ctx.idx = 0 ∧ PlainWave s ∧ s.cw.tokens = t :: [] ∧ StackRuns [] ∧ t.pending &&& s.csp.members ≠ 0 ∧
    t.rejoin = s.csp.ctx.hdr ∧ t.pending &&& ~~~(t.arrived ||| s.csp.members) &&& ~~~t.waiting ≠ 0 :=
  ⟨by decide, ⟨rfl, rfl, rfl, by decide, rfl⟩, rfl, stackRuns_of rfl, by decide, by decide, by decide⟩

theorem witness_TokensJoinAndBreak_last :
    let t : Token := ⟨0x10000, 0, 0xFFFFFFFF, 0, 0, 0, 0, false⟩
    let s := holding base t
    s.csp.ctx.idx = 0 ∧ PlainWave s ∧ s.cw.tokens = t :: [] ∧ t.pending &&& s.csp.members ≠ 0 ∧ t.rejoin = s.csp.ctx.hdr ∧
    t.pending &&& ~~~(t.arrived ||| s.csp.members) &&& ~~~t.waiting = 0 ∧ t.waiting = 0 :=
  ⟨by decide, plainWave_base _, rfl, by decide, by decide, by decide, by decide⟩

theorem witness_TokensJoinAndBreak_resumes :
    let t : Token := ⟨0x10000, 0x10010, 0xFFFFFFFF, 0, 0xFFFF, 0, 0, false⟩
    let s := (holding base t).modSp fun p => { p with members := 0xFFFF0000, exec := 0xFFFF0000 }
    s.csp.ctx.idx = 0 ∧ PlainWave s ∧ s.cw.tokens = t :: [] ∧ t.pending &&& s.csp.members ≠ 0 ∧ t.rejoin = s.csp.ctx.hdr ∧
    t.pending &&& ~~~(t.arrived ||| s.csp.members) &&& ~~~t.waiting = 0 ∧ t.waiting ≠ 0 :=
  ⟨by decide, ⟨rfl, rfl, rfl, by decide, rfl⟩, rfl, by decide, by decide, by decide, by decide⟩

theorem witness_TokensJoinAndBreak_breaks :
    let t : Token := ⟨0x10010, 0, 0xFFFFFFFF, 0, 0, 0, 0, false⟩
    let s := (holding coded t).modSp fun p => { p with members := 1, exec := 1 }
    s.csp.exec = s.csp.members ∧ PlainWave s ∧ s.isHeader (BitVec.ofNat 64 (wordsFromHeader s (targetOffset (.near 0)))) ∧
    StackRuns s.cw.tokens ∧ s.cw.tokens = t :: [] ∧ t.pending &&& s.csp.members ≠ 0 ∧
    StackRuns [{ t with pending := t.pending &&& ~~~s.csp.members }] ∧
    ({ t with pending := 1 } : Token).pending &&& ~~~s.csp.members = 0 ∧ ({ t with pending := 1 } : Token).pending &&& s.csp.members ≠ 0 :=
  ⟨by decide, ⟨rfl, rfl, rfl, by decide, rfl⟩, ⟨lowLeaf, by decide⟩, stackRuns_of (by decide), rfl, by decide, stackRuns_of (by decide),
    by decide, by decide⟩

/-- A second split of the wave, in slot 1; a second wave of the group. -/
def twoSplits (s : State) : State := s.setSplit 0 0 1 {}
def twoWaves (s : State) : State := s.modG fun G => { G with waves := Tbl.set G.waves 1 {}, bars := [] }

theorem witness_ExitsAndYields_exit :
    (PlainWave base ∧ base.cw.tokens = [] ∧
      (base.modSp fun p => { p with exec := 1 }).csp.members &&& ~~~(1 : Word) ≠ 0 ∧ base.csp.members &&& ~~~base.csp.exec = 0) ∧
    (let s := twoSplits base
     PlainWave s ∧ s.csp.members &&& ~~~s.csp.exec = 0 ∧ ∃ k, k ≠ s.cur.sl ∧ Tbl.has s.cw.splits k = true) ∧
    (let s := twoWaves base
     PlainWave s ∧ s.cw.tokens = [] ∧ s.cg.bars = [] ∧ s.cg.det = false ∧ (∀ y, y ∈ s.disp.installs → y.complete = true) ∧
     s.csp.members &&& ~~~s.csp.exec = 0 ∧
     s.cw.splits.length = 1 ∧ (∃ w W, w ≠ s.cur.w ∧ (w, W) ∈ s.cg.waves ∧ W.ended = false) ∧ Tbl.get? s.cg.waves s.cur.w ≠ none) :=
  ⟨⟨⟨rfl, rfl, rfl, by decide, rfl⟩, rfl, by decide, by decide⟩, ⟨⟨rfl, rfl, rfl, by decide, rfl⟩, by decide, 1, by decide, by decide⟩,
    ⟨⟨rfl, rfl, rfl, by decide, rfl⟩, rfl, rfl, rfl, by decide, by decide, rfl, ⟨1, {}, by decide, by decide, rfl⟩, by decide⟩⟩

theorem witness_ExitsAndYields_yield : base.cg.det = false ∧ base.cg.preempt ≠ .atYield ∧ base.pendingImage = none ∧
    (base.modG fun G => { G with preempt := .atYield }).cg.preempt = .atYield ∧
    (base.modG fun G => { G with preempt := .atYield }).cg.place = .placed := by decide

theorem witness_SplitSettings : fmtOk 0x0BB = true ∧ fmtOk 0x100000 = false ∧ ((withS base 5 0x77).rdS 5).toNat < 2 ^ 32 ∧
    fmtOk (((withS base 5 0x77).rdS 5).setWidth 32) = true ∧ 2 ^ 32 ≤ ((withS base 5 0x100000000).rdS 5).toNat ∧
    (base.modSp fun p => { p with ctx := { p.ctx with n := 1 } }).csp.ctx.idx + 1 = 1 ∧ base.cw.splits.length = 1 ∧
    (base.modSp fun p => { p with ctx := { p.ctx with n := 3 } }).csp.ctx.idx + 1 ≠ 3 ∧ (twoSplits base).cw.splits.length ≠ 1 := by decide

/-- The context has a trap vector. -/
def handled : State := withTrapAddr base 0x10000

theorem witness_Traps_entry : handled.csp.mode ≠ .trap ∧ cIllegal ≠ cToken ∧ cIllegal ≠ cPoison ∧
    (cMxint = cMxint → handled.cw.region.isOpen = false) ∧ (handled.ctx handled.cctx).trap ≠ 0 ∧ handled.csp.mode = .active := by decide

/-- A wave in its trap handler. -/
def inHandler : State := (handled.raise cIllegal).modKernel 0 fun K => { K with img := { codeWords := 64, regs := 128 } }
def inHandler2 : State :=
  let s := withS inHandler 62 0x10000
  { s with memory := { s.memory with mem := Mem.writeBytes s.memory.mem 0 [0x11] } }

theorem witness_Traps_return : ∃ f, inHandler.cw.trap = some f ∧ f.tokens = [] ∧ inHandler.csp.mode = .trap ∧
    (inHandler.cw.splits.filter fun e => e.2.mode == .trap).length ≤ 1 ∧ f.entering = .no ∧ f.ctx.idx + f.len ≤ f.ctx.n ∧
    inHandler2.csp.mode = .trap ∧ inHandler2.cw.trap = some f ∧ inHandler2.isHeader (inHandler2.rdS 62) :=
  ⟨_, rfl, rfl, rfl, by decide, rfl, by decide, rfl, rfl, ⟨lowLeaf, by decide⟩⟩

theorem witness_FaultsEndTheGroupOrRestartTheWave : (inTrap base).csp.mode = .trap ∧ base.csp.mode ≠ .trap ∧ cIllegal ≠ cToken ∧ cIllegal ≠ cPoison ∧
    (cMxint = cMxint → base.cw.region.isOpen = false) ∧ (base.ctx base.cctx).trap = 0 ∧ (base.kernel (base.group 0).kernel).st.canFail = true := by
  decide

/-- A wave whose region, of number 7, is open, has restarted `n` times and written the registers `ws`. -/
def inRegion (n : Nat) (ws : List Nat) : State := base.modW fun W => { W with
  region := { isOpen := true, id := 7, restarts := n, members := 0xFF, written := ws, rng := List.replicate 32 5 } }

theorem witness_PoisonOutsideARegionEndsTheGroup : (base.wave 0 0).trap = none ∧ (base.wave 0 0).region.isOpen = false ∧
    (inHandler.wave 0 0).trap ≠ none ∧ (∀ p, p ∈ (inHandler.wave 0 0).splits → p.2.mode = .trap) ∧
    (base.kernel (base.group 0).kernel).st.canFail = true ∧ Tbl.get? ((base.consumePoison 0 0 0).group 0).waves 0 ≠ none := by decide

theorem witness_FaultsEndTheGroupOrRestartTheWave_poison : (inHandler.wave 0 0).trap ≠ none ∧ ((inRegion 0 []).wave 0 0).trap = none ∧
    ((inRegion 0 []).wave 0 0).region.isOpen = true ∧ ((inRegion 0 []).wave 0 0).region.id ≠ 6 := by decide

theorem witness_FaultsEndTheGroupOrRestartTheWave_restarts : ((inRegion 3 []).wave 0 0).region.restarts = 3 ∧
    ((inRegion 2 [4]).wave 0 0).region.restarts ≠ 3 ∧ ((inRegion 2 [4]).wave 0 0).region.written ≠ [] ∧
    ((inRegion 2 []).wave 0 0).region.restarts ≠ 3 ∧ ((inRegion 2 []).wave 0 0).region.written = [] ∧
    ((inRegion 2 []).wave 0 0).region.isOpen = true ∧ ((inRegion 2 []).wave 0 0).region.id = 7 ∧ (inRegion 2 []).csp.mode ≠ .trap ∧
    (inRegion 2 []).cw.region.isOpen = true := by decide

/-- For the statements about vector instructions: the destination lies in the allocation. -/
theorem witness_VectorIntegers : (127 : Fin 128).val < base.cw.v.length := by decide

theorem witness_SelectionAndCompares : (127 : Fin 128).val < base.cw.v.length ∧ (9 : Fin 16).val < 10 := by decide

theorem witness_FloatCompares : floatCond (0 : Fin 16).val ∧ floatCond (11 : Fin 16).val ∧ f32 0x3F800000 = .fin false 0x800000 (-23) ∧
    f32 0xBF800000 = .fin true 0x800000 (-23) ∧ (isNan (f32 0x7FC00000) || isNan (f32 0)) = true :=
  ⟨.inl (by decide), .inr (.inr rfl), by decide, by decide, by decide⟩

theorem witness_VectorFloatArithmetic : (0 : Fin 128).val < base.cw.v.length := by decide

theorem witness_FloatOperationsAreExactThenRounded :
    f32 0x3F800000 = .fin false 0x800000 (-23) ∧ f32 0xBF800000 = .fin true 0x800000 (-23) ∧ f32 0x80000000 = .fin true 0 (-149) ∧
    f32 0 = .fin false 0 (-149) ∧ exactQ false 0x800000 (-23) + exactQ true 0x800000 (-23) = 0 ∧
    exactQ true 0x800000 (-23) < exactQ false 0x800000 (-23) ∧ exactQ false 0x800000 (-23) > exactQ true 0x800000 (-23) ∧
    (isNan (f32 0x7F800001) || isNan (f32 0)) = true ∧ f32 0xFF800000 = .inf true :=
  ⟨by decide, by decide, by decide, by decide, by norm_num [exactQ], by norm_num [exactQ], by norm_num [exactQ], by decide, by decide⟩

theorem witness_Fp32RoundsToNearestEven : |exactQ false 1 0| < 2 ^ 128 - 2 ^ 103 ∧ (2 : ℚ) ^ 128 - 2 ^ 103 ≤ |exactQ false 1 128| := by
  norm_num [exactQ]

theorem witness_ConversionsBetweenFormats :
    f32 0x40200000 = .fin false 0xA00000 (-22) ∧ exactQ false 0xA00000 (-22) = 5 / 2 ∧ f32 0x7FC00000 = .nan false ∧
    bf16F.decode 0x3F80 = .fin false 0x80 (-7) ∧ fp16F.decode 0x3C00 = .fin false 0x400 (-10) ∧
    (127 : Fin 128).val < base.cw.v.length ∧ (8 : Fin 16).val < 9 ∧ (4 : Fin 8).val < 5 ∧
    (withFmt base 0x600).csp.fmt.toNat / 2 ^ 12 % 8 < 5 ∧ (withFmt base 0x600).csp.fmt.toNat / 2 ^ 8 % 16 < 12 ∧
    outWidth ((withFmt base 0x600).csp.fmt.toNat / 2 ^ 8 % 16) < 32 ∧
    outWidth (base.csp.fmt.toNat / 2 ^ 8 % 16) = 32 ∧ 124 + 32 / outWidth 6 ≤ base.cw.v.length ∧
    base.cw.v.length < 125 + 32 / outWidth 6 :=
  ⟨by decide, by norm_num [exactQ], by decide, by decide, by decide, by decide, by decide, by decide, by decide, by decide, by decide,
    by decide, by decide, by decide⟩

theorem witness_SpecialFunctions : (0 : Fin 128).val < base.cw.v.length := by decide

theorem witness_SpecialFunctionValues : f32 0x7F800001 = .nan true ∧ f32 0xBF800000 = .fin true 0x800000 (-23) ∧
    f32 0x3F000000 = .fin false 0x800000 (-24) ∧ (∃ z : Int, 2 * exactQ false 0x800000 (-24) = z) ∧
    f32 0x3E800000 = .fin false 0x800000 (-25) ∧ (∃ z : Int, 4 * exactQ false 0x800000 (-25) = 2 * z + 1) ∧
    f32 0xC2FC0000 = .fin true 0xFC0000 (-17) ∧ exactQ true 0xFC0000 (-17) = ((-126 : Int) : ℚ) ∧
    f32 0x42FE0000 = .fin false 0xFE0000 (-17) ∧ exactQ false 0xFE0000 (-17) = ((127 : Int) : ℚ) ∧
    |(exactQ true 0x800000 (-23))⁻¹| < 2 ^ 128 - 2 ^ 103 :=
  ⟨by decide, by decide, by decide, ⟨1, by norm_num [exactQ]⟩, by decide, ⟨0, by norm_num [exactQ]⟩, by decide, by norm_num [exactQ],
    by decide, by norm_num [exactQ], by norm_num [exactQ]⟩

theorem witness_GeneratorBlocks : (0xFFFFFFFF : Nat) < 2 ^ 32 ∧
    (let x : (Nat × Nat) × Nat × Nat := ((1, 2), 3, 4); x.1.1 < 2 ^ 32 ∧ x.1.2 < 2 ^ 32 ∧ x.2.1 < 2 ^ 32 ∧ x.2.2 < 2 ^ 32) := by decide

theorem witness_RandomNumbers : (124 : Fin 128).val + 4 ≤ base.cw.v.length := by decide

theorem witness_CrossLaneInstructions : (127 : Fin 128).val < base.cw.v.length ∧ (10 : Fin 16).val < 11 ∧ (31 : Fin 128).val < 32 ∧
    (let s := base.modSp fun p => { p with exec := 0x80000000 }
     s.csp.exec.getLsbD 31 = true ∧ ∀ j, j < 31 → s.csp.exec.getLsbD j = false) ∧
    (base.modSp fun p => { p with exec := 0 }).csp.exec = 0 := by decide

theorem witness_LoadsQueueTheirBytes :
    let s := (withS base 1 0x20000).modCore 0 fun c => { c with actHolder := some 0 }
    (∃ ps ls, s.memCheck false false 4 4 .read anyLeaf (s.laneAddrs (.lane 1 2)) = .ok ps ls) ∧
    (∃ ps ls, s.memCheck true false 4 4 .read anyLeaf (s.laneAddrs (.lane 0 2)) = .ok ps ls) ∧
    (∃ ps ls, s.memCheck false false 16 1040 .read anyLeaf [(0, s.addr (.base 1 0) 0)] = .ok ps ls) ∧ s.cc.actHolder = some s.cur.g :=
  ⟨⟨_, _, rfl⟩, ⟨_, _, rfl⟩, ⟨_, _, rfl⟩, rfl⟩

theorem witness_StoresEnter :
    let s := withS base 1 0x20000
    (∃ ps ls, s.memCheck false true 4 4 .write (s.stgOk (wholeLines (s.lanePas (s.laneAddrs (.lane 1 2))) 4)) (s.laneAddrs (.lane 1 2)) =
        .ok ps ls ∧ ∀ c, c ∈ storedCells s 2 1 ps → s.winAt c.1 = none) ∧
    (∃ ps ls, s.memCheck false true 8 8 .write s.plainStoreOk ((s.laneAddrs (.base 1 0)).take 1) = .ok ps ls) ∧
    (∃ ps ls, s.memCheck true true 4 4 .write anyLeaf (s.laneAddrs (.lane 0 2)) = .ok ps ls) :=
  ⟨⟨_, _, rfl, by decide⟩, ⟨_, _, rfl⟩, ⟨_, _, rfl⟩⟩

theorem witness_AtomicsEnter :
    let s := withS base 1 0x20000
    (∃ ps ls, s.memCheck false true 4 4 .readWrite s.plainStoreOk (s.laneAAddrs (.lane 1) 4) = .ok ps ls) ∧
    (∃ ps ls, s.memCheck true true 8 8 .readWrite s.plainStoreOk (s.laneAAddrs (.lane 0) 8) = .ok ps ls) ∧ s.cg.det = false ∧
    (s.modG fun G => { G with det := true }).cg.det = true ∧ s.csp.exec ≠ 0 :=
  ⟨⟨_, _, rfl⟩, ⟨_, _, rfl⟩, rfl, rfl, by decide⟩

/-- A deterministic group; lane 0's address lies in the window of the gang's slot `k`, at the group's own allocation for 0. -/
def detAt (k : Nat) : State := ((withS base 1 (BitVec.ofNat 64 (0x100000 + 0x40000 * k))).modG fun G => { G with det := true }).modSp fun p =>
  { p with exec := 1 }

theorem witness_AtomicsEnter_nondet :
    (detAt 0).cg.det = true ∧ (1 : Fin 2).val = 1 ∧
    (let s := (withS base 1 0x20).modG fun G => { G with det := true }
     ∀ e, e ∈ s.laneAAddrs (.lane 1) 4 → InOwnAllocation s e.2) ∧ (detAt 1).csp.exec ≠ 0 ∧ (0 : Fin 2).val = 0 :=
  ⟨rfl, rfl, fun e m => .inl ((by decide : ∀ e, e ∈ ((withS base 1 0x20).modG fun G => { G with det := true }).laneAAddrs (.lane 1) 4 →
    e.2 < 0x100000) e m), by decide, rfl⟩

theorem witness_AddressesAndAlignment :
    let s := withS base 1 2
    (31 < 32 ∧ (s.modSp fun p => { p with exec := 0x80000000 }).csp.exec.getLsbD 31 = true ∧ s.addr (.lane 1 2) 31 % 4 ≠ 0 ∧
      ∀ j, j < 31 → (s.modSp fun p => { p with exec := 0x80000000 }).csp.exec.getLsbD j = true → s.addr (.lane 1 2) j % 4 = 0) ∧
    (s.csp.exec.getLsbD 0 = true ∧ s.aaddr (.lane 1) 8 0 % 8 ≠ 0 ∧ (0 : Fin 2).val = 0 ∧
      ∀ j, j < 0 → s.csp.exec.getLsbD j = true → s.aaddr (.lane 1) 8 j % 8 = 0) := by decide

theorem witness_Fences : base.cw.fences = [] := by decide

theorem witness_ActivationTables : (127 : Fin 128).val < base.cw.v.length ∧
    (base.modCore 0 fun c => { c with actHolder := some 0 }).cc.actHolder = some base.cur.g ∧
    base.cc.actHolder ≠ some base.cur.g := by decide

/-- A rendezvous slot with contents. -/
def deposited (p : Payload) : State := base.modG fun G => { G with rdv := Tbl.set G.rdv 15 { full := some p } }

theorem witness_RendezvousSlots : (base.cg.slot 15).waiters = [] ∧ (base.cg.slot 15).full = none ∧ base.cw.handle 0 = .empty ∧
    ((deposited (.vec zeroRow)).cg.slot 15).waiters = [] ∧ ((deposited (.vec zeroRow)).cg.slot 15).full = some (.vec zeroRow) ∧
    ((deposited (.handle (.done []))).cg.slot 15).full = some (.handle (.done [])) ∧
    ((deposited (.handle .empty)).modW fun W => { W with h := W.h.setIfInBounds 3 (.done []) }).cw.handle 3 ≠ .empty := by decide

theorem witness_RendezvousSlots_unblocked : (∀ d h, base.csp.block ≠ .fwait d h) ∧ ∀ e, e ∈ base.cw.splits → ∀ d h, e.2.block ≠ .fwait d h := by
  refine ⟨fun d h => ?_, fun e m d h => ?_⟩
  · show Block.none ≠ _
    simp
  · have : e.2.block = .none := by
      revert e
      decide
    simp [this]

/-- A barrier that expects `e` arrivals and has `a`. -/
def barrier (e a : Nat) : State := base.modG fun G => { G with bars := [(3, { member := [(0, 1)], e := e, a := a })] }

theorem witness_GroupBarriers :
    (let s := barrier 1 0
     let y := s.cg.bar 3
     (y.e - laneCount (s.csp.exec &&& Tbl.getD y.member s.cur.w 0) = 0 ∨ y.a < y.e - laneCount (s.csp.exec &&& Tbl.getD y.member s.cur.w 0))) ∧
    (let s := barrier 2 1
     let y := s.cg.bar 3
     y.e - laneCount (s.csp.exec &&& Tbl.getD y.member s.cur.w 0) ≠ 0 ∧
     y.e - laneCount (s.csp.exec &&& Tbl.getD y.member s.cur.w 0) ≤ y.a ∧ s.csp.block = .none) ∧
    base.cw.arrivals = [] ∧ base.allPerformed (base.waveWrites base.cur.g base.cur.w) 1 = true ∧ base.cw.loadIds = [] ∧
    ((withS base 5 0xFFFFFFFF).rdS 5).toNat < 2 ^ 32 ∧ 2 ^ 32 ≤ ((withS base 5 0x100000000).rdS 5).toNat ∧
    base.csp.mode ≠ .trap ∧ (inTrap base).csp.mode = .trap ∧ base.cg.det = false ∧ base.cg.preempt ≠ .atYield := by decide

/-- A load of the wave is outstanding. -/
def loading : State := base.modW fun W => { W with
  results := [{ id := 9, kind := .load 2, counter := .vmc, vregs := [2], reqs := [⟨0, 0, .global 0x20000, none, false⟩] }] }

theorem witness_GroupBarriers_later : loading.cw.arrivals = [] ∧ loading.cw.allLoaded loading.cw.loadIds = false := by decide

/-- An arrival outstanding. -/
def arriving (s : State) : State := s.modW fun W => { W with arrivals := [⟨7, 3, 1, none, false, false, 0, 0, [], W.loadIds⟩] }

theorem witness_GroupBarriers_release : ∃ x, ((arriving base).modWave 0 0 fun W => { W with
      arrivals := W.arrivals.map fun x => { x with release := true } }).cw.arrivals = [x] ∧ x.release = true ∧ x.sync = false ∧
    (arriving base).allPerformed x.writes 1 = true := ⟨_, rfl, rfl, rfl, rfl⟩

theorem witness_GroupBarriers_step : ∃ x y, ((arriving base).wave 0 0).arrivals = [x] ∧ x.sl = 0 ∧ x.w = 0 ∧ x.sync = false ∧
    (arriving base).allPerformed x.writes 1 = true ∧ ((arriving base).wave 0 0).allLoaded x.loads = true ∧
    ((arriving loading).wave 0 0).arrivals = [y] ∧ y.sl = 0 ∧ y.w = 0 ∧ y.sync = false ∧
    ((arriving loading).wave 0 0).allLoaded y.loads = false :=
  ⟨_, _, rfl, rfl, rfl, rfl, rfl, rfl, rfl, rfl, rfl, rfl, rfl⟩

/-- The wave stands at DBAR, and its die's slice has the groups `gs`. -/
def atDbar (gs : List Nat) : State := (base.modSp fun p => { p with block := .dbar }).setSlice 0 0 { groups := gs }

theorem witness_DieBarriersAndMailboxes_dbar : base.csp.mode ≠ .trap ∧ base.cw.splits.length = 1 ∧ base.csp.exec = base.csp.members ∧
    base.cg.det = false ∧ base.cg.preempt ≠ .atYield ∧ (inTrap base).csp.mode = .trap ∧ (twoSplits base).cw.splits.length ≠ 1 ∧
    (atDbar [0, 1]).dbarReady 0 = true ∧ ((atDbar [0, 1]).slice 0 0).arrived.length + 1 < ((atDbar [0, 1]).slice 0 0).groups.length ∧
    (atDbar [0]).dbarReady 0 = true ∧ ((atDbar [0]).slice 0 0).groups ≠ [] ∧
    ((atDbar [0]).slice 0 0).groups.length ≤ ((atDbar [0]).slice 0 0).arrived.length + 1 ∧ base.dbarReady 0 = false := by decide

/-- A message for a die and slot, and a mailbox that holds `q`. -/
def message (die : Nat) : MbxMsg := ⟨5, 0, die, 7, 1, 0, 0, 0, [], [], 0⟩
def mailbox (die : Nat) (q : List DWord) : State :=
  let s := base.modKernel 0 fun K => { K with pkt := { K.pkt with dies := 1 }, mbx := [(8 * die + 7, q)] }
  { s with disp := { s.disp with mbxMsgs := [message die] } }

theorem witness_DieBarriersAndMailboxes_messages :
    (let s := mailbox 3 (List.replicate 15 0)
     s.disp.mbxMsgs = [message 3] ∧ s.allPerformed (message 3).writes 4 = true ∧ (s.wave 0 0).allLoaded (message 3).loads = true ∧
     (s.kernel 0).pkt.dies.testBit (3 / 4) = true ∧ (Tbl.getD (s.kernel 0).mbx (8 * 3 + 7) []).length < 16 ∧ (s.kernel 0).st = .running) ∧
    (let s := mailbox 3 (List.replicate 16 0)
     s.disp.mbxMsgs = [message 3] ∧ 16 ≤ (Tbl.getD (s.kernel 0).mbx (8 * 3 + 7) []).length) ∧
    (let s := mailbox 4 []
     s.disp.mbxMsgs = [message 4] ∧ (s.kernel 0).pkt.dies.testBit (4 / 4) = false) ∧
    (let s := (mailbox 0 [1, 2]).modG fun G => { G with mbxWaits := [(0, 0, 0, 63, 7)] }
     (s.kernel 0).st = .running ∧ Tbl.getD (s.kernel 0).mbx (8 * 0 + 7) [] = 1 :: [2] ∧ s.mailWaits 0 0 7 = [(0, 0, 0, 0, 0, 63)]) := by
  decide

/-! Copies and futures. -/

theorem witness_CopiesAndFutures_start :
    let s := withS (withS base 1 0x20000) 2 0x30000
    (∃ rs, s.cpyCheck 0 0 0x20000 128 = .ok [] rs) ∧ (∃ xs rs, s.cpygCheck true 0x400 0x20000 0 8 4 = .ok xs rs) ∧
    (∃ xs rs, s.cpygCheck false 0x400 0x20000 0 8 4 = .ok xs rs) ∧
    s.copyHitsWindow (newCopy s 0 0 1 0 0 0x20000 128 4 []) = false ∧ (0x20002 : Nat) % 4 ≠ 0 ∧ (0x20000 : Nat) % 4 = 0 ∧
    s.cg.locks = [] ∧ (0x20000 + 128 ≤ 0x30000 ∨ 0x30000 + 128 ≤ 0x20000) ∧
    (let C := ((withS base 1 0xFFFFFFFFFFFFFFC0).rdS 1).toNat
     C % 4 = 0 ∧ 0x30000 + 128 ≤ C ∧ 2 ^ 64 < C + 128 ∧ C + 128 - 2 ^ 64 ≤ 0x30000) :=
  ⟨⟨_, rfl⟩, ⟨_, _, rfl⟩, ⟨_, _, rfl⟩, by decide, by decide, by decide, rfl, .inl (by decide), by decide⟩

/-- A copy of 100 bytes from global memory to global memory, `done` of them landed. -/
def copying (done stopping : Nat) : State := base.modG fun G => { G with copies := [
  { id := 4, form := 0, ch := 7, wave := 0, h := 15, dir := 2, dst := 0x30000, src := 0x20000, len := 100, done := done, stopping := stopping }] }

theorem all_global {p : Nat → Bool} {ps : List Place}
    (h : (ps.all fun x => match x with
      | .global a => p a
      | .scratch _ _ => true) = true) : ∀ a, Place.global a ∈ ps → p a = true :=
  fun a m => by simpa using List.all_eq_true.mp h _ m

theorem witness_CopiesAndFutures_handles :
    (base.modW fun W => { W with h := W.h.setIfInBounds 15 (.pending 4) }).cw.handle 15 = .pending 4 ∧
    ((base.modW fun W => { W with h := W.h.setIfInBounds 15 (.pending 4) }).cw.handle 15).isPending = true ∧
    (base.cw.handle 15).isPending = false ∧ (((copying 0 1).group 0).copies.find? fun c => c.id == 4).isSome = true ∧
    (((copying 0 1).group 0).copies.find? fun c => c.id == 4).map (fun c => c.stopping) = some 1 := by decide

/-- A cancelled copy whose last step, or a step before it, is under way to another module. -/
def flyingCopy (done : Nat) : Copy :=
  { id := 4, form := 0, ch := 7, wave := 0, h := 15, dir := 2, dst := 0x30000, src := 0x20000, len := 100, done := done, stopping := 1
    flying := some (36, [0x30000]) }

theorem witness_CopiesAndFutures_flying : ∀ n, n ∈ [0, 64] → let s := base.modG fun G => { G with copies := [flyingCopy n] }
    (s.group 0).copies.find? (fun c => c.id == 4) = some (flyingCopy n) ∧ (flyingCopy n).stopping ≠ 0 ∧ s.engineFlying 0 4 = false ∧
    (flyingCopy n).flying = some (36, [0x30000]) ∧ (flyingCopy n).ch < 8 ∧ ((flyingCopy n).len ≤ n + 36 ↔ n = 64) := by decide

/-- Where no tenant has a channel, every message's turn comes at once. -/
theorem turnFor_unregulated {s : State} (hv : s.pod.vcs = []) (l c id : Nat) (b : Bool) : s.turnFor l c id b = some s := by
  have h : s.channelOf l c = none := by simp [State.channelOf, hv, Tbl.get?]
  simp [State.turnFor, h]

/-- Where no write is under way, no flow has a message and no tenant a channel, no read waits. -/
theorem readsHeld_quiet {s : State} (hw : s.memory.writes = []) (hf : s.memory.flows = []) (hv : s.pod.vcs = []) (c : Nat) (ps : List Nat) :
    s.readsHeld c ps = false := by
  refine List.any_eq_false.mpr fun pa _ => ?_
  have h (k : Nat) : (s.flowLink k).1.pod.vcs = [] := by
    unfold State.flowLink
    split
    · exact hv
    · exact hv
  simp [State.lineInFlight, State.sendRead, turnFor_unregulated (h _), State.flow, Tbl.getD, Tbl.get?, hw, hf]

theorem witness_CopiesAndFutures_step (done : Nat) (h : done = 0 ∨ done = 64) :
    ∃ c src dst ls ks, ((copying done 0).group 0).copies.find? (fun c => c.id == 4) = some c ∧
      ((copying done 0).group 0).copies.find? (fun k => k.ch == c.ch) = some c ∧ c.ch < 8 ∧ ((copying done 0).group 0).isSaved = false ∧
      c.stopping = 0 ∧ c.paged = false ∧ c.flying = none ∧ (copying done 0).engineFlying 0 4 = false ∧ c.dropped = none ∧
      (∀ src, (copying done 0).readsHeld ((copying done 0).ctxOf 0) (remotePas src) = false) ∧
      (copying done 0).sites 0 c.srcGlobal .read (fun _ _ => true) (c.nextStep.map Prod.snd) = .ok src ls ∧
      (copying done 0).sites 0 c.dstGlobal .write (fun l pa => !l.stamped && !(copying done 0).remoteWin pa) (c.nextStep.map Prod.fst) =
        .ok dst ks ∧ dst.Nodup ∧
      (∀ pa, .global pa ∈ dst → inClass pa = true ∧ (copying done 0).frozenAt pa = false ∧ (copying done 0).winAt pa = none) ∧
      (∀ pa pb, .global pa ∈ dst → .global pb ∈ dst → lineOf pa = lineOf pb) ∧ (copying done 0).canonical ∧
      (copying done 0).stillWriting c.waits (src ++ dst) = false ∧
      (copying done 0).placesOk ((copying done 0).group 0).unit (src ++ dst) = true ∧
      (done = 0 → c.done + c.nextStep.length < c.len) ∧ (done = 64 → c.len ≤ c.done + c.nextStep.length) := by
  obtain rfl | rfl := h <;> refine ⟨_, _, _, _, _, rfl, rfl, by decide, rfl, rfl, rfl, rfl, rfl, rfl,
    fun src => readsHeld_quiet rfl rfl rfl _ _, rfl, rfl, by decide, ?_, ?_, ⟨rfl, by decide⟩, rfl, rfl,
    by decide, by decide⟩
  · intro pa m
    simpa [Bool.and_eq_true, Option.isNone_iff_eq_none, and_assoc] using
      all_global (p := fun a => inClass a && !(copying 0 0).frozenAt a && ((copying 0 0).winAt a).isNone) (by decide) pa m
  · intro pa pb m n
    exact (beq_iff_eq.mp (all_global (p := fun a => lineOf a == lineOf 0x30000) (by decide) pa m)).trans
      (beq_iff_eq.mp (all_global (p := fun a => lineOf a == lineOf 0x30000) (by decide) pb n)).symm
  · intro pa m
    simpa [Bool.and_eq_true, Option.isNone_iff_eq_none, and_assoc] using
      all_global (p := fun a => inClass a && !(copying 64 0).frozenAt a && ((copying 64 0).winAt a).isNone) (by decide) pa m
  · intro pa pb m n
    exact (beq_iff_eq.mp (all_global (p := fun a => lineOf a == lineOf 0x30040) (by decide) pa m)).trans
      (beq_iff_eq.mp (all_global (p := fun a => lineOf a == lineOf 0x30040) (by decide) pb n)).symm


/-! The matrix tile. -/

/-- A buffer in the group's scratchpad space, one in global memory. -/
def buffers : State := withS (withS base 1 0x20000) 2 0

/-- What the checks of R333 answer, without what stands in the answer. -/
def checkOk (c : Checked) : Bool :=
  match c with
  | .ok _ _ => true
  | .fault _ _ _ => false
  | .page _ _ _ _ _ => false
  | .refused => false

theorem of_checkOk {c : Checked} (h : checkOk c = true) : ∃ ps ls, c = .ok ps ls := by
  cases c with
  | ok ps ls => exact ⟨ps, ls, rfl⟩
  | fault _ _ => exact absurd h (by simp [checkOk])
  | page _ _ _ _ => exact absurd h (by simp [checkOk])
  | refused => exact absurd h (by simp [checkOk])

theorem witness_MatrixInstructions_rows :
    (16 * opWidth (buffers.fmtFld 4 4) ≤ 2 ^ 12) ∧
    (∃ ps, RowsOk buffers false false 16 buffers.mxlbLen anyLeaf (buffers.mxlbRows (.lane 1 12)) ps) ∧
    (∃ ps, RowsOk buffers false false 16 (fun _ => 128) anyLeaf (buffers.laneAddrs (.lane 1 12)) ps) ∧
    (∃ ps, RowsOk buffers true false 16 (fun _ => 128) anyLeaf (buffers.laneAddrs (.lane 2 4)) ps) := by
  refine ⟨by decide, ?_, ?_, ?_⟩ <;> exact ⟨_, ⟨_, rfl⟩, by decide⟩

theorem witness_MatrixInstructions_image :
    (∃ ps, RowsOk buffers false true 64 (fun _ => 69632) buffers.plainStoreOk [(0, buffers.addr (.base 1 0) 0)] ps) ∧
    (∃ ps, RowsOk buffers false false 64 (fun _ => 69632) anyLeaf [(0, buffers.addr (.base 1 0) 0)] ps) := by
  refine ⟨?_, ?_⟩ <;> exact ⟨_, ⟨_, rfl⟩, by decide⟩

theorem witness_MatrixInstructions_registers : (127 : Fin 128).val + (0 : Fin 32).val + 1 ≤ base.cw.v.length ∧
    base.macOk false 3 0 7 = true ∧ base.macOk false 3 0 7 = true := by decide

/-- The wave's MX state, with the core's engine. -/
def withMx (m : MxState) : State := (buffers.modW fun W => { W with mx := m }).modCore 0 fun c => { c with mxHolder := some (0, 0) }
def withTile (x : Tile) : State := withMx { tiles := [(3, x)] }

/-- In the default format FP32 under `srn`; the activation is on. -/
def drawing : State := withFmt buffers 0x44B00

theorem witness_MatrixInstructions_inject :
    (let s := withS base 5 0xFFFF000000007F1F
     (4 : Fin 8).val ≤ 4 ∧ (s.rdS 5).toNat / 2 ^ 15 % 2 = 0) ∧
    (withTile { cls := .exact }).tileClass 3 ≠ .none ∧ ((withTile { cls := .exact }).ctx (withTile { cls := .exact }).cctx).diag = true ∧
    (((withTile { cls := .exact }).modCtx 0 fun c => { c with diag := false }).ctx 0).diag = false ∧
    (withTile { cls := .wide }).macOk false 3 0 7 = false := by decide

theorem witness_MatrixDrainsAndChecks_drain :
    ∃ ps ls qs ms, drawing.drainCheck false 3 (.lane 1 6) false = .ok ps ls ∧
      (∀ r, r ∈ drawing.drainRanges false ps → minList (drawing.rangeHits drawing.cur.g [r]) = none) ∧
      drawing.bankBad = [] ∧ drawing.drainCheck true 3 (.lane 1 9) false = .ok qs ms ∧
      (∀ r, r ∈ drawing.drainRanges false qs → minList (drawing.rangeHits drawing.cur.g [r]) = none) :=
  ⟨_, _, _, _, rfl, by decide, rfl, rfl, by decide⟩

theorem witness_MatrixDrainsAndChecks_tiles :
    (let x := drawing.cw.mx.tile 3; x.poison = [] ∧ x.badRefl = false ∧ x.check.ok = true ∧ x.check.fix = none) ∧
    (let x := (withTile { cls := .exact, sat := [4095] }).cw.mx.tile 3; x.poison = [] ∧ x.badRefl = false ∧ x.check.ok = true ∧ x.check.fix = none) ∧
    (withTile {}).cc.mxHolder = some ((withTile {}).cur.g, (withTile {}).cur.w) ∧
    ((withTile { badRefl := true }).cw.mx.tile 3).badRefl = true := by decide

theorem witness_MatrixDrainsAndChecks_differs :
    let x := (withTile { cls := .exact, words := [(0, 1), (4095, 1)] }).cw.mx.tile 3
    x.poison = [] ∧ x.badRefl = false ∧ x.check.ok = false ∧ x.damaged = false := by decide

/-- A tile with one word changed: the check finds and corrects it, for the drains as for MXCHK. -/
theorem witness_MatrixDrainsAndChecks_corrects :
    let s := withTile { cls := .exact, words := [(4095, 1)] }
    let x := s.cw.mx.tile 3
    x.poison = [] ∧ x.badRefl = false ∧ x.check.ok = true ∧ x.check.fix = some (31, 127, 0) ∧ s.memory.errs = [] ∧ s.bankBad = [] := by decide


/-- The places of `n` bytes of global memory. -/
def globals (a n : Nat) : List Place := (List.range n).map fun i => .global (a + i)

theorem mem_globals {a n : Nat} {p : Place} : p ∈ globals a n ↔ ∃ i, i < n ∧ p = .global (a + i) := by
  simp [globals, eq_comm]

theorem globals_nodup (a n : Nat) : (globals a n).Nodup :=
  List.Nodup.map (fun x y h => by simpa using h) List.nodup_range

theorem globals_getElem? {a n i : Nat} {p : Place} (h : (globals a n)[i]? = some p) : i < n ∧ p = .global (a + i) := by
  obtain ⟨hi, e⟩ := List.getElem?_eq_some_iff.mp h
  refine ⟨by simpa [globals] using hi, ?_⟩
  rw [← e]
  simp [globals]

/-- Lines of the low half GiB. -/
theorem globals_lines {a n : Nat} (h : a % 64 = 0) : ∀ k p q, (globals a n)[k]? = some p → (globals a n)[k / 64 * 64]? = some q →
    placeLine p = placeLine q := by
  intro k p q hp hq
  obtain ⟨-, rfl⟩ := globals_getElem? hp
  obtain ⟨-, rfl⟩ := globals_getElem? hq
  simp only [placeLine, Prod.mk.injEq, true_and]
  omega

theorem canonical_of {s : State} (hm : s.memory = base.memory) (hg : s.groups = base.groups) : s.canonical := by
  unfold State.canonical
  rw [hm, hg]
  exact ⟨rfl, by decide⟩

/-- A state with no frame frozen. -/
theorem globals_writable {s : State} {a n : Nat} (hs : s.canonical) (hf : s.ctxs = base.ctxs) (hm : s.memory.farSnaps = [])
    (h : a + n ≤ 2 ^ 31) : Writable s (globals a n) := by
  refine ⟨hs, globals_nodup a n, fun pa m => ?_⟩
  obtain ⟨i, hi, e⟩ := mem_globals.mp m
  cases e
  have f : s.frozenAt (a + i) = false := by unfold State.frozenAt State.frozenCuts; rw [hf, hm]; rfl
  refine ⟨?_, f⟩
  unfold inClass
  exact decide_eq_true (by omega)

/-- A state with no bridge fenced. -/
theorem globals_reached {s : State} (hd : s.dies = base.dies) (ps : List Place) : s.placesOk 0 ps = true := by
  obtain ⟨x, e, hx⟩ : ∃ x, base.dies = [(0, x)] ∧ x.relocking = false := ⟨_, rfl, rfl⟩
  have r (d : Nat) : (s.die d).relocking = false := by
    simp only [State.die, hd, e, Tbl.getD, Tbl.get?]
    split
    · rename_i h
      split at h <;> simp_all
    · rfl
  refine List.all_eq_true.mpr fun p _ => ?_
  cases p with
  | global pa =>
    have f : (s.die (unitDie 0)).fenced = false := by simp only [State.die, hd]; rfl
    simp [State.bridgeOk, f, r]
  | scratch g o => rfl

/-- The engine's queue holds one operation; a drain of two steps is under way. -/
def queued (o : MxOp) : State := base.modCore 0 fun c => { c with mxq := [o] }
def stepOf (a : Nat) : List (Place × Byte) := [(.global a, 1), (.global (a + 63), 2)]
def drain (last : Bool) : Drain :=
  { id := 5, group := 0, wave := 0, flags := 1, steps := if last then [stepOf 0x20000] else [stepOf 0x20000, stepOf 0x20040] }
def draining (last : Bool) : State := base.modCore 0 fun c => { c with drains := [drain last] }

theorem witness_MatrixEngineExecutes_execute (k : Nat) (ps : List Place) (h : ps = globals 0x20000 69632) :
    let o : MxOp := { id := 5, group := 0, wave := 0, kind := k, places := ps }
    let s := queued o
    (s.core 0).mxq = [o] ∧ o.paged = false ∧ o.done = 0 ∧ o.dropped = none ∧ s.engineFlying o.group o.id = false ∧
    s.readsHeld (s.ctxOf o.group) (remotePas o.places) = false ∧ s.placesOk 0 o.places = true ∧ s.stillWriting o.waits o.places = false ∧
    Writable s o.places ∧ o.places.length = 69632 ∧
    (∀ n p q, o.places[n]? = some p → o.places[n / 64 * 64]? = some q → placeLine p = placeLine q) := by
  refine ⟨rfl, rfl, rfl, rfl, rfl, readsHeld_quiet rfl rfl rfl _ _, globals_reached rfl _, rfl, ?_, ?_, ?_⟩
  · show Writable _ ps
    rw [h]
    refine globals_writable (canonical_of ?_ ?_) ?_ ?_ ?_
    · rfl
    · rfl
    · rfl
    · rfl
    · norm_num
  · simp [h, globals]
  · show ∀ n p q, ps[n]? = some p → ps[n / 64 * 64]? = some q → placeLine p = placeLine q
    rw [h]
    refine globals_lines ?_
    norm_num

theorem map_fst_zip_prefix {α β : Type} : ∀ (l : List α) (r : List β), (l.zip r).map Prod.fst <+: l
  | [], _ => by simp
  | _ :: _, [] => by simp
  | a :: l, _ :: r => by simpa using List.prefix_cons_inj a |>.mpr (map_fst_zip_prefix l r)

/-- A step of an image's writes takes its places from the list. -/
theorem imageStep_places (ps : List Place) (img : List Byte) (bad : Nat → Bool) (n : Nat) :
    ((imageStep ps img bad n).map Prod.fst).Sublist ps := by
  have h : (((ps.zip img).zipIdx.drop n).map fun p => (p.1.1, p.1.2, bad p.2)).map Prod.fst = ((ps.zip img).map Prod.fst).drop n := by
    rw [List.map_map, ← List.map_drop]
    conv_rhs => rw [← List.zipIdx_map_fst 0 (ps.zip img), ← List.map_drop, List.map_map]
    rfl
  unfold imageStep
  simp only
  rw [List.map_take, h]
  exact (List.take_sublist _ _).trans ((List.drop_sublist _ _).trans (map_fst_zip_prefix _ _).sublist)

/-- MXST's next line, at its first byte, behind its status, and when it has written them all. -/
theorem witness_MatrixEngineExecutes_store (done : Nat) (bad : Bool) (ps : List Place) (h : ps = globals 0x20000 69632) :
    let o : MxOp := { id := 5, group := 0, wave := 0, kind := 3, places := ps, done := done }
    let s := queued o
    let st := (o.nextStep { badRefl := bad }).map fun p => (p.1, p.2.1)
    (s.core 0).mxq = o :: [] ∧ o.paged = false ∧ o.kind = 3 ∧ o.dropped = none ∧ s.engineFlying o.group o.id = false ∧
    o.places.length = 69632 ∧ s.placesOk 0 (st.map Prod.fst) = true ∧ s.stillWriting o.waits (st.map Prod.fst) = false ∧
    Writable s (st.map Prod.fst) := by
  refine ⟨rfl, rfl, rfl, rfl, rfl, by simp [h, globals], globals_reached rfl _, rfl, ?_⟩
  have w : Writable (queued { id := 5, group := 0, wave := 0, kind := 3, places := ps, done := done }) ps := by
    rw [h]
    refine globals_writable (canonical_of ?_ ?_) ?_ ?_ ?_
    · rfl
    · rfl
    · rfl
    · rfl
    · norm_num
  simp only [List.map_map, MxOp.nextStep]
  have m := imageStep_places ps (Tile.image { badRefl := bad }) (Tile.imageBad { badRefl := bad }) done
  exact ⟨w.1, w.2.1.sublist m, fun pa k => w.2.2 pa (m.subset k)⟩

/-- The bytes of a reflection entry with a double-bit error. -/
theorem witness_MatrixEngineExecutes_entry : ({ badRefl := true } : Tile).badRefl = true ∧ 65552 ≤ 65536 + 16 ∧ 65536 + 16 < 68112 := by decide

theorem witness_MatrixEngineExecutes_drain (last : Bool) : let e := drain last
    ((draining last).core 0).drains.find? (fun c => c.id == e.id) = some e ∧
    e.steps.head? = some (stepOf 0x20000) ∧ (e.steps.tail = [] ↔ last = true) ∧ e.paged = false ∧ e.dropped = none ∧
    (draining last).engineFlying e.group e.id = false ∧
    (draining last).placesOk 0 ((stepOf 0x20000).map Prod.fst) = true ∧
    (draining last).stillWriting e.waits ((stepOf 0x20000).map Prod.fst) = false ∧
    Writable (draining last) ((stepOf 0x20000).map Prod.fst) ∧
    ∀ p q, p ∈ stepOf 0x20000 → q ∈ stepOf 0x20000 → placeLine p.1 = placeLine q.1 := by
  cases last <;> (
    refine ⟨rfl, rfl, ?_, ?_, rfl, rfl, globals_reached rfl _, ?_, ⟨canonical_of rfl rfl, by decide, fun pa m => ?_⟩,
      fun p q hp hq => ?_⟩
    · decide
    · rfl
    · rfl
    · simp only [stepOf, List.map, List.mem_cons, Place.global.injEq, List.not_mem_nil, or_false] at m
      obtain rfl | rfl := m <;> exact ⟨by decide, rfl⟩
    · simp only [stepOf, List.mem_cons, List.not_mem_nil, or_false] at hp hq
      obtain rfl | rfl := hp <;> obtain rfl | rfl := hq <;> decide)


theorem dense_nil (n k j : Nat) : (Tbl.dense (0 : Int) n k []).getD j 0 = 0 := by
  induction n generalizing k j with
  | zero => rfl
  | succ n ih =>
    cases j with
    | zero => rfl
    | succ j => simpa [Tbl.dense] using ih (k + 1) j

theorem dense_one (n k j i : Nat) (x : Int) : (Tbl.dense (0 : Int) n k [(j, x)]).getD i 0 = if i < n ∧ j = k + i then x else 0 := by
  induction n generalizing k i with
  | zero => simp [Tbl.dense]
  | succ n ih =>
    simp only [Tbl.dense]
    split
    · subst_vars
      cases i with
      | zero => simp
      | succ i => simpa using dense_nil n (k + 1) i
    · cases i with
      | zero => simp_all
      | succ i =>
        simp only [List.getD_cons_succ, ih]
        congr 1
        exact propext ⟨fun h => ⟨by omega, by omega⟩, fun h => ⟨by omega, by omega⟩⟩

theorem tileWord_nil {x : Tile} (h : x.words = []) (n : Nat) : tileWord x n = 0 := by
  simp only [tileWord, h]
  exact dense_nil _ _ _

theorem witness_ReflectionsGuardTheTile_balanced : BalancedTile { cls := .exact } ∧ BalancedTile {} := by
  refine ⟨⟨rfl, rfl, rfl, fun i _ => ?_, fun j _ => ?_⟩, ⟨rfl, rfl, rfl, fun i _ => ?_, fun j _ => ?_⟩⟩ <;>
    simpa [tileWord_nil] using dense_nil _ _ _

theorem witness_ReflectionsGuardTheTile_differs :
    let x : Tile := { cls := .exact }
    let y : Tile := { x with words := [(4095, -1)] }
    x.cls = .exact ∧ 4095 < 4096 ∧ (-1 : Int) ≠ 0 ∧ -2 ^ 79 ≤ tileWord x 4095 ∧ tileWord x 4095 < 2 ^ 79 ∧ y = { x with words := y.words } ∧
    ∀ k, k < 4096 → tileWord y k = tileWord x k + if k = 4095 then -1 else 0 := by
  refine ⟨rfl, by norm_num, by norm_num, by rw [tileWord_nil rfl]; norm_num, by rw [tileWord_nil rfl]; norm_num, rfl, fun k hk => ?_⟩
  rw [tileWord_nil (x := { cls := .exact }) rfl]
  simp only [tileWord, dense_one]
  simp [hk, eq_comm]

/-- A slot of zeros, in INT8, with its reflection, dense (0) or sparse. -/
def zeroSlot (n : Nat) : BSlot :=
  { spn := n, elems := List.replicate 16384 0, refl := List.replicate 128 0 }

theorem witness_ReflectionsGuardTheTile_word (n : Nat) :
    let is (v : FVal) (c : Int) : Prop := ∃ n p q, v = .fin n p q ∧ exactQ n p q = (c : ℚ) / 2 ^ 16
    let zeroSlot := zeroSlot n
    pairClass 0 zeroSlot.fmt = some .exact ∧ isLog 0 = false ∧ 0 < 16 ∧ zeroSlot.fmt < 16 ∧ zeroSlot.elems.length = 16384 ∧
    (0x80000000 : Word).getLsbD 31 = true ∧ (0x80000000 : Word).getLsbD (0 / 128) = false ∧
    (∀ k, is (opVal 0 (leNat ((({} : MxState).row 31).drop (128 * 7)) / 2 ^ (k * opWidth 0) % 2 ^ opWidth 0)) 0 ∧
      is (opVal zeroSlot.fmt (zeroSlot.elems.getD (128 * k + 127) 0)) 0) ∧
    128 * 31 + 127 ∉ ({} : Tile).sat ∧ 128 * 31 + 127 ∉ ({} : Tile).nans := by
  refine ⟨(by decide : pairClass 0 0 = some .exact), by decide, by decide, (by decide : 0 < 16), List.length_replicate, by decide, by decide,
    fun k => ?_, by decide, by decide⟩
  have ha : leNat ((({} : MxState).row 31).drop (128 * 7)) = 0 := by decide
  have hb : (zeroSlot n).elems.getD (128 * k + 127) 0 = 0 := by
    show (List.replicate 16384 0).getD (128 * k + 127) 0 = 0
    rw [List.getD_eq_getElem?_getD, List.getElem?_replicate]
    split <;> rfl
  rw [ha, hb]
  refine ⟨⟨false, 0, 0, ?_, by norm_num [exactQ]⟩, ⟨false, 0, 0, rfl, by norm_num [exactQ]⟩⟩
  simp
  rfl

/-- With no lane in exec no word is marked; a slot may hold its own reflection. -/
theorem witness_ReflectionsGuardTheTile_unmarked (b : BSlot) (free : Nat → Int) :
    (({} : Tile).mac {} b 0 7 0 free).sat = [] ∧ (({} : Tile).mac {} b 0 7 0 free).nans = [] ∧
    (let y := { b with refl := b.reflection }
     y.refl = y.reflection) := by
  refine ⟨?_, ?_, rfl⟩ <;>
  · simp only [Tile.mac, List.map_eq_nil_iff, List.filter_eq_nil_iff]
    intro p hp
    obtain ⟨r, hr, hq⟩ := List.mem_flatten.mp (List.fst_mem_of_mem_zipIdx hp)
    obtain ⟨q, -, rfl⟩ := List.mem_map.mp hr
    rw [if_neg (by simp)] at hq
    obtain ⟨c, -, e⟩ := List.mem_map.mp hq
    simp [← e]

/-! Tapers. -/

/-- Contributions of 1. -/
def ones (n : Nat) : List (DWord × Bool) := List.replicate n (1, false)

theorem witness_TaperWindows_empty : TaperHolds { configured := true, w := 1 } [] [] :=
  ⟨rfl, rfl, fun _ _ h => nomatch h⟩

theorem witness_TaperWindows_back : TaperHolds { configured := true, w := 3, back := ones 2, bagg := 2, n := 2 } [] (ones 2) :=
  ⟨rfl, rfl, fun _ _ h => by cases h; exact ⟨rfl, rfl⟩⟩

theorem witness_TaperWindows_both : let x : Taper := { configured := true, w := 3, front := [(1, false), (2, false)], back := ones 1, bagg := 1, n := 3 }
    TaperHolds x (ones 2) (ones 1) ∧ (ones 1).length + 1 + (ones 1).length = x.w ∧ ones 2 ≠ [] ∧
    ones 2 ++ ones 1 = (1, false) :: (ones 2 ++ ones 1).tail ∧ x.op ∈ [0, 2, 3, 6, 7, 8] ∧
    x.configured = true ∧ x.damaged = false ∧ x.op ≤ 10 ∧ 0 < x.w ∧ x.w ≤ 512 ∧ x.front.length + x.back.length ≤ x.w ∧ x.back ≠ [] ∧
    x.flipping = false ∧ x.flipAcc = (0, false) ∧ x.storeErr = [] :=
  ⟨⟨rfl, rfl, fun _ _ h => by cases h; exact ⟨rfl, rfl⟩⟩, rfl, by decide, rfl, by decide, rfl, rfl, by decide, by decide, by decide, by decide,
    by decide, rfl, rfl, rfl⟩

theorem witness_TaperWindows_full : TaperHolds { configured := true, w := 2, back := ones 2, bagg := 2, n := 2 } [] (ones 2) ∧
    (ones 1).length + 1 = 2 ∧ TaperHolds { configured := true, w := 4, front := [(1, false), (2, false)], n := 2 } (ones 2) [] ∧
    (ones 2).length + ([] : List (DWord × Bool)).length < 4 :=
  ⟨⟨rfl, rfl, fun _ _ h => by cases h; exact ⟨rfl, rfl⟩⟩, rfl, ⟨rfl, rfl, fun _ _ h => nomatch h⟩, by decide⟩

def withTaper (s : State) (x : Taper) : State := s.modG fun G => { G with tapers := [(15, x)] }

theorem witness_TaperInstructions :
    (((base.rdS 5).toNat % 2 ^ 10 = 0) ∧
      (let r := ((withS base 5 0xA0200).rdS 5).toNat
       ¬ (r % 2 ^ 10 = 0 ∨ 512 < r % 2 ^ 10 ∨ r / 2 ^ 10 % 2 ^ 6 ≠ 0 ∨ 10 < r / 2 ^ 16 % 16 ∨ 2 ^ 20 ≤ r)) ∧
      512 < ((withS base 5 0x201).rdS 5).toNat % 2 ^ 10 ∧ 2 ^ 20 ≤ ((withS base 5 0x100001).rdS 5).toNat) ∧
    (let s := withTaper base { configured := true, w := 512, op := 10 }
     (s.cg.taper 15).configured = true ∧ (s.cg.taper 15).damaged = false ∧ s.portFree 15 = true ∧
     (126 : Fin 128).val + (if (0 : Fin 4).val = 0 then 1 else 0) < s.cw.v.length ∧
     (127 : Fin 128).val + (if (3 : Fin 4).val = 0 then 1 else 0) < s.cw.v.length) ∧
    ((base.cg.taper 15).configured = false ∧ base.portFree 15 = true) ∧
    ((withTaper base { damaged := true, configured := true, w := 1 }).cg.taper 15).damaged = true ∧
    (base.modCore 0 fun c => { c with portWork := [3] }).portFree 15 = false ∧
    (withTaper base { restoring := true }).portFree 15 = false := by decide

/-- A store of the wave on its way to 0x20000. -/
def writeOf (st : Stage) : GWrite :=
  { id := 3, op := 3, ctx := 0, group := 0, wave := 0, unit := 0, home := homeOf 0x20000, stage := st, payld := .bytes [(0x20000, 1)], counted := true }

theorem witness_TaperPortsAndMoves_rows :
    (∃ ps, RowsOk buffers false true 64 (fun _ => 8512) buffers.plainStoreOk [(0, buffers.addr (.base 1 0) 0)] ps) ∧
    (∃ ps, RowsOk buffers false false 64 (fun _ => 8512) anyLeaf [(0, buffers.addr (.base 1 0) 0)] ps) ∧ buffers.portFree 15 = true ∧
    (∀ ps, placesOf ps = globals 0x20000 8512 → buffers.restoreWaits (placesOf ps) = false) ∧
    (let s := { buffers with nextId := 4, memory := { buffers.memory with writes := [writeOf .store] } }
     s.restoreWaits [.global 0x20000] = true) := by
  refine ⟨⟨_, ⟨_, rfl⟩, by decide⟩, ⟨_, ⟨_, rfl⟩, by decide⟩, by decide, fun ps h => ?_, by decide⟩
  have r : buffers.readsHeld buffers.cctx (remotePas (placesOf ps)) = false := readsHeld_quiet rfl rfl rfl _ _
  have p : buffers.placesOk buffers.cu (placesOf ps) = true := globals_reached rfl _
  have w : buffers.stillWriting (buffers.waveWrites buffers.cur.g buffers.cur.w) (placesOf ps) = false := rfl
  simp [State.restoreWaits, r, p, w]

theorem witness_TaperPortsAndMoves_accept :
    (∀ z, z ∈ [({ configured := true, w := 2 } : Taper), { configured := true, w := 2, back := ones 2 },
        { configured := true, w := 9, back := ones 9, front := ones 4, flipping := true }] →
      let s := ((withTaper base z).modG fun G => { G with tapWork := some ⟨15, [(3, 5, false), (31, 7, true)]⟩ }).modCore 0 fun c =>
        { c with portWork := [0, 1] }
      (s.core 0).portWork = 0 :: [1] ∧ (s.group 0).tapWork = some ⟨15, [(3, 5, false), (31, 7, true)]⟩ ∧ (s.group 0).taper 15 = z) ∧
    (let z : Taper := { configured := true, w := 2, back := ones 2 }
     z.front = [] ∧ z.back.length = z.w) ∧
    ({ configured := true, w := 2 } : Taper).back.length ≠ 2 := by decide

def moving (o : TapOp) : State := base.modG fun G => { G with tapOps := [o] }

/-- An operation on two bytes of one line, `done` of them moved. -/
def tapOpOf (isSave : Bool) (done : Nat) : TapOp :=
  { id := 6, wave := 0, tap := 15, isSave := isSave, places := globals 0x20000 2, image := [1, 2], done := done }

theorem witness_TaperPortsAndMoves_complete (isSave : Bool) (done : Nat) (h : done = 0 ∨ done = 2) :
    let o := tapOpOf isSave done
    let s := moving o
    (s.group 0).tapOps.find? (fun p => p.id == 6) = some o ∧ o.paged = false ∧ (s.group 0).isSaved = false ∧ o.dropped = none ∧
    s.engineFlying 0 6 = false ∧ s.placesOk (s.group 0).unit o.places = true ∧ s.stillWriting o.waits o.places = false ∧
    (done = 2 → o.image.length ≤ o.done) ∧
    (done = 0 → o.done < o.image.length ∧ (o.nextStep.map fun p => p.1) = globals 0x20000 2 ∧ Writable s (globals 0x20000 2)) := by
  obtain rfl | rfl := h
  · refine ⟨rfl, rfl, rfl, rfl, rfl, globals_reached rfl _, rfl, fun e => absurd e (by decide), fun _ => ⟨Nat.zero_lt_two, ?_, ?_⟩⟩
    · cases isSave <;> decide
    · exact globals_writable ⟨rfl, fun e m => by obtain rfl := List.mem_singleton.mp m; rfl⟩ rfl rfl (by norm_num)
  · exact ⟨rfl, rfl, rfl, rfl, rfl, globals_reached rfl _, rfl, fun _ => Nat.le_refl 2, fun e => absurd e (by decide)⟩

/-! Stamped publication. -/

/-- The lanes of a record's words; the low GiB is stamped, and the pod clock is lit. -/
def stamped : State :=
  let s := (withS base 1 0x20000).modSp fun p => { p with exec := 0xFFF }
  { s with dies := [(0, { s.die 0 with tlb := [{ lowLeaf with stamped := true }] })]
           time := { s.time with tclk := .healthy, loA := 1000, hiA := 1010 } }

/-- A transaction of the wave, open with `n` PUBs. -/
def txOf (n : Nat) : Tx := { id := 8, ctx := 0, group := 0, wave := 0, pubs := n, handles := [8] }
def inTx (n : Nat) : State :=
  let s := stamped.modW fun W => { W with tx := some 8 }
  { s with txs := [txOf n] }

theorem witness_StampedInstructions_pub :
    (∃ ps ls, stamped.pubCheck (.lane 1 2) = .ok ps ls) ∧ stamped.pubWaits 15 = false ∧ stamped.csp.exec ≠ 0 ∧ stamped.openTx = none ∧
    stamped.cw.tx = none ∧ (∃ ps ls, stamped.stampCheck true (stamped.laneAddrs (.lane 1 2)) = .ok ps ls) ∧
    (∃ ps ls, (inTx 63).pubCheck (.lane 1 2) = .ok ps ls) ∧ (inTx 63).pubWaits 15 = false ∧ (inTx 63).openTx = some (txOf 63) ∧
    (let s := stamped.modSp fun p => { p with exec := 0 }
     (∃ ps ls, s.pubCheck (.lane 1 2) = .ok ps ls) ∧ s.pubWaits 15 = false ∧ s.csp.exec = 0) ∧
    (let s := stamped.modCtx 0 fun c => { c with penmax := 4 }
     (∃ ps ls, s.stampCheck true (s.laneAddrs (.lane 1 2)) = .ok ps ls) ∧ (s.ctx s.cctx).penmax < s.time.pen) :=
  ⟨⟨_, _, rfl⟩, by decide, by decide, by decide, by decide, ⟨_, _, rfl⟩, ⟨_, _, rfl⟩, by decide, by decide, ⟨⟨_, _, rfl⟩, by decide, by decide⟩,
    ⟨_, _, rfl⟩, by decide⟩

theorem witness_StampedInstructions_ldat :
    ((withS stamped 5 999).rdS 5).toNat < stamped.time.lo ∧
    (∃ ps ls, (withS stamped 5 999).stampCheck false ((withS stamped 5 999).laneAddrs (.lane 1 2)) = .ok ps ls) ∧
    1000000 + stamped.time.lo < ((withS stamped 5 1001001).rdS 5).toNat := ⟨by decide, ⟨_, _, rfl⟩, by decide⟩

/-- The dusk hold of core 0 has one entry, with a version on its way to slice 0 of die 4. -/
def versionOf (sent acked : Bool) : Version :=
  { slot := 0x20000, words := List.replicate 12 7, stamp := 990, writer := 0, ctx := 0, sent := sent, acked := acked }
def holdOf (stamp : Nat) (sent acked : Bool) : Hold :=
  { id := 5, ctx := 0, group := 0, wave := 0, stamp := stamp, tx := false, handles := [5], vers := [versionOf sent acked] }
def inHold (stamp : Nat) (sent acked : Bool) : State := stamped.modCore 0 fun c => { c with hold := [holdOf stamp sent acked] }

theorem witness_StampedInstructions_transactions :
    (inHold 990 true true).heldBelow 0 0 6 = true ∧ ((inHold 990 true true).setWave 0 0 {}).heldBelow 0 1 6 = false ∧
    (stamped.cw.handle 15).isPending = false ∧ (inTx 0).cw.tx ≠ none ∧ (inTx 0).openTx = some (txOf 0) ∧ (txOf 1).group = (inTx 1).cur.g ∧
    (txOf 1).wave = (inTx 1).cur.w ∧ (inTx 1).time.pen ≤ ((inTx 1).ctx (inTx 1).cctx).penmax ∧ (txOf 1).pubs ≠ 0 ∧ (inTx 1).holdFull = false ∧
    (txOf 0).pubs = 0 ∧ (let s := (inTx 1).modCtx 0 fun c => { c with penmax := 4 }; (s.ctx s.cctx).penmax < s.time.pen) := by decide

theorem witness_VersionsFormed :
    let ps : List (Nat × Nat × List Place) := [(0, 0x20000, [.global 0x20000]), (31, 0x20000, [.global 0x20000])]
    ∃ a r, (31, a, Place.global 0x20000 :: r) ∈ ps ∧ (∀ p q, p ∈ ps → q ∈ ps → p.1 = q.1 → p = q) ∧ ps.Pairwise (fun p q => p.1 < q.1) := by
  refine ⟨0x20000, [], by decide, ?_, by decide⟩
  intro p q hp hq
  simp only [List.mem_cons, List.not_mem_nil, or_false] at hp hq
  obtain rfl | rfl := hp <;> obtain rfl | rfl := hq <;> decide

theorem witness_DuskHold :
    let home := homeOf 0x20000
    home < 512 ∧ (inHold 990 false false).holdEntry 0 5 = some (holdOf 990 false false) ∧
    (inHold 990 false false).bridgeOk 0 home = true ∧ (versionOf false false).sent = false ∧ (inHold 990 true false).reachable 0 home = true ∧
    (inHold 999 true true).holdEntry 0 5 = some (holdOf 999 true true) ∧ (999 : Nat) < (inHold 999 true true).time.lo ∧
    (∀ v, v ∈ (holdOf 999 true true).vers → v.acked = true) ∧ (inHold 1000 true true).time.lo ≤ 1000 ∧
    (versionOf true false).acked = false ∧
    (let s := inHold 990 true false
     let t := { s with dies := [(0, { s.die 0 with fenced := true })] }
     t.holdEntry 0 5 = some (holdOf 990 true false) ∧ t.reachable 0 home = false) ∧
    (let s := { inHold 1000 true false with time := { ({} : TimeUnit) with loA := 1000 } }
     s.holdEntry 0 5 = some (holdOf 1000 true false) ∧ s.time.tclk = .dark ∧ s.timerLen 1000000 = 1000000 ∧ s.time.lo ≤ 1000) ∧
    (∀ c, c ∈ (inHold 990 true false).cores → ∀ h, h ∈ c.2.hold → ∀ v, v ∈ h.vers → v.sent = true) ∧ (0 : Nat) < 512 := by decide

/-- A version of module 5's core 3 comes; a home here with no such entry. -/
theorem witness_DuskHold_far : let v : RemoteVersion := { slot := 0x20000, words := List.replicate 12 7, stamp := 990, ctx := 2, tx := false, poison := false }
    let w := 512 * 5 + 3
    stamped.isFar w = true ∧ homeOf 0x20000 < 512 ∧ stamped.dxOk (homeOf 0x20000) = true ∧ homeOf (stamped.norm v.slot) = homeOf 0x20000 ∧
    Tbl.getD stamped.memory.settled (64 * (w / 512) + v.ctx) 0 < v.stamp ∧ stamped.memory.pending = [] ∧
    (stamped.flow (stamped.inFlow stamped.mod (w / 512) 2 true)).kept = [] := by decide

/-- A home of module 5 that is lost to a writer with no entry here; a home on a die whose clock relocks. -/
theorem witness_DuskHold_lost : base.holdEntry 0 5 = none ∧ remoteHome (homeOf (2 ^ 51 + 5 * 2 ^ 42)) = true ∧
    (let s := inHold 990 true false
     let t := { s with dies := [(4, { s.die 4 with relocking := true })] }
     remoteHome (homeOf 0x20000) = false ∧ t.bridgeOk 0 (homeOf 0x20000) = false ∧ t.memory.pending = []) ∧
    (let s := { base with pod := { base.pod with members := [0, 63] } }
     63 ∈ s.pod.members ∧ 63 ≠ s.mod) := by decide

def litTime : TimeUnit := { tclk := .healthy, loA := 1000, hiA := 1010 }

/-- One released version is pending at its home, where the record's four lines hold the bytes `bs`. -/
def pendingAt (bs : List Byte) : State :=
  { stamped with memory := { stamped.memory with pending := [(0, 5, versionOf true true)], mem := Mem.writeBytes [] 0x20000 bs } }

/-- A line of a record: stamp and writer, visible. -/
def lineWith (st w : Nat) : List Byte := List.replicate 48 0 ++ natLE 8 st ++ natLE 8 (w + 2 ^ 16)

theorem witness_DuskHold_empty : let s := pendingAt []
    (s.memory.pending.filter fun p => p.2.1 == 5 && homeOf p.2.2.slot == homeOf 0x20000 && p.2.2.acked &&
      (!p.2.2.held || !s.versionQueued p.1 5 p.2.2)) = [(0, 5, versionOf true true)] ∧ s.frozenT 0x20000 = none ∧ s.canonical ∧ (0x20000 : Nat) % 256 = 0 ∧
    (versionOf true true).words.length = 12 ∧ s.slotLine 0x200C0 = none ∧ s.isFar 0 = false ∧ s.bridgeOk 0 (homeOf 0x20000) = true ∧
    s.dxOk (homeOf 0x20000) = true ∧ s.cutsOff 0x20000 990 = false ∧
    (let t := { s.modCtx 0 fun c => { c with snaps := [(1, { t := 989, frames := [(0, 1073741824)] })] } with
       time := { litTime with loA := 988 } }
     t.cutsOff 0x20000 990 = true ∧ t.frozenT 0x20000 = none) :=
  ⟨by decide, by decide, ⟨rfl, by decide⟩, by decide, by decide, by decide, by decide, by decide, by decide, by decide, by decide⟩

/-- The four lines are full; the last holds the least version. -/
def fullRecord (st : Nat) : State := pendingAt (lineWith 995 2 ++ lineWith 995 3 ++ lineWith 996 0 ++ lineWith st 1)

theorem witness_DuskHold_full (newer : Bool) : let st := if newer then 989 else 991
    (fullRecord st).slotLine 0x200C0 = some (st, 1, List.replicate 48 0) ∧ (fullRecord st).canonical ∧
    (∀ k, k ∈ [0x20000, 0x20040, 0x20080, 0x200C0] → (fullRecord st).slotLine k ≠ none) ∧
    (fullRecord st).slotLine 0x20000 = some (995, 2, List.replicate 48 0) ∧ (fullRecord st).slotLine 0x20040 = some (995, 3, List.replicate 48 0) ∧
    (fullRecord st).slotLine 0x20080 = some (996, 0, List.replicate 48 0) ∧
    stampLt (st, 1) (995, 2) = true ∧ stampLt (st, 1) (995, 3) = true ∧ stampLt (st, 1) (996, 0) = true ∧
    stampLt (st, 1) (990, 0) = newer := by
  cases newer <;> exact ⟨by decide, ⟨by decide, by decide⟩, by decide, by decide, by decide, by decide, by decide, by decide, by decide, by decide⟩


/-! The Lantern machine. -/

/-- A write of the wave, at a place of its path. -/
def writeAt (st : Stage) (p : Payld) : GWrite :=
  { id := 3, op := 3, ctx := 0, group := 0, wave := 0, unit := 0, home := homeOf 0x20000, stage := st, payld := p, counted := true }
def fullLine : Payld := .bytes ((List.range 64).map fun i => (0x20000 + i, BitVec.ofNat 8 i))
def onWay (x : GWrite) : State := { base with memory := { base.memory with writes := [x] } }

/-- The one group of a state has no byte in its allocation. -/
theorem oneGroup {s : State} {G : Group} (h : s.groups = [(0, G)]) (e : G.scratch = []) : ∀ e, e ∈ s.groups → Mem.wf e.2.scratch = true := by
  intro x m
  rw [h] at m
  obtain rfl := List.mem_singleton.mp m
  show Mem.wf G.scratch = true
  rw [e]
  rfl

/-- The conditions that the first clauses share. -/
def MayPerform (s : State) (x : GWrite) : Prop :=
  s.canonical ∧ s.memory.writes.find? (fun y => y.id == 3) = some x ∧ x.held = false ∧ x.dropped = none ∧
  s.mayMove x = true ∧ s.markerMet x = true ∧ NoneWaits s x.group x.wave

theorem performs (x : GWrite) (hi : x.id = 3) (hh : x.held = false) (hd : x.dropped = none) (hr : x.rel = false) (hg : x.group = 0)
    (hw : x.wave = 0) : MayPerform (onWay x) x := by
  refine ⟨⟨rfl, oneGroup rfl rfl⟩, by simp [onWay, hi], hh, hd, by simp [State.mayMove, onWay], by simp [State.markerMet, hr], ?_⟩
  rw [hg, hw]
  refine ⟨rfl, fun e m => ?_⟩
  obtain rfl := List.mem_singleton.mp m
  exact ⟨nofun, nofun⟩

def addPayload : Payld := .atomic 0 0 [(0, 0x20000, 0xFFFFFFFF, 0), (31, 0x20000, 1, 0)]
def withReq (s : State) (q : Req) (k : ResKind) : State :=
  s.modW fun W => { W with results := [{ id := 3, kind := k, counter := .vmc, vregs := [7], lanes := 0x80000000, reqs := [q] }] }

theorem witness_WritesArePerformed_line : let x := writeAt .die fullLine
    MayPerform (onWay x) x ∧ x.scratchOf = none ∧ (onWay x).atEnd x = true ∧ x.poison = false ∧
    (∀ pa, pa ∈ x.covers → (onWay x).frozenAt pa = false ∧ (onWay x).admits (lineOf pa) = true) ∧
    (∀ i, i < 64 → (x.byte (64 * 0x800 + i)).isSome = true) ∧ x.byte (64 * 0x801) = none ∧ x.counted = true :=
  ⟨performs _ rfl rfl rfl rfl rfl rfl, rfl, by decide, rfl, by decide, by decide, by decide, rfl⟩

theorem witness_WritesArePerformed_atomic : let x := { writeAt .die addPayload with counted := false, result := some 3 }
    let s := withReq (onWay x) ⟨31, 0, .global 0x20000, none, false⟩ (.atomic 0 0 0)
    s.canonical ∧ s.memory.writes.find? (fun y => y.id == 3) = some x ∧ s.mayMove x = true ∧ s.markerMet x = true ∧ s.atEnd x = true ∧
    (∀ pa, pa ∈ x.covers → s.frozenAt pa = false ∧ s.admits (lineOf pa) = true) ∧ 0x20000 % 4 = 0 ∧ s.linePoisoned (lineOf 0x20000) = false ∧
    (∃ ls, x.payld = .atomic 0 0 ls ∧ (ls.map Prod.fst).Nodup ∧
      ∀ l, l ∈ ls → l.2.1 = 0x20000 ∧ l.2.2.1 < 256 ^ 4 ∧ l.2.2.2 < 256 ^ 4) ∧
    (∃ r q, r ∈ (s.wave 0 0).results ∧ r.id = 3 ∧ q ∈ r.reqs ∧ q.lane = 31) :=
  ⟨⟨rfl, oneGroup rfl rfl⟩, rfl, by decide, by decide, by decide, by decide, by decide, by decide, ⟨_, rfl, by decide, by decide⟩,
    ⟨_, _, List.mem_singleton.mpr rfl, rfl, List.mem_singleton.mpr rfl, rfl⟩⟩

theorem witness_WritesArePerformed_scratch : let x := { writeAt .gang (.bytes [(4095, 9)]) with scratchOf := some 0 }
    MayPerform (onWay x) x ∧ x.scratchOf = some 0 ∧ (onWay x).bankClear x.group x.wave x.op ((onWay x).group 0).unit = true ∧
    (onWay (writeAt .gang fullLine)).atEnd (writeAt .gang fullLine) = false :=
  ⟨performs _ rfl rfl rfl rfl rfl rfl, rfl, by decide, by decide⟩

/-- A write to module 1, whose flow uses link 2. -/
def remoteWrite (st : Stage) : GWrite := { writeAt st (.bytes [(2 ^ 51 + 2 ^ 42 + 0x20000, 9)]) with home := homeOf (2 ^ 51 + 2 ^ 42 + 0x20000) }
def linked (x : GWrite) (unacked : Nat) (vcs : Tbl VChannel) : State :=
  let s := onWay x
  { s with memory := { s.memory with flows := [(x.flowKey, { link := some 2, unacked := unacked })] }
           pod := { s.pod with links := [(2, { st := .up, turn := 126, inVisit := true })], vcs := vcs, members := [0, 1] } }

theorem witness_WritesAdvance :
    (∀ st, st ∈ [Stage.store, .group, .gang] → MayPerform (onWay (writeAt st fullLine)) (writeAt st fullLine)) ∧
    (let x := remoteWrite .die
     MayPerform (onWay x) x ∧ remoteHome x.home = true ∧ (onWay x).bridgeOk x.unit x.home = true ∧ ∃ cs, x.payld = .bytes cs) ∧
    remoteHome (writeAt .die fullLine).home = false :=
  ⟨fun _ _ => performs _ rfl rfl rfl rfl rfl rfl, ⟨performs _ rfl rfl rfl rfl rfl rfl, by decide, by decide, _, rfl⟩, by decide⟩

theorem witness_WritesAdvance_module : let x := remoteWrite .module
    let v : VChannel := { tenant := 1, deficit := 64 }
    (let s := linked x 4095 []
     s.memory.writes.find? (fun y => y.id == 3) = some x ∧ s.mayMove x = true ∧ s.reaches (homeModule x.home) = true ∧
     (s.flow x.flowKey).unacked < 4096 ∧ (s.flow x.flowKey).link = some 2 ∧ s.channelOf 2 x.ctx = none) ∧
    (let s := linked x 4095 [(64 * 2 + 63, v)]
     s.channelOf 2 x.ctx = some 63 ∧ (Tbl.getD s.pod.links 2 {}).turn = 2 * 63 ∧
     s.waitingOn 2 (2 * 63) = (3, 64 * ((s.payloadOf x + 63) / 64)) :: [] ∧ 64 * ((s.payloadOf x + 63) / 64) ≤ v.deficit) ∧
    4096 ≤ ((linked x 4096 []).flow x.flowKey).unacked := by decide

/-- A response of 65 bytes to module 1, whose channel has a deficit of 128 for responses. -/
def responding (l : Option Nat) (up : Bool) (vcs : Tbl VChannel) : State :=
  { base with pod := { base.pod with
      links := if up then [(2, { st := .up, turn := 127, inVisit := true })] else []
      vcs := vcs
      responses := [{ id := 4, link := l, peer := 1, ctx := 0, seq := 9, bytes := List.replicate 65 1 }] } }

theorem witness_ResponsesLeave :
    (∀ l, l ∈ [none, some 2] → ∀ b, b ∈ [true, false] → let s := responding l b []
      s.memory.writes.find? (fun x => x.id == 4) = none ∧
      (s.pod.responses.find? fun x => x.id == 4).map Response.link = some l ∧ (b = false ↔ s.carrying = []) ∧ s.channelOf 2 0 = none) ∧
    (let v : VChannel := { tenant := 1, back := 128 }
     let s := responding (some 2) true [(64 * 2 + 63, v)]
     s.channelOf 2 0 = some 63 ∧ (Tbl.getD s.pod.links 2 {}).turn = 2 * 63 + 1 ∧
     s.waitingOn 2 (2 * 63 + 1) = (4, 64 * ((65 + 63) / 64)) :: [] ∧ 64 * ((65 + 63) / 64) ≤ v.back) := by decide

/-- A contribution to a window of plane 5, at its die and in the module queue. -/
def contributes (st : Stage) : GWrite :=
  { writeAt st (.contrib [(0x20000, List.replicate 64 1)]) with home := if st = .module then 512 * (64 + 5 + 1) else 512 }

theorem witness_WritesAdvance_contributions :
    let w : Window := { base := 0x20000, pages := 1, members := 2 ^ 63 + 1, plane := 5, type := 0, tenant := 1 }
    (let s := { onWay (contributes .die) with nextId := 4, pod := { base.pod with windows := [(1, w)] } }
     3 < s.nextId ∧ s.memory.writes.find? (fun y => y.id == 3) = some (contributes .die) ∧ s.bridgeOk 0 512 = true ∧ s.winAt 0x20000 = some (1, w)) ∧
    (let s := linked (contributes .module) 4095 []
     s.memory.writes.find? (fun y => y.id == 3) = some (contributes .module) ∧ s.anyLink = true ∧
     (s.flow (contributes .module).flowKey).unacked < 4096 ∧ (s.flow (contributes .module).flowKey).link = some 2 ∧
     s.channelOf 2 (contributes .module).ctx = none) := by decide

/-- A flow from module 5 that expects number 2^32 - 1. -/
def expecting : State :=
  { base with memory := { base.memory with
      flows := [(65536 + flowKey 5 0 false, { expect := 2 ^ 32 - 1 }), (65536 + flowKey 5 0 true, { expect := 2 ^ 32 - 1 })]
      writeBacks := [0x20000], errs := [(0x20000, .oneSymbol)] } }

theorem witness_MessagesAndCopies : ∀ b, b ∈ [true, false] →
    let k := 65536 + flowKey 5 0 b
    let f := expecting.flow k
    let msg : RemoteMsg := { bytes := [(0x20000, 1), (0x2003F, 2)] }
    let m := expecting.normMsg msg
    f.expect < 2 ^ 32 ∧ f.kept = [] ∧ f.early = [] ∧ 2 ^ 32 - 1 = f.expect ∧ 4094 ≠ f.expect ∧ 5 ≠ expecting.mod ∧
    (4094 + 2 ^ 32 - f.expect) % 2 ^ 32 ≤ 4095 ∧ (m.bytes.map Prod.fst).Nodup ∧ expecting.msgModule m = expecting.mod ∧
    m.hold = .none ∧ m.lanes = [] ∧ m.reads = [] ∧ expecting.msgWaits m = false ∧
    (∀ c, c ∈ m.bytes → inClass c.1 = true ∧ expecting.frozenAt c.1 = false) ∧
    (∀ n, n ∈ [2 ^ 32 - 1, 4094] → ((expecting.setFlow k { f with kept := [(n, m)] }).flow k).kept = [(n, m)]) ∧
    (let g := (expecting.setFlow k { f with kept := [(1, m)], early := [2 ^ 32 - 1, 0] }).flow k
     g.kept = [(1, m)] ∧ ∀ d, d < (1 + 2 ^ 32 - g.expect) % 2 ^ 32 → (g.expect + d) % 2 ^ 32 ∈ g.early) ∧
    (let g := (expecting.setFlow k { f with kept := [(3, m), (4094, m)] }).flow k
     g.kept = [(3, m), (4094, m)] ∧ g.ahead 3 < (4094 + 2 ^ 32 - g.expect) % 2 ^ 32 ∧ 0x20000 ∈ msgLines m) ∧
    3 % 2 ^ 32 ∈ ((expecting.setFlow k { f with early := [3] }).flow k).early ∧
    (let s := expecting.setFlow k {}
     inClass 0x20000 = true ∧ 0x20000 % 8 = 0 ∧ s.frozenAt 0x20000 = false ∧ s.linePoisoned (lineOf 0x20000) = false ∧
     (s.flow k).expect = 0) ∧
    isUnit 0 = true ∧ expecting.admits 0x20000 = true ∧ expecting.admits 0x20040 = true ∧ expecting.bridgeOk 0 (homeOf 0x20000) = true ∧
    expecting.memory.writeBacks.contains 0x20000 = true ∧
    base.memory.writeBacks.contains 0x20000 = false := by decide

/-- A frame of the low GiB is frozen by a snapshot; the message's write stands there. Its report finds the write here that it names. -/
theorem witness_MessagesAndCopies_frozen :
    (let s := expecting.modCtx 0 fun c => { c with snaps := [(1, { t := 0, frames := [(0, 1073741824)], frozen := [0] })] }
     let m : RemoteMsg := { bytes := [(0x20000, 1)] }
     s.stuckAt m = some 0x20000 ∧ remoteHome (homeOf 0x20000) = false ∧ s.msgWaits m = false) ∧
    (∀ b, b ∈ [true, false] → let y := { remoteWrite .flow with seq := some 6, rel := b }
     let m : RemoteMsg := { hold := .frozen b 6 0x20000 }
     y.isOrdered = b ∧ (onWay y).normMsg m = m ∧
      ((onWay y).memory.writes.find? fun x => x.seq == some 6 && x.flowKey == y.flowKey && !x.isContrib && !x.isMsg) = some y) := by
  decide

theorem witness_LoadsAreRead :
    (∀ k, k ∈ [ResKind.load 7, .ldk 7] →
      let q : Req := ⟨31, 0, .global 0x20000, none, false⟩
      let s := withReq base q k
      (s.wave 0 0).earlier 3 = [] ∧ q.got = none ∧ placeHome q.place = homeOf 0x20000 ∧
      s.bridgeOk (s.group 0).unit (homeOf 0x20000) = true ∧ remoteHome (homeOf 0x20000) = false ∧ s.mayRead 0 0 0x20000 = true) ∧
    (let q : Req := ⟨31, 0, .scratch 0 4095, none, false⟩
     let s := withReq base q (.load 7)
     q.got = none ∧ placeHome q.place = 16777216 ∧ s.bankClear 0 0 3 (s.group 0).unit = true) ∧
    (let s := stamped.modW fun W => { W with results := [{ id := 3, kind := .ldat 7 1 999, counter := .vmc, pas := [(31, 0x2002C)] }] }
     homeOf 0x2002C < 512 ∧ s.bridgeOk (s.group 0).unit (homeOf 0x2002C) = true ∧ s.settledAt (homeOf 0x2002C) 999 = true ∧
     s.noPending (0x2002C / 256 * 256) 999 = true ∧ s.admits 0x2002C = true) ∧
    (let pa := 2 ^ 51 + 5 * 2 ^ 41
     let s := stamped.modW fun W => { W with results := [{ id := 3, kind := .ldat 7 1 999, counter := .vmc, pas := [(31, pa)] }] }
     s.bridgeOk (s.group 0).unit (homeOf pa) = true ∧ s.admits pa = false) := by decide

/-- A result with its bytes, and one that still waits. -/
def gotAll (p : Bool) : State :=
  base.modW fun W => { W with results := [{ id := 3, kind := .load 127, counter := .vmc, vregs := [127], lanes := 0x80000000
                                            reqs := (List.range 4).map fun k => ⟨31, k, .global (0x20000 + k), some 1, p⟩ }] }

theorem witness_ResultsAreWritten_load : ∃ r, (gotAll false).cw.results.find? (fun x => x.id == 3) = some r ∧ r.poisoned = false ∧
    r.hasData = true ∧ (∀ q, q ∈ r.reqs → q.poison = false) ∧ r.reqs.Pairwise (fun p q => ¬ (p.lane = q.lane ∧ p.k = q.k)) ∧
    127 + r.vregs.length ≤ (gotAll false).cw.v.length ∧
    ∃ x y, (withReq base ⟨31, 0, .global 0x20000, none, false⟩ (.load 7)).cw.results.find? (fun x => x.id == 3) = some x ∧ x.ready = false ∧
      (gotAll true).cw.results.find? (fun x => x.id == 3) = some y ∧ y.ready = true ∧ ∃ q, q ∈ y.reqs ∧ q.poison = true :=
  ⟨_, rfl, rfl, by decide, by decide, by decide, by decide, _, _, rfl, by decide, rfl, by decide, ⟨31, 0, .global 0x20000, some 1, true⟩, by decide⟩

theorem witness_ResultsAreWritten_base : NoneWaits base 0 0 := by
  refine ⟨rfl, fun e m => ?_⟩
  obtain rfl := List.mem_singleton.mp m
  exact ⟨nofun, nofun⟩


/-! Kernels. -/

/-- The context's tables map the low GiB as the cached leaf does: three tables of one entry each (R258, R259). -/
def tables : Mem := [(0x20000, 0x01), (0x20001, 0x80), (0x20002, 0x02), (0x28000, 0x01), (0x28002, 0x03), (0x30000, 0x1F)]
def withMem (s : State) (m : Mem) : State := { s with memory := { s.memory with mem := m } }
def mapped (s : State) : State :=
  { withMem (s.modCtx 0 fun c => { c with root := 0x20000, tenant := 1 }) tables with tenants := [(1, { cores := [0, 1, 64, 255], ways := 0 })] }

theorem witness_mapped : (mapped base).walk 0 0x3FFFFFFF = .leaf lowLeaf := by decide

/-- A kernel image at 0x40000 (R321): its header, its one descriptor, its header map; 16 words of code. -/
def withImage (s : State) : State :=
  withMem (mapped s) (tables ++ [(0x40000, 0x4E), (0x40001, 0x41), (0x40002, 0x58), (0x40003, 0x37), (0x40004, 1), (0x40006, 1), (0x4000A, 1), (0x40010, 16),
    (0x40019, 4), (0x40020, 0x80), (0x4002A, 2), (0x40080, 0x80), (0x40090, 16), (0x40091, 1), (0x40400, 1)])

def packet : Packet := { code := 0x40080, gang := 4, dies := 3, ex := 0, ey := 0 }
def image : Image := { base := 0x40000, desc := 0x80, codeOff := 0x10000, codeWords := 16, mapOff := 0x400, dataOff := 0x20000, regs := 16 }

/-- Queue 255 of context 0, after `n` launches. -/
def queueOf (n : Nat) : Queue := { ctx := some 0, cmds := List.replicate n 7, last := some 7, count := 7 }
def launching (n : Nat) (b : List Byte) : State :=
  let s := withImage base
  { s with disp := { s.disp with queues := [(255, queueOf n)], launches := [⟨9, 0, 255, b, 0, 0, []⟩] } }

theorem witness_KernelsAreLaunched_packet : PacketOk packet ∧
    PacketOk { code := 2 ^ 64 - 1, ngx := 65535, ngy := 65535, gang := 4, dies := 3, concurrent := true, tracked := true, hasProducer := true
               producer := 1, a00 := -32768, a11 := 32767, ex := 255, ey := 255 } := by
  constructor <;> unfold PacketOk <;> decide

theorem witness_KernelsAreLaunched_launch :
    let s := withS (withS (launching 0 []) 1 0x50000) 2 255
    (s.rdS 1).toNat % 64 = 0 ∧ ((withS s 1 0x50020).rdS 1).toNat % 64 ≠ 0 ∧ 256 ≤ ((withS s 2 256).rdS 2).toNat ∧ (s.rdS 2).toNat < 256 ∧
    (s.queue 255).ctx = some s.cctx ∧ (s.queue 254).ctx ≠ some s.cctx ∧ s.rdVa s.cur.g 0x50000 64 .read = .ok 0 lowLeaf := by decide

theorem reads_image : (withImage base).readImage 0 packet.code = some image := by decide +kernel

theorem poisoned_alike {s t : State} (hm : t.memory = s.memory) (hp : t.pod = s.pod) (l : Nat) : t.linePoisoned l = s.linePoisoned l := by
  unfold State.linePoisoned State.admits State.reaches State.anyLink
  rw [hm, hp]

theorem norm_alike {s t : State} (hn : t.mod = s.mod) (a : Nat) : t.norm a = s.norm a := by
  unfold State.norm
  rw [hn]

/-- What the dispatcher reads depends on the memory, the contexts, the links and the module's number alone. -/
theorem walk_alike {s t : State} (hm : t.memory = s.memory) (hn : t.mod = s.mod) (hp : t.pod = s.pod) (c va : Nat)
    (ls : List (Nat × Nat × Nat × Nat × Nat)) : ∀ a, t.walkFrom c va a ls = s.walkFrom c va a ls := by
  induction ls with
  | nil => intro a; rfl
  | cons e r ih =>
    intro a
    have b (x n : Nat) : t.bytesAt x n = s.bytesAt x n := by unfold State.bytesAt; rw [hm]
    simp only [State.walkFrom]
    rw [poisoned_alike hm hp, b, norm_alike hn, ih]

theorem dxRead_alike {s t : State} (hm : t.memory = s.memory) (hn : t.mod = s.mod) (hp : t.pod = s.pod) (hc : t.ctxs = s.ctxs) (c va n : Nat) :
    t.dxRead c va n = s.dxRead c va n := by
  have w : t.walk = s.walk := by
    funext c va
    unfold State.walk State.ctx
    rw [hc, walk_alike hm hn hp]
  have l : t.linePoisoned = s.linePoisoned := funext (poisoned_alike hm hp)
  have b : t.byteAt = s.byteAt := by
    funext a
    unfold State.byteAt
    rw [hm]
  unfold State.dxRead State.walkBytes
  rw [w, l, b]

theorem image_alike {s t : State} (hm : t.memory = s.memory) (hn : t.mod = s.mod) (hp : t.pod = s.pod) (hc : t.ctxs = s.ctxs) (c code : Nat) :
    t.readImage c code = s.readImage c code := by
  have d : t.dxRead = s.dxRead := by
    funext c va n
    exact dxRead_alike hm hn hp hc c va n
  unfold State.readImage State.imageAt
  rw [d]

theorem launch_alike {s t : State} (hm : t.memory = s.memory) (hn : t.mod = s.mod) (hp : t.pod = s.pod) (hc : t.ctxs = s.ctxs) (c : Nat)
    (b : List Byte) : t.readLaunch c b = s.readLaunch c b := by
  have i : t.readImage = s.readImage := by
    funext c code
    exact image_alike hm hn hp hc c code
  unfold State.readLaunch State.ctx
  rw [i, hc]

theorem launch_of {s : State} {c : Nat} {b : List Byte} {p : Packet} {i : Image} (hp : parsePacket b = some p)
    (hi : s.readImage c p.code = some i) (hd : (s.ctx c).det = false) (hx : p.hasProducer = false) : s.readLaunch c b = some (p, i) := by
  simp [State.readLaunch, hp, hi, hd, hx]

theorem reads_launch : (withImage base).readLaunch 0 (packetBytes packet) = some (packet, image) :=
  launch_of (by decide) reads_image (by decide) (by decide)

theorem witness_KernelsAreLaunched_read : (launching 1023 []).readLaunch 0 (packetBytes packet) = some (packet, image) :=
  (launch_alike (s := withImage base) (by rfl) (by rfl) (by rfl) (by rfl) _ _).trans reads_launch

theorem witness_KernelsAreLaunched_accept :
    (launching 0 []).disp.launches = ⟨9, 0, 255, [], 0, 0, []⟩ :: [] ∧ (launching 1023 []).queueLen 255 < 1024 ∧
    1024 ≤ (launching 1024 []).queueLen 255 ∧ packet.concurrent = false ∧ ((launching 0 []).queue 255).last = some 7 ∧
    ((launching 0 []).kernel 7).st ≠ .failed ∧ packet.hasProducer = false ∧ ((launching 0 []).queue 255).ctx = some 0 ∧
    ((launching 0 []).ctx 0).st ≠ .ending ∧ (((launching 0 []).modCtx 0 fun c => { c with st := .ending }).ctx 0).st = .ending ∧
    (launching 0 []).readLaunch 0 (packetBytes { packet with gang := 5 }) = none ∧ (base.queue 255).ctx ≠ some 0 := by decide

/-- The clock of die 3 relocks: the launch of a group there does not reach the dispatcher. -/
theorem witness_KernelsAreLaunched_held :
    let m : LaunchMsg := ⟨9, 0, 255, [], 0, 0, []⟩
    let s := { (launching 0 []).modG (fun G => { G with unit := 192 }) with dies := [(3, { base.die 3 with relocking := true })] }
    s.disp.launches = m :: [] ∧ s.bridgeOk (s.group m.group).unit 512 = false := by decide

/-- Kernel 7 stands in queue 255; its queue has been passed over `p` times. -/
def waiting (p : Nat) : State :=
  let s := mapped base
  { s with disp := { s.disp with
      queues := [(255, { queueOf 1 with pass := p, prio := 3 })]
      kernels := Tbl.set s.disp.kernels 7 { queue := 255, img := image, pkt := { packet with ngx := 2, gang := 2 } } } }

theorem witness_GangsArePlaced_empty : base.savedPlaces = [] ∧ ∀ r, ¬ Eligible base r := by
  refine ⟨by decide, fun r h => ?_⟩
  obtain ⟨-, k, p, e, -⟩ := h
  exact absurd e (by simp [State.headOf, State.queue, show base.disp.queues = [] from rfl, Tbl.getD, Tbl.get?])

theorem headOf_waiting {p r k : Nat} (h : (waiting p).headOf r = some k) : r = 255 := by
  by_contra n
  exact absurd h (by
    simp [State.headOf, State.queue, show (waiting p).disp.queues = [(255, { queueOf 1 with pass := p, prio := 3 })] from rfl, Tbl.getD,
      Tbl.get?, Ne.symm n])

theorem witness_GangsArePlaced_serves (p : Nat) (h : p ∈ [0, 15]) : (waiting p).savedPlaces = [] ∧ Serves (waiting p) 255 ∧
    (waiting p).headOf 255 = some 7 ∧ (waiting p).placeable 7 = some (7, 0, 0) ∧ ((waiting p).kernel 7).queue = 255 ∧
    (((waiting p).kernel 7).gangOf 0)[1]? = some 1 := by
  have a : (waiting p).headOf 255 = some 7 := by revert p; decide
  have b : (waiting p).placeable 7 = some (7, 0, 0) := by clear a; revert p; decide
  have only (r : Nat) (e : Eligible (waiting p) r) : r = 255 := by
    obtain ⟨-, k, q, e, -⟩ := e
    exact headOf_waiting e
  have c : (waiting p).savedPlaces = [] := by clear a b only; revert p; decide
  refine ⟨c, ⟨⟨by decide, 7, _, a, b⟩, ?_⟩, a, b, rfl, rfl⟩
  simp only [List.mem_cons, List.not_mem_nil, or_false] at h
  obtain rfl | rfl := h
  · refine .inr ⟨fun r e => ?_, fun r e _ => ?_⟩
    · rw [only r e]
      decide
    · rw [only r e]
      decide
  · refine .inl ⟨by decide, fun r e => .inr ?_⟩
    rw [only r e]
    decide

/-- The gang and the place that are given meet the conditions of R74. -/
theorem witness_LowestGangAndPlace : 0 < ((waiting 0).kernel 7).pkt.gang := by decide

/-- A gang of one group is saved. -/
def saved : State :=
  let s := (mapped base).modKernel 0 fun K => { K with pkt := { K.pkt with gang := 1 } }
  { s.modG fun G => { G with place := .saved, savedOrder := 4 } with nextId := 5 }

theorem witness_GangsArePlaced_saved : (4, 0, 0, 0) ∈ saved.savedPlaces ∧ (∀ y, y ∈ saved.savedPlaces → y ≠ (4, 0, 0, 0) → 4 < y.1) ∧
    (saved.gangGroups 0 0)[0]? = some (0, saved.group 0) ∧ (saved.groups.map Prod.fst).Nodup := by decide

/-- The group is over. -/
def endedGroup : State := (base.modG fun G => { G with place := .ended }).modKernel 0 fun K => { K with tracked := true }

theorem witness_KernelsEnd_bitmap : (endedGroup.group 0).isEnded = true ∧ (endedGroup.group 0).failed = false ∧
    (endedGroup.group 0).bit = false ∧ (endedGroup.kernel (endedGroup.group 0).kernel).tracked = true ∧ endedGroup.memory.writes = [] := by
  decide

/-- The kernel in a state, with its group over and kernel 1 depending on it. -/
def kernelIn (st : KSt) : State :=
  let s := endedGroup.modKernel 0 fun K => { K with st := st, code := 6 }
  s.setKernel 1 { pred := some 0 }

theorem witness_KernelsEnd_states : ((kernelIn .retiring).kernel 0).st = .retiring ∧ (kernelIn .retiring).kernelQuiet 0 = true ∧
    (kernelIn .retiring).disp.installs = [] ∧
    ({ kernelIn .retiring with memory := { base.memory with writes := [writeAt .die fullLine] } }).kernelQuiet 0 = false ∧
    ((kernelIn .failing).kernel 0).st = .failing ∧
    (∀ y, y ∈ (kernelIn .failing).groupsOf 0 → y.2.isEnded = true) ∧ (kernelIn .failing).enginesIdle 0 = true ∧
    Tbl.get? (kernelIn .failing).disp.kernels 1 = some { pred := some 0 } ∧ (KSt.queued).canFail = true := by decide

theorem witness_KernelsEnd_exits :
    ((base.modCtx 0 fun c => { c with priv := false }).ctx 0).priv = false ∧ (base.ctx base.cctx).priv = true ∧
    Tbl.has base.disp.kernels (base.rdS 5).toNat = true ∧ (base.kernel (base.rdS 5).toNat).st.canFail = true ∧
    Tbl.get? base.groups 0 = some (base.group 0) ∧ (base.group 0).kernel = (base.rdS 5).toNat ∧ (base.group 0).place ≠ .ended ∧
    Tbl.has (withS base 5 1).disp.kernels ((withS base 5 1).rdS 5).toNat = false := by decide

theorem witness_KernelsEnd_saves : let s := base.modG fun G => { G with preempt := .now }
    (s.group 0).place = .placed ∧ (s.group 0).preempt = .now ∧ s.settled 0 = true := by decide

/-- Context 63 ends. -/
def endingCtx : State :=
  { base with ctxs := Tbl.set base.ctxs 63 { st := .ending }, disp := { base.disp with queues := [(3, { ctx := some 63 })] } }

theorem witness_KernelsEnd_free : (endingCtx.ctx 63).st = .ending ∧ endingCtx.ctxQuiet 63 = true ∧
    ((endingCtx.setKernel 1 { ctx := 63 }).ctxQuiet 63) = false := by decide


/-- The notice ring's last entry is unread. -/
def noticed : State := (mapped base).modCtx 0 fun c => { c with notices := 0x50000, rd := 255, wr := 0, unread := 1 }

theorem witness_ResultsAreWritten_notice : (noticed.ctx (noticed.ctxOf 0)).unread ≠ 0 ∧ (base.ctx (base.ctxOf 0)).unread = 0 ∧
    ∃ pas, noticed.walkBytes 0 ((noticed.ctx 0).notices + 16 * (noticed.ctx 0).rd) 16 .read = some pas ∧
      ∀ p, p ∈ pas → noticed.linePoisoned (lineOf p) = false :=
  ⟨by decide, by decide, _, rfl, by decide⟩

/-! Contexts. -/

/-- Bytes of a descriptor stand at 0x50000; the contexts below 63 are in use. -/
def describing (b : List Byte) (free : Bool) : State :=
  let s := withMem (withS base 1 0x50000) (Mem.writeBytes [] 0x50000 b)
  { s with ctxs := (List.range (if free then 63 else 64)).map fun n => (n, { s.ctx 0 with st := .live }) }

def descriptor (tenant : Nat) : List Byte := contextBytes 0x20000 tenant 7 0xFFFE (2 ^ 255) 0x10000 0x50000

theorem witness_ContextsAreRun_new :
    (let s := describing (descriptor 1) true
     (s.ctx s.cctx).priv = true ∧ (s.rdS 1).toNat % 64 = 0 ∧ s.rdVa s.cur.g 0x50000 64 .read = .ok (leNat (descriptor 1)) lowLeaf ∧
     s.ownBytes (lowLeaf.pa + (0x50000 - lowLeaf.va)) 64 = descriptor 1 ∧
     (63 : Nat) < 64 ∧ (s.ctx 63).st = .free ∧ (∀ n, n < 63 → (s.ctx n).st ≠ .free) ∧ (0x20000 : Nat) % 65536 = 0 ∧ (0x50000 : Nat) % 4096 = 0 ∧
     (0xFFFE : Nat) ≠ 0xFFFF ∧ (7 : Nat) < 8 ∧ (2 : Nat) ^ 255 < 2 ^ 256 ∧ (s.queue 255).ctx = none) ∧
    (let s := describing (descriptor 0) true
     s.rdVa s.cur.g 0x50000 64 .read = .ok (leNat (descriptor 0)) lowLeaf ∧
     s.ownBytes (lowLeaf.pa + (0x50000 - lowLeaf.va)) 64 = descriptor 0) ∧
    (∀ n, n < 64 → ((describing [] false).ctx n).st ≠ .free) ∧ ((withS base 1 0x50020).rdS 1).toNat % 64 ≠ 0 := by decide

/-- Context 63 in a state of its life. -/
def second (st : CtxSt) : State := { withS base 1 63 with ctxs := base.ctxs ++ [(63, { st := st })] }

theorem witness_ContextsAreRun_switch :
    63 < ((withS base 1 64).rdS 1).toNat ∧ (base.rdS 1).toNat = base.cctx ∧ ((second .free).ctx 63).st = .free ∧
    (∀ st, st ∈ [CtxSt.free, .live, .suspended, .ending] → ((second st).ctx (second st).cctx).priv = true ∧ ((second st).rdS 1).toNat = 63 ∧
      63 ≠ (second st).cctx ∧ ((second st).ctx 63).st = st) ∧
    (let s := (second .live).modKernel 0 fun K => { K with ctx := 63 }
     let t := s.modG fun G => { G with kernel := 1 }
     Tbl.get? (t.setGroup 7 { t.cg with kernel := 0 }).groups 7 = some { t.cg with kernel := 0 } ∧ t.cg.place = .placed ∧
     (t.kernel 0).ctx = 63) := by decide

/-! The fault queue. -/

/-- Context 5 has an entry at slot 15 of its fault queue, with a split of group 0 waiting for it. -/
def faulted (popped : Bool) : FqEntry :=
  { popped := popped, page := 0x30000, kind := 1, level := 2, malformed := false, kernel := 0, unit := 0, order := 4, waiters := [.split 0 1 0] }
def withFault (s : State) (e : FqEntry) : State := { s with ctxs := s.ctxs ++ [(5, { st := .live, fq := [(15, e)] })] }

theorem witness_FaultQueueAndNotices :
    (4 : Fin 64).val % 4 = 0 ∧ (4 : Fin 64).val ≠ 0 ∧ (6 : Fin 64).val % 4 ≠ 0 ∧ 63 < ((withS base 5 64).rdS 5).toNat ∧
    (let s := withFault (withS base 5 5) (faulted false)
     (s.ctx s.cctx).priv = true ∧ (s.rdS 5).toNat < 64 ∧ (s.ctx 5).st ≠ .free ∧ (15, faulted false) ∈ (s.ctx 5).fq ∧
     (faulted false).popped = false ∧ (∀ y, y ∈ (s.ctx 5).fq → y.2.popped = false → y ≠ (15, faulted false) → (faulted false).order < y.2.order)) ∧
    (let s := withFault (withS base 5 (5 + 256 * 15)) (faulted true)
     (∀ y, y ∈ (s.ctx 5).fq → y.2.popped = true) ∧ (s.rdS 5).toNat % 256 = 5 ∧ (s.rdS 5).toNat / 256 % 256 = 15 ∧
     Tbl.get? (s.ctx 5).fq 15 = some (faulted true) ∧ (faulted true).popped = true ∧ s.opsDone s.cur.g s.cur.w s.nextId = true ∧
     (faulted true).waiters = [.split 0 1 0] ∧ (0, 1, 0) ≠ (s.cur.g, s.cur.w, s.cur.sl) ∧ Tbl.has s.disp.kernels (s.group 0).kernel = true ∧
     (s.kernel (s.group 0).kernel).st.canFail = true) ∧
    (let s := { withFault (withS base 5 (5 + 256 * 15)) (faulted true) with
       nextId := 4, memory := { base.memory with writes := [writeAt .store fullLine] } }
     s.opsDone s.cur.g s.cur.w s.nextId = false) ∧
    Tbl.get? ((withFault base (faulted false)).ctx 5).fq 14 = none ∧ (62 : Fin 64).val % 2 = 0 ∧ (63 : Fin 64).val % 2 = 1 := by decide

/-! Walks and page faults. -/

theorem table_wellFormed {n e : Nat} (hn : n ≠ 4) (ht : e / 2 % 2 = 0) (hr : e / 2 ^ 52 = 0) (hz : e / 2 ^ 2 % 2 ^ 6 = 0)
    (ha : entryAddress e % tableSize n = 0) (hp : entryAddress e / 2 ^ 48 ≠ 8) : ¬ Malformed n e := by
  rintro (h | ⟨h, -⟩ | ⟨-, h | h | h | h⟩)
  · exact h hr
  · omega
  · exact hn h
  · exact h hz
  · exact h ha
  · exact hp h

/-- A walk ends at a leaf of level 2, at an entry that is not valid, and at a table entry whose reserved bits are set. -/
theorem witness_TableWalk_comes : WalkComesTo (mapped base) 0 0x3FFFFFFF 2 0x30000 ∧ WalkComesTo (mapped base) 0 0x40000000 2 0x30008 ∧
    WalkComesTo (mapped base) 0 0x8000000000 1 0x28008 := by
  have a : leNat ((mapped base).bytesAt 0x20000 8) = 0x28001 := by decide
  have b : leNat ((mapped base).bytesAt 0x28000 8) = 0x30001 := by decide
  have r : ((mapped base).ctx 0).root = 0x20000 := by decide
  have top (va : Nat) (h : va < 2 ^ 51) : WalkComesTo (mapped base) 0 va 0 0x20000 := by
    simp only [WalkComesTo, r, Nat.div_eq_of_lt h, Nat.zero_mod, Nat.mul_zero, Nat.add_zero]
  have one (va : Nat) (h : va < 2 ^ 39) : WalkComesTo (mapped base) 0 va 1 0x28000 := by
    refine ⟨0x20000, top va (by omega), by decide, by rw [a], by rw [a], ?_, ?_⟩
    · rw [a]
      exact table_wellFormed (by decide) (by decide) (by decide) (by decide) (by decide) (by decide)
    · rw [a, show (walkIndex (0 + 1)).1 = 39 from rfl, Nat.div_eq_of_lt h]
      rfl
  have two (va x : Nat) (h : va < 2 ^ 39) (e : x = 0x30000 + 8 * (va / 2 ^ 30 % 2 ^ 9)) : WalkComesTo (mapped base) 0 va 2 x := by
    refine ⟨0x28000, one va h, by decide, by rw [b], by rw [b], ?_, ?_⟩
    · rw [b]
      exact table_wellFormed (by decide) (by decide) (by decide) (by decide) (by decide) (by decide)
    · rw [b, e]
      rfl
  refine ⟨two _ _ (by norm_num) (by norm_num), two _ _ (by norm_num) (by norm_num), 0x20000, top _ (by norm_num), by decide, by rw [a], by rw [a],
    ?_, ?_⟩
  · rw [a]
    exact table_wellFormed (by decide) (by decide) (by decide) (by decide) (by decide) (by decide)
  · rw [a]
    rfl

/-- A third table with an entry that is a leaf where none may stand. -/
def misplaced : State := withMem (mapped base) (tables.filter (fun c => c.1 < 0x28000) ++ [(0x28000, 0x03)])

theorem witness_TableWalk_entries : let e (s : State) (a : Nat) := leNat (s.bytesAt a 8)
    (mapped base).linePoisoned (lineOf 0x30000) = false ∧ e (mapped base) 0x30000 % 2 = 1 ∧ e (mapped base) 0x30000 / 2 % 2 = 1 ∧
    ¬ Malformed 2 (e (mapped base) 0x30000) ∧ e (mapped base) 0x30008 % 2 = 0 ∧ e misplaced 0x28000 % 2 = 1 ∧
    Malformed 1 (e misplaced 0x28000) ∧ ((mapped base).die 5).tlb = [] ∧ (mapped base).walkOk 5 0 0x3FFFFFFF = true ∧
    (e (mapped base) 0x30000).testBit 2 = true ∧ (0x1B : Nat).testBit 2 = false := by
  have h : leNat ((mapped base).bytesAt 0x30000 8) = 0x1F := by decide
  refine ⟨by decide, by decide, by decide, ?_, by decide, by decide, ?_, by decide, by decide, by decide, by decide⟩
  · show ¬ Malformed 2 (leNat ((mapped base).bytesAt 0x30000 8))
    rw [h]
    rintro (h | ⟨-, h | h | h⟩ | ⟨h, -⟩)
    · exact absurd h (by decide)
    · exact absurd h (by decide)
    · exact absurd h (by decide)
    · exact h ⟨0, rfl, .inl ⟨rfl, by norm_num⟩⟩
    · exact absurd h (by decide)
  · show Malformed 1 (leNat (misplaced.bytesAt 0x28000 8))
    rw [show leNat (misplaced.bytesAt 0x28000 8) = 3 by decide]
    exact .inr (.inl ⟨rfl, .inl rfl⟩)

/-- Context 5's queue holds `n` faults of other pages, the first at slot 0. -/
def crowded (n : Nat) : State :=
  { base with ctxs := base.ctxs ++ [(5, { st := .live, fq := (List.range n).map fun k => (k, { faulted false with page := 65536 * (k + 8) }) })] }

theorem witness_PageFaultsQueue :
    (let x := (withFault base (faulted false)).ctx 5
     (15, faulted false) ∈ x.fq ∧ (faulted false).page = 0x3FFFF / 65536 * 65536 ∧ (faulted false).kind = 1 ∧
     (∀ y, y ∈ x.fq → y.2.page = 0x3FFFF / 65536 * 65536 ∧ y.2.kind = 1 → y = (15, faulted false)) ∧
     (∀ y, y ∈ x.fq → ¬ (y.2.page = 0x3FFFF / 65536 * 65536 ∧ y.2.kind = 2)) ∧ Tbl.has x.fq 0 = false) ∧
    ((∀ y, y ∈ ((crowded 255).ctx 5).fq → y.2.page ≠ 0) ∧ Tbl.has ((crowded 255).ctx 5).fq 255 = false ∧
     ∀ j, j < 255 → Tbl.has ((crowded 255).ctx 5).fq j = true) ∧
    ((∀ y, y ∈ ((crowded 256).ctx 5).fq → y.2.page ≠ 0) ∧ ∀ j, j < 256 → Tbl.has ((crowded 256).ctx 5).fq j = true) ∧
    (let s := withS base 1 0x40000000
     (∃ va k l m ls, s.memCheck false false 4 4 .read anyLeaf (s.laneAddrs (.lane 1 2)) = .page va k l m ls) ∧
     (∃ va k l m ls, s.memCheck false true 4 4 .write (s.stgOk (wholeLines (s.lanePas (s.laneAddrs (.lane 1 2))) 4)) (s.laneAddrs (.lane 1 2)) =
       .page va k l m ls) ∧ s.csp.mode ≠ .trap ∧ s.memory.errs = [] ∧ (inTrap s).csp.mode = .trap) :=
  ⟨by decide, by decide, by decide, ⟨_, _, _, _, _, rfl⟩, ⟨_, _, _, _, _, rfl⟩, by decide, by decide, by decide⟩

/-! Invalidation and snapshots. -/

/-- An invalidation that waits for dies `ds`, in a state where a split waits for it. -/
def inval (ds : List Nat) (rs : List (Nat × Nat × Nat)) : Inval := ⟨11, some 0, none, ds, false, 0, rs, []⟩
def invalidating (ds : List Nat) (rs : List (Nat × Nat × Nat)) : State :=
  { base.modSp (fun p => { p with block := .tlbinv 5 11 }) with invals := [inval ds rs] }

theorem witness_PagesAndSnapshots_tlbinv :
    63 < ((withS base 5 64).rdS 5).toNat ∧ (base.rdS 5).toNat < 64 ∧ (base.ctx (base.rdS 5).toNat).st ≠ .free ∧
    base.opsDone base.cur.g base.cur.w base.nextId = true ∧
    (let s := { base with nextId := 4, memory := { base.memory with writes := [writeAt .store fullLine] } }
     s.opsDone s.cur.g s.cur.w s.nextId = false) := by decide

theorem witness_PagesAndSnapshots_acknowledged :
    (invalidating [7] []).invals = [inval [7] []] ∧ (inval [7] []).id = 11 ∧ 7 ∈ (inval [7] []).dies ∧
    (invalidating [7] []).accessesDone (inval [7] []) 7 = true ∧ (invalidating [0, 7] []).accessesDone (inval [0, 7] []) 7 = true ∧
    (∃ k, k ∈ (inval [0, 7] []).dies ∧ k ≠ 7) ∧ (∀ k, k ∈ (inval [7] []).dies → k = 7) ∧
    (let s := { loading with invals := [inval [0] [(0, 0, 9)]] }
     s.accessesDone (inval [0] [(0, 0, 9)]) 0 = false) ∧
    ((invalidating [7] []).split 0 0 0).block = .tlbinv 5 11 ∧ ((invalidating [7] []).invals.map Inval.id).Nodup ∧
    ({ invalidating [7] [] with now := 100000 }).passed (inval [7] []).since 100000 = true ∧
    ({ invalidating [7] [] with now := 99999 }).passed (inval [7] []).since 100000 = false ∧
    (((invalidating [7] []).modDie 7 fun d => { d with fenced := false }).die 7).fenced = false := by decide

/-- The clock is lit. -/
def lit (s : State) : State := { s with time := { s.time with tclk := .healthy, loA := 1000, hiA := 1010 } }
def withSnaps (s : State) (n : Nat) : State := s.modCtx 0 fun c => { c with snaps := (List.range n).map fun k => (k, { t := 30000, frames := [] }) }

theorem witness_PagesAndSnapshots_times :
    (let s := withS (lit base) 5 21010
     (s.rdS 5).toNat ≤ s.time.hi + 20000) ∧
    (let s := withS (lit base) 5 1000001011
     s.time.hi + 1000000000 < (s.rdS 5).toNat) ∧
    (let s := withS (lit base) 5 21011
     s.time.hi + 20000 < (s.rdS 5).toNat ∧ (s.rdS 5).toNat ≤ s.time.hi + 1000000000) ∧
    (∀ k, k < 4 → Tbl.has ((withSnaps base 4).ctx 0).snaps k = true) ∧ Tbl.has ((withSnaps base 3).ctx 0).snaps 3 = false ∧
    (∀ k, k < 3 → Tbl.has ((withSnaps base 3).ctx 0).snaps k = true) := by decide

/-- Snapshot 3 has asked for two frames, or for one. -/
def snapOf (two refused : Bool) : Snapshot :=
  { t := 1001, frames := [(0, 65536), (65536, 65536)], asked := if two then [(0, 65536), (65536, 65536)] else [(65536, 65536)]
    refused := refused, issuer := some (0, 0, 0, 5) }
def snapping (two refused : Bool) : State :=
  ((lit base).modCtx 0 fun c => { c with snaps := [(3, snapOf two refused)] }).modSp fun p => { p with block := .snap 5 3 }

theorem witness_PagesAndSnapshots_answers :
    Tbl.get? ((snapping true false).ctx 0).snaps 3 = some (snapOf true false) ∧ (65536, 65536) ∈ (snapOf true false).asked ∧
    (snapOf true false).asked.filter (fun f => f.1 != 65536) ≠ [] ∧ (snapOf false true).asked.filter (fun f => f.1 != 65536) = [] ∧
    (snapOf false true).refused = true ∧ (snapOf false false).refused = false ∧ (snapping false false).time.lo < (snapOf false false).t ∧
    (snapOf false false).issuer = some (0, 0, 0, 5) ∧ ((snapping false false).split 0 0 0).block = .snap 5 3 ∧
    (∀ f, f ∈ (snapOf false false).asked → f.1 ≠ 0) ∧ remoteHome (homeOf 65536) = false ∧
    (snapping false false).askReaches 0 3 65536 (snapOf false false) = true ∧
    (let s := (snapping false false).modDie 0 fun d => { d with fenced := true }
     s.askReaches 0 3 65536 (snapOf false false) = false) ∧
    (let s := { snapping false false with time := { (lit base).time with loA := 1001 } }
     (snapOf false false).t ≤ s.time.lo) := by decide


/-- The leaves under an entry that names a table. -/
theorem leaves_below {s : State} {c table va lv lo wd n z i e t : Nat} {rest : List (Nat × Nat × Nat × Nat × Nat)} {l : Leaf} (hi : i < 2 ^ wd)
    (hp : s.linePoisoned (lineOf (table + 8 * i)) = false) (he : leNat (s.bytesAt (table + 8 * i) 8) = e) (ht : fld e 8 44 * 256 = t)
    (h1 : ¬ ((!bit e 0) = true ∨ fld e 52 12 ≠ 0)) (h2 : ¬ bit e 1 = true) (h3 : ¬ (lv = 0 ∨ fld e 2 6 ≠ 0 ∨ t % n ≠ 0 ∨ t / 2 ^ 48 = 8))
    (h : l ∈ s.leavesFrom c t (va + i * 2 ^ lo) rest) : l ∈ s.leavesFrom c table va ((lv, lo, wd, n, z) :: rest) := by
  refine List.mem_flatMap.mpr ⟨i, List.mem_range.mpr hi, ?_⟩
  simp only [hp, he, ht, Bool.false_eq_true, if_false, if_neg h1, if_neg h2, if_neg h3]
  exact h

theorem witness_PagesAndSnapshots_frame : (0, 1073741824) ∈ (mapped (lit base)).writableFrames 0 := by
  have h (s : State) (hs : s.linePoisoned 0x30000 = false) (he : leNat (s.bytesAt 0x30000 8) = 0x1F) :
      lowLeaf ∈ s.leavesFrom 0 0x30000 0 (walkLevels.drop 2) := by
    refine List.mem_flatMap.mpr ⟨0, List.mem_range.mpr (by norm_num), ?_⟩
    simp only [show lineOf (0x30000 + 8 * 0) = 0x30000 from rfl, hs, show 0x30000 + 8 * 0 = 0x30000 from rfl, he]
    exact List.mem_singleton.mpr rfl
  have h2 := leaves_below (s := mapped (lit base)) (c := 0) (table := 0x28000) (va := 0) (lv := 3) (lo := 39) (wd := 12) (n := 4096) (z := 0) (i := 0)
    (by norm_num) (by decide) rfl rfl (by decide) (by decide) (by decide) (h _ (by decide) (by decide))
  have h1 := leaves_below (s := mapped (lit base)) (c := 0) (table := 0x20000) (va := 0) (lv := 4) (lo := 51) (wd := 13) (n := 32768) (z := 0) (i := 0)
    (by norm_num) (by decide) rfl rfl (by decide) (by decide) (by decide) h2
  have r : ((mapped (lit base)).ctx 0).root = 0x20000 := rfl
  unfold State.writableFrames
  rw [r]
  exact List.mem_map.mpr ⟨lowLeaf, List.mem_filter.mpr ⟨h1, rfl⟩, rfl⟩

/-- With no entry valid there is no leaf. -/
theorem leaves_none {s : State} {c table va lv lo wd n z : Nat} {rest : List (Nat × Nat × Nat × Nat × Nat)}
    (h : ∀ i, leNat (s.bytesAt (table + 8 * i) 8) = 0) : s.leavesFrom c table va ((lv, lo, wd, n, z) :: rest) = [] := by
  refine List.flatMap_eq_nil_iff.mpr fun i _ => ?_
  simp [h i, bit]

theorem witness_PagesAndSnapshots_noFrame : (withMem (lit base) []).writableFrames 0 = [] := by
  have g (s : State) (h : ∀ t i, leNat (s.bytesAt (t + 8 * i) 8) = 0) : s.writableFrames 0 = [] := by
    unfold State.writableFrames walkLevels
    rw [leaves_none fun i => h _ i]
    rfl
  refine g _ fun t i => ?_
  have e : (withMem (lit base) []).bytesAt (t + 8 * i) 8 = Mem.bytes [] (t + 8 * i) 8 := by simp only [State.bytesAt, withMem]
  rw [e]
  simp [Mem.bytes, Mem.read, Mem.unlisted, leNat]


/-! Leases, monitors, heat. -/

/-- Every unit's lease is due; link 0 is up. -/
def leasing : State := { base with pod := { base.pod with links := [(0, { st := .up })] } }
def withUnit (u : Nat) (x : LUnit) : State := { base with now := 10 ^ 9, lamp := { base.lamp with units := [(u, x)] } }

theorem witness_Leases_start : leasing.boot = .ready ∧ (∀ u, u ∈ [0, 0x200, 0x400, 0x5FF] → leasing.mayLease u = true) ∧
    isUnit 0 = true ∧ (leasing.link ((0x200 - 0x200) / 2)).st = .up ∧
    Tbl.get? leasing.groups 0 = some (leasing.group 0) ∧ (leasing.group 0).place = .placed ∧ (leasing.group 0).unit = 0 ∧
    (withUnit 0x223 { st := .testing }).mayLease 0x223 = false ∧ (withUnit 0 { st := .retired, reinstating := true }).mayLease 0 = true ∧ ((withUnit 0 { forward := true }).unit 0).forward = true ∧ ((withUnit 0 {}).unit 0).forward = false := by
  decide

theorem witness_Leases_first (u v : Nat) : leasing.leaseFirst v u = false := rfl

theorem witness_Leases_withdrawal :
    (let s := withUnit 0 { st := .withdrawing, since := 10 ^ 9 - 500000 }
     (s.unit 0).st = .withdrawing ∧ s.passed (s.unit 0).since 500000 = true ∧ ∃ e, e ∈ s.groups ∧ e.2.place = .placed ∧ e.2.unit = 0) ∧
    (let s := withUnit 0 { st := .withdrawing, since := 10 ^ 9 - 499999 }
     s.passed (s.unit 0).since 500000 = false) ∧
    (let s := withUnit 255 { st := .withdrawing }
     isUnit 255 = false ∧ isUnit 511 = true ∧ ((withUnit 511 { st := .withdrawing }).unit 511).st = .withdrawing ∧
     (∀ e, e ∈ s.groups → e.2.place = .placed → e.2.unit ≠ 511) ∧ (s.core 511).hold = []) := by
  refine ⟨⟨by decide, by decide, (0, base.group 0), by decide, by decide, by decide⟩, by decide, by decide⟩

theorem witness_Leases_tests : ∀ u, u ∈ [0, 511, 0x200, 0x223, 0x400, 0x5FF] → ∀ st, st ∈ [UnitSt.testing, .retesting] →
    let early := withUnit u { st := st, since := 10 ^ 9, score := 0xFFFF }
    let late := withUnit u { st := st, since := 10 ^ 9 - 30000000 }
    let lane := withUnit u { st := st, since := 10 ^ 9 - 2000000 }
    ((early.unit u).st = .testing ∨ (early.unit u).st = .retesting) ∧ (early.unit u).copying = 0 ∧
    early.passed (early.unit u).since 30000000 = false ∧ late.passed (late.unit u).since 30000000 = true ∧
    lane.passed (lane.unit u).since 2000000 = true := by decide

theorem witness_Leases_lanes :
    (let s := { base with now := 2000000, pod := { base.pod with links := [(0, { st := .degraded })] }
                          lamp := { base.lamp with units := [(0x200, { st := .retesting }), (0x201, { st := .retired })] } }
     (s.link ((0x200 - 0x200) / 2)).st = .degraded ∧ ∀ w, w < 0x224 → w / 2 = 0x200 / 2 → w ≠ 0x200 → (s.unit w).st = .retired) ∧
    (let s := { base with now := 2000000, pod := { base.pod with links := [(0, { st := .degraded })] }
                          lamp := { base.lamp with units := [(0x200, { st := .testing })] } }
     (s.link ((0x200 - 0x200) / 2)).st = .degraded ∧ ∀ w, w < 0x224 → w / 2 = 0x200 / 2 → w ≠ 0x200 → (s.unit w).st = .inService) ∧
    ((withUnit 0x400 { st := .withdrawing, copying := 1 }).unit 0x400).copying = 1 ∧ ((withUnit 0x5FF { copying := 2 }).unit 0x5FF).copying = 2 := by
  decide

theorem witness_MonitorsAndHeat : InBin 0 0 ∧ InBin 1 1 ∧ InBin 14 16383 ∧ InBin 15 16384 ∧ (base.samples [])[0]? = some 0 ∧
    ({} : Monitor).bins[15]? = some 0 ∧ 840 < 841 ∧ 48000 < 48001 ∧ 7 ∉ base.lamp.excursion ∧
    7 ∈ ({ base with lamp := { base.lamp with hot := [7], excursion := [7] } }).lamp.hot ∧
    ({ base with now := 10 ^ 9 }).passed (Tbl.getD base.lamp.warm 7 0) 1000000000 = true ∧ ({ base with now := 10 ^ 9 }).passed base.lamp.heavy 1000000000 = true ∧
    ({ base with now := 10 ^ 9 - 1 }).passed (Tbl.getD base.lamp.warm 7 0) 1000000000 = false := by
  refine ⟨.inl (by decide), .inr (.inl (by decide)), .inr (.inl (by decide)), .inr (.inr (by decide)), ?_, by decide, by decide, by decide, by decide,
    by decide, by decide, by decide, by decide⟩
  simp [State.samples]

/-- The clock of die 7 relocks. -/
theorem witness_MonitorsAndHeat_relocks : (base.modDie 7 fun d => { d with relocking := true }).die 7 =
    { base.die 7 with relocking := true } ∧ 448 / 64 ≠ 0 / 64 ∧ 448 / 64 = 7 ∧ (512 : Nat) ≤ 512 := by decide

/-! Time. -/

/-- A request on plane 5 left when the oscillator counted 0. -/
def asking (T : TimeUnit) : State := { base with boot := .timing, time := { T with reqs := [(5, 0)] } }

theorem witness_PodTime_replies :
    (let s := asking { litTime with osc := 2000 }
     s.boot.timed = true ∧ Tbl.get? s.time.reqs 5 = some 0 ∧ s.time.osc - 0 ≤ 2000 ∧ s.time.refOk = true ∧
     max s.time.lo (1005 - 5) ≤ min s.time.hi (1005 + 2000 + 5) ∧ min s.time.hi (1005 + 2000 + 5) - max s.time.lo (1005 - 5) ≤ 2 * 0xFFFE) ∧
    (let s := asking { osc := 2000 }
     min s.time.hi (5 + 2000 + 64536) - max s.time.lo (5 - 64536) ≤ 2 * 0xFFFE) ∧
    (let s := asking { litTime with osc := 2001 }
     2000 < s.time.osc - 0 ∧ s.time.lo ≤ s.time.hi) ∧
    min (asking litTime).time.hi (0 + 0 + 5) < max (asking litTime).time.lo (0 - 5) ∧ Tbl.get? base.time.reqs 5 = none := by decide

theorem witness_PodTime_states :
    ((lit base).elapse 1000).time.tclk ≠ .dark ∧ (lit base).time.tclk = .healthy ∧ base.time.tclk = .dark ∧
    (let s := { base with time := { litTime with silent := 50000 } }
     s.timerLen 50000 ≤ s.time.silent) ∧
    (let s := { base with time := { litTime with hiA := 1512 } }
     255 < s.time.eps) ∧
    (lit base).time.silent < (lit base).timerLen 50000 ∧ (lit base).time.eps ≤ 255 ∧
    (let s := { base with time := { litTime with silent := 1000500, onBackup := true } }
     s.timerLen 1000000 ≤ s.time.silent) ∧
    (let s := { base with time := { litTime with silent := 1000499, onBackup := true } }
     s.time.silent < s.timerLen 1000000 ∧ s.time.refOk = true ∧ s.time.eps ≤ 0xFFFE ∧ s.time.backOk = true) ∧
    base.boot.powered = true ∧ ({ litTime with refOk := false }).refOk = false ∧ ({ litTime with backOk := false }).backOk = false := by decide

/-! Bridges, links, reductions. -/

def withLink (l : Nat) (x : Link) : State := { base with now := 10 ^ 6, pod := { base.pod with links := [(l, x)] } }

theorem witness_BridgesAndLinks :
    (base.die 0).fenced = false ∧ ((base.modDie 7 fun d => { d with fenced := true }).die 7).fenced = true ∧
    Tbl.getD ({ base with bridges := [(31, 15)] } : State).bridges 31 0 + 1 = 16 ∧ bridgeDie 31 = 7 ∧ (base.link 17).st = .training ∧
    (base.unit (0x200 + 2 * 17)).st ≠ .retired ∧
    (let s := (base.modUnit 0x222 fun x => { x with st := .retired }).modUnit 0x223 fun x => { x with st := .retired }
     (s.unit (0x200 + 2 * 17 + 0)).st = .retired ∧ (s.unit (0x200 + 2 * 17 + 1)).st = .retired) ∧
    (let s := withLink 17 { st := .up, unacked := [(4, 10 ^ 6 - 2000)] }
     (4, 10 ^ 6 - 2000) ∈ (s.link 17).unacked ∧ s.passed (10 ^ 6 - 2000) 2000 = true ∧ (s.link 17).st = .up) ∧
    (withLink 17 { st := .up, unacked := [(4, 10 ^ 6 - 1999)] }).passed (10 ^ 6 - 1999) 2000 = false ∧
    (let s := withLink 17 { st := .retrying true, retry := 7, since := 10 ^ 6 - 64000 }
     (s.link 17).st = .retrying true ∧ s.passed (s.link 17).since (min (2 ^ (s.link 17).retry) 64 * 1000) = true ∧ (s.link 17).retry < 8) ∧
    (let s := withLink 17 { st := .retrying true, retry := 8, since := 10 ^ 6 - 64000 }
     s.passed (s.link 17).since (min (2 ^ (s.link 17).retry) 64 * 1000) = true ∧ 8 ≤ (s.link 17).retry) ∧
    ((withLink 17 { st := .degraded }).link 17).st = .degraded ∧ (17 : Nat) / 3 = 16 / 3 ∧
    ((withLink 2 { st := .up }).link 2).st = .up ∧ 2 / 3 = (17 / 3 + 1) % 6 ∧ ((withLink 17 { st := .down }).link 17).st = .down ∧
    ((withLink 17 { st := .retrying false, recvSeq := 9 }).link 17).carries = true := by
  decide

/-- A window of modules 0 and 63, and a round of its first line. -/
def window (type : Nat) : Window := { base := 0x20000, pages := 1, members := 2 ^ 63 + 1, plane := 5, type := type, tenant := 1 }
def roundOf (whole : Bool) : Round :=
  { win := 1, line := 0x20000, round := 3, got := (0, List.replicate 64 1) :: (if whole then [(63, List.replicate 64 2)] else []), since := 1 }
def reducing (rs : List Round) : State := { base with now := 256000, pod := { base.pod with windows := [(1, window 0)], rounds := rs } }

theorem witness_Reductions :
    (reducing []).windowOf 63 0x20000 = some (1, window 0) ∧ (reducing []).windowOf 0 0x2FFC0 = some (1, window 0) ∧
    (reducing []).windowOf 63 0x30000 = none ∧ (reducing []).windowOf 62 0x20000 = none ∧ (window 0).members.testBit 63 = true ∧ (window 0).members.testBit 62 = false ∧
    ¬ 8388608 < (reducing []).switchBytes 5 + 64 ∧ (List.replicate 64 (2 : Byte)).length = 64 ∧
    (reducing []).pod.rounds.find? (fun r => r.win == 1 && r.line == 0x20000 && r.round == 3) = none ∧
    (let s := reducing [roundOf false]
     s.pod.rounds.find? (fun r => r.win == 1 && r.line == 0x20000 && r.round == 3) = some (roundOf false) ∧ Tbl.has (roundOf false).got 63 = false ∧
     (roundOf false).abandoned = false ∧ s.passed (roundOf false).since 256000 = false ∧ s.pod.waiting = [] ∧
     (({ s with now := 256001 } : State).pod.rounds.find? fun r => r.line == 0x20000 && r.round == 3 && !r.abandoned &&
       ({ s with now := 256001 } : State).passed r.since 256000) = some (roundOf false) ∧
     ({ s with now := 256001 }).passed (roundOf false).since 256000 = true ∧
     (∀ m, m < 64 → (window 0).members.testBit m = true → m = 63 ∨ Tbl.has (roundOf false).got m = true) ∧
     ¬ (∀ m, m < 64 → (window 0).members.testBit m = true → m = 62 ∨ Tbl.has (roundOf false).got m = true)) ∧
    (let s := reducing [{ roundOf false with abandoned := true }]
     s.pod.rounds.find? (fun r => r.win == 1 && r.line == 0x20000 && r.round == 3) = some { roundOf false with abandoned := true }) ∧
    (let s := reducing [roundOf true]
     inClass 0x20000 = true ∧ s.frozenAt 0x20000 = false ∧
     (reducedLine (window 0) (roundOf true)).length = 64 ∧ (reducedLine (window 0) (roundOf true)).head? = some 3) ∧
    (List.range 64).filter (fun m => (window 2).members.testBit m) = 0 :: [63] ∧ (base.ctx 0).st = .live ∧ (base.ctx 1).st = .free ∧
    0 = base.mod ∧ ({ reducing [] with mod := 1 }).mod = 1 ∧ (window 0).members.testBit 1 = false := by decide

/-- A round of another line holds these contributions. -/
def stuffed (got : Tbl (List Byte)) : State := reducing [{ win := 1, line := 0x20040, round := 3, got := got, since := 1 }]

theorem switchBytes_stuffed (got : Tbl (List Byte)) : (stuffed got).switchBytes 5 = 64 * got.length := by
  have h : Tbl.get? (stuffed got).pod.windows 1 = some (window 0) := rfl
  simp only [State.switchBytes, show (stuffed got).pod.rounds = [{ win := 1, line := 0x20040, round := 3, got := got, since := 1 }] from rfl,
    List.filter_cons, h]
  simp [window]

theorem witness_Reductions_full : 8388608 < (stuffed (List.replicate 131072 (0, []))).switchBytes 5 + 64 := by
  rw [switchBytes_stuffed, List.length_replicate]
  norm_num

theorem witness_Reductions_combined :
    let s := { reducing [] with pod := { base.pod with formed := [(5, 0, 0x20000, List.replicate 64 3, true), (5, 1, 0x20040, List.replicate 64 4, false)] } }
    s.canonical ∧ s.dxOk (homeOf 0x20000) = true ∧ (s.flow (planeFlow 5)).expect = 0 ∧
    s.pod.formed = (5, 0, 0x20000, List.replicate 64 3, true) :: [(5, 1, 0x20040, List.replicate 64 4, false)] :=
  ⟨canonical_of rfl rfl, by decide, by decide, rfl⟩


/-! The host. -/

/-- The image stands in memory, queue 255 is context 0's with `n` commands, and key 15 has been used up to counter 6. -/
def hosted (n : Nat) : State :=
  let s := withImage base
  { s with disp := { s.disp with queues := [(255, { queueOf n with last := none })] }
           host := { s.host with keys := [(15, [1, 2]), (3, [4])], lastCtr := [([1, 2], 6)] } }

theorem witness_HostCommands_accepts (body : List Byte) (hb : body.length ≤ 8128) (key : Nat) (hk : key = 3 ∨ key = 15) :
    Accepts (hosted 0) 0 (2 ^ 64 - 1) key 7 body ∧ ∀ r, r ∈ (hosted 0).host.recent → r.key = key → r.tag ≠ 2 ^ 64 - 1 := by
  obtain rfl | rfl := hk <;>
    exact ⟨⟨by decide, by decide, by decide, by decide, by decide, by decide, by decide, hb⟩, fun r m => absurd m List.not_mem_nil⟩

/-- A message of no installed key. -/
def stray : List Byte := hostHead 1 1 9 14 7 0 ++ List.replicate 32 0

theorem witness_HostCommands_dropped : parseHost [] = none ∧ ∃ m, parseHost stray = some m ∧ (hosted 0).authentic stray m = false :=
  ⟨by decide, _, rfl, by decide⟩

def answered (sent : Bool) : State :=
  let s := hosted 0
  { s with host := { s.host with recent := [⟨0, 15, 9, 1, 1, 0, 5, sent⟩] } }

theorem witness_HostCommands_generation : Tbl.get? (hosted 0).flash.genSent 255 = none ∧
    (let s := { hosted 0 with flash := { base.flash with gLast := [(255, (2 ^ 32 - 1, 5, 77))], genSent := [(255, 9)] } }
     ((Tbl.get? s.flash.gLast 255).map Prod.fst).getD 0 < 2 ^ 32 ∧ Tbl.get? s.flash.genSent 255 = some 9) ∧ ¬ (1 ≤ 255 ∧ 255 ≤ 10) ∧
    ¬ (1 ≤ 0 ∧ 0 ≤ 10) := by decide

theorem witness_HostCommands_states : ({ hosted 0 with boot := .starting }).boot.isReady = false ∧ (hosted 0).boot = .ready ∧
    0 < (hosted 0).host.seq ∧ (∀ b, b ∈ [true, false] →
      (answered b).host.recent.find? (fun r => r.key == 15 && r.tag == 9) = some ⟨0, 15, 9, 1, 1, 0, 5, b⟩) := by decide

/-- The queue is bound to a context that does not end. -/
def Bound (s : State) (q c : Nat) : Prop := q < 256 ∧ (s.queue q).ctx = some c ∧ (s.ctx c).st ≠ .ending

theorem hosted_reads (n : Nat) : (hosted n).readLaunch 0 (packetBytes packet) = some (packet, image) :=
  (launch_alike (s := withImage base) (by rfl) (by rfl) (by rfl) (by rfl) _ _).trans reads_launch

theorem witness_HostCommands_launch : (packetBytes packet).length = 64 ∧ Bound (hosted 1023) 255 0 ∧ 256 ≤ (65535 : Nat) ∧
    (base.queue 255).ctx = none ∧ (hosted 0).readLaunch 0 (packetBytes { packet with gang := 5 }) = none ∧
    (hosted 1023).readLaunch 0 (packetBytes packet) = some (packet, image) ∧ (hosted 1024).readLaunch 0 (packetBytes packet) = some (packet, image) ∧
    (hosted 1023).queueLen 255 < 1024 ∧ 1024 ≤ (hosted 1024).queueLen 255 ∧ ((hosted 1023).queue 255).last = none ∧ packet.hasProducer = false ∧
    0 < 0 * 2 ^ 56 + 255 * 2 ^ 48 + (((hosted 1023).queue 255).count + 1) :=
  ⟨by decide, ⟨by decide, by decide, by decide⟩, by decide, by decide, by decide, hosted_reads _, hosted_reads _, by decide, by decide, by decide,
    by decide, by decide⟩

theorem witness_HostCommands_podLaunch : (2 ^ 64 - 1 : Nat) < 2 ^ 64 ∧ (2 ^ 64 - 1 : Nat).testBit (hosted 0).mod = true ∧
    bit (fieldAt (packetBytes packet) 14 1) 2 = false ∧ parsePacket (packetBytes packet) = some packet := by decide

/-- An unfinished install on the queue, or a kernel of the old image that has groups to place. -/
def installing (busy : Bool) : State :=
  let s := hosted 0
  { s with disp := { s.disp with
      installs := if busy then [{ id := 4, queue := 255, ctx := 0, old := packet.code, img := image, jseq := 0 }] else []
      kernels := Tbl.set s.disp.kernels 7 { queue := 255, pkt := packet, img := image } } }

theorem witness_HostCommands_install : (installing false).readImage 0 packet.code = some image ∧ Bound (installing false) 255 0 ∧
    (∃ y, y ∈ (installing true).disp.installs ∧ y.queue = 255 ∧ y.complete = false) ∧ (installing false).disp.installs = [] ∧
    ∃ K, Tbl.get? (installing false).disp.kernels 7 = some K ∧ K.queue = 255 ∧ K.pkt.code = packet.code ∧ K.unplaced = true ∧ K.st.isFinal = false :=
  ⟨(image_alike (s := withImage base) (by rfl) (by rfl) (by rfl) (by rfl) _ _).trans reads_image, ⟨by decide, by decide, by decide⟩,
    ⟨_, List.mem_singleton.mpr rfl, rfl, rfl⟩, rfl, _, rfl, rfl, rfl, by decide, rfl⟩

/-- A pod launch without this module; a queue that is bound to none, or to a context that ends. -/
theorem witness_HostCommands_refusals : (2 : Nat).testBit (hosted 0).mod = false ∧ (base.queue 255).ctx = none ∧
    (let s := (hosted 0).modCtx 0 fun c => { c with st := .ending }
     (s.queue 255).ctx = some 0 ∧ (s.ctx 0).st = .ending) ∧ Bound (hosted 1024) 255 0 ∧ 1024 ≤ (hosted 1024).queueLen 255 :=
  ⟨by decide, by decide, by decide, ⟨by decide, by decide, by decide⟩, by decide⟩

/-- Two images that differ in their registers. -/
def imageCells (b : Nat) (regs : Byte) : Mem :=
  [(b, 0x4E), (b + 1, 0x41), (b + 2, 0x58), (b + 3, 0x37), (b + 4, 1), (b + 6, 1), (b + 0xA, 1), (b + 0x10, 16), (b + 0x19, 4), (b + 0x20, 0x80),
   (b + 0x2A, 2), (b + 0x80, 0x80), (b + 0x90, regs), (b + 0x91, 1), (b + 0x400, 1)]
def twoImages : State :=
  let s := withMem (mapped base) (tables ++ imageCells 0x40000 16 ++ imageCells 0x60000 24)
  { s with disp := { s.disp with queues := [(255, queueOf 0)] } }

theorem witness_HostCommands_unequal : Bound twoImages 255 0 ∧ twoImages.disp.installs = [] ∧ twoImages.readImage 0 0x30000 = none ∧
    twoImages.readImage 0 0x40080 = some image ∧ twoImages.readImage 0 0x60080 = some { image with base := 0x60000, regs := 24 } ∧
    (24 : Nat) ≠ image.regs :=
  ⟨⟨by decide, by decide, by decide⟩, rfl, by decide +kernel, by decide +kernel, by decide +kernel, by decide⟩

theorem witness_HostCommands_contexts :
    (descriptor 1).length = 64 ∧ (∀ k, k < 64 → ((describing [] false).ctx k).st ≠ .free) ∧ ((describing [] true).ctx 63).st = .free ∧
    (∀ k, k < 63 → ((describing [] true).ctx k).st ≠ .free) ∧ (describing [] true).parseCtx (descriptor 0) = none ∧
    ((describing [] true).parseCtx (descriptor 1)).isSome = true ∧
    (∀ st, st ∈ [CtxSt.free, .live, .suspended] → ((second st).ctx 63).st = st ∧ ((second st).ctx 63).jsusp = [] ∧
      (second st).disp.installs = [] ∧ (∀ e, e ∈ (second st).ctxs → (second st).host.seq ∉ e.2.jsusp) ∧
      ∀ e, e ∈ (second st).groups → e.2.place = .placed → ((second st).kernel e.2.kernel).ctx ≠ 63) ∧
    (∃ e, e ∈ base.groups ∧ e.2.place = .placed ∧ (base.kernel e.2.kernel).ctx = 0) := by
  refine ⟨by decide, by decide, by decide, by decide, by decide, by decide, by decide, ⟨_, List.mem_singleton.mpr rfl, rfl, rfl⟩⟩

def haltedGroup : State := base.modG fun G => { G with halted := true, place := .saved }

theorem witness_HostCommands_queues : 7 < 255 ∧ Bound (hosted 0) 255 0 ∧
    (∃ G, haltedGroup.groups.find? (fun e => e.2.kernel == 0 && e.2.lin == 0 && e.2.halted && !e.2.isEnded) = some (0, G) ∧
      Tbl.get? haltedGroup.groups 0 = some G) ∧
    base.groups.find? (fun e => e.2.kernel == 0 && e.2.lin == 0 && e.2.halted && !e.2.isEnded) = none :=
  ⟨by decide, ⟨by decide, by decide, by decide⟩, ⟨_, rfl, rfl⟩, by decide⟩

/-! Management. -/

theorem witness_ManagementRequests_requests : IsRequest 0 0x40 2 (.releaseSnapshot 0) ∧
    IsRequest 1 0x4A 0 (fun dg => .orderlyShutdown (.request 1 dg)) :=
  ⟨.inl ⟨rfl, rfl, rfl⟩, .inr (.inr (.inr (.inr (.inr (.inr (.inr (.inr (.inr (.inr ⟨rfl, rfl, rfl⟩)))))))))⟩

theorem witness_ManagementRequests_unlisted : 255 < 256 ∧ 0x4A < 255 ∧ 0 < 0x40 ∧ IsRequest 0 0x40 2 (.releaseSnapshot 0) :=
  ⟨by decide, by decide, by decide, .inl ⟨rfl, rfl, rfl⟩⟩

theorem witness_ManagementRequests_snapshots :
    (let s := (snapping false false).modCtx 0 fun c => { c with snaps := [(3, { snapOf false false with complete := true })] }
     Tbl.get? (s.ctx 0).snaps 3 = some { snapOf false false with complete := true }) ∧
    (snapOf false false).complete = false ∧ Tbl.get? (base.ctx 0).snaps 3 = none := by decide

theorem witness_ManagementRequests_windows :
    (let w := window 2
     w.base % 65536 = 0 ∧ w.base + w.pages * 65536 ≤ 2 ^ 40 ∧ 0 < w.pages ∧ w.pages ≤ 256 ∧ w.plane < 6 ∧ w.type < 3 ∧ 0 < w.tenant ∧
     w.tenant < 2 ^ 16 ∧ w.members < 2 ^ 64 ∧ 2 ≤ w.ranks.length) ∧
    Tbl.get? (reducing []).pod.windows 15 = none ∧ (Tbl.get? (reducing []).pod.windows 1).isSome = true ∧ base.pod.windows = [] ∧
    (window 2).base < (window 0).base + (window 0).pages * 65536 ∧ (window 0).base < (window 2).base + (window 2).pages * 65536 ∧
    (window 2).members.testBit 63 = true ∧ (window 0).members.testBit 63 = true := by decide

theorem witness_ManagementRequests_monitors :
    0 < monitorCount ∧ (let s := { base with lamp := { base.lamp with monitors := [(0, { lo := some 4, hi := 9 })] } }
      Tbl.getD s.lamp.monitors 0 {} = { lo := some 4, hi := 9 }) :=
  ⟨by unfold monitorCount; omega, rfl⟩

theorem witness_ManagementRequests_units : (∀ u, u ∈ [0, 511, 0x200, 0x223, 0x400, 0x5FF] → (leaseClass u).isSome = true ∧
      (base.unit u).st = .inService ∧ ((withUnit u { st := .retired }).unit u).st = .retired) ∧
    (∀ u, u ∈ [0, 511, 0x200, 0x223, 0x400, 0x5FF] → (withUnit u { st := .retired }).leaseRoom u = true ∧
      (leaseClass u = some 2 → (withUnit u { st := .retired }).spareTaken u = false)) ∧
    (let s := { base with lamp := { base.lamp with units := [(0, { st := .retired }), (1, { st := .testing })] } }
     (s.unit 0).st = .retired ∧ s.leaseRoom 0 = false) ∧
    (let s := { base with lamp := { base.lamp with units := [(0x400, { st := .retired }), (0x41F, { onSpare := true })] } }
     (s.unit 0x400).st = .retired ∧ leaseClass 0x41F = some 2 ∧ 0x41F / 32 = 0x400 / 32 ∧ (s.unit 0x41F).onSpare = true) ∧
    (∀ i, i < 64 → (2 ^ 48 - 1 : Nat).testBit i = true → isUnit i = true ∧ isReserved i = false) ∧ isReserved 239 = true ∧ (∃ e, e ∈ (mapped base).ctxs ∧ e.2.st = .live ∧ e.2.tenant = 1) ∧
    base.boot.powered = true ∧ 920 < 921 ∧
    (let s := { base with time := { litTime with refOk := false, backOk := false } }
     s.time.refOk = false ∧ s.time.backOk = false) := by
  refine ⟨by decide, by decide, by decide, by decide, by decide, by decide, ⟨_, List.mem_singleton.mpr rfl, rfl, rfl⟩, by decide, by decide, by decide⟩

theorem witness_ManagementRequests_status : ({ base with boot := .halted 255 }).boot = .halted 255 ∧ (255 : Nat) < 256 ∧ base.boot = .ready ∧
    ({ base with boot := .halted 255 }).boot.powered = true := by decide

/-- The ring holds the entry of sequence number 9; the persistent copy holds `js`. -/
def ninth : JEntry := { seq := 9, lo := 0, queue := 255, ctx := 0, kind := 1, st := 0 }
def journalled (js : List JEntry) (sent : Bool) : State :=
  { base with
    flash := { base.flash with journal := js }
    host := { base.host with ring := [(8, ninth)], seq := 10, recent := [⟨0, 15, 9, 1, 9, 0, 5, sent⟩] } }

theorem witness_JournalAndPorts : base.entry 9 = none ∧ (journalled [] false).entry 9 = some ninth ∧
    (journalled [] false).flash.journal.length < 4096 ∧ (∃ y, y ∈ (journalled [ninth] false).flash.journal ∧ y.seq = 9) ∧
    (∀ y, y ∈ (journalled [] true).host.recent → y.seq = 9 → y.sent = true) ∧
    (journalled [] false).host.recent.find? (fun y => y.seq == 9 && !y.sent) = some ⟨0, 15, 9, 1, 9, 0, 5, false⟩ ∧
    (∀ y, y ∈ (journalled [] false).host.ring → 9 ≤ y.2.seq ∧ y.2.seq ≤ 9) ∧ (∃ y, y ∈ (journalled [] false).host.ring ∧ y.2.seq = 9) := by
  refine ⟨by decide, by decide, by decide, ⟨ninth, by decide, rfl⟩, by decide, by decide, by decide, ⟨_, List.mem_singleton.mpr rfl, rfl⟩⟩

/-- 4,096 entries in ascending order, the first with sequence number `k`, none of them the ninth. -/
def fullCopy (k : Nat) : List JEntry := (List.range 4096).map fun i => { ninth with seq := if k + i < 9 then k + i else k + i + 1 }

theorem witness_JournalAndPorts_full (k : Nat) (h : k = 1 ∨ k = 9) :
    (fullCopy k).length = 4096 ∧ (fullCopy k).Pairwise (fun x y => x.seq < y.seq) ∧ (∀ y, y ∈ fullCopy k → y.seq ≠ 9) ∧
    (k = 9 → ∀ y, y ∈ fullCopy k → 9 < y.seq) ∧ (k = 1 → ∃ y, y ∈ fullCopy k ∧ y.seq < 9) := by
  refine ⟨by simp [fullCopy], ?_, fun y m => ?_, fun e y m => ?_, fun e => ?_⟩
  · exact List.pairwise_map.mpr (List.pairwise_lt_range.imp fun a => by dsimp only; split <;> split <;> omega)
  · obtain ⟨i, -, rfl⟩ := List.mem_map.mp m
    dsimp only
    split <;> omega
  · obtain ⟨i, -, rfl⟩ := List.mem_map.mp m
    dsimp only
    split <;> omega
  · exact ⟨_, List.mem_map.mpr ⟨0, List.mem_range.mpr (by norm_num), rfl⟩, by subst e; decide⟩

/-! Pod launches. -/

def podMsg (kind gen : Nat) : PodMsg := ⟨gen, 5, 255, 1, 2 ^ 63 + 2 ^ 5 + 1, packetBytes packet, 0, kind⟩

theorem witness_PodLaunches_fits : (∀ k, k ∈ [1, 4, 5] → PodFits (podMsg k (2 ^ 32 - 1))) ∧ (podMsg 1 9).time = 0 ∧
    (podMsg 1 9).members.testBit (hosted 0).mod = true := by
  unfold PodFits
  decide

/-- Flash holds the last generation of the queue. -/
def lastGen (g : Nat) : State := { hosted 0 with flash := { base.flash with gLast := [(255, (g, 5, 77))] } }

theorem beacon_of {s : State} {m : PodMsg} {c : Nat} {p : Packet} {i : Image} (hq : (s.queue m.queue).ctx = some c)
    (hc : ¬ ((s.ctx c).tenant ≠ m.tenant ∨ (s.ctx c).st = .ending ∨ 1024 ≤ s.queueLen m.queue)) (hr : s.readLaunch c m.packet = some (p, i)) :
    s.checkBeacon m = some (c, p, i) := by
  simp only [State.checkBeacon, hq, if_neg hc, hr, Option.map]

theorem witness_PodLaunches_beacons : Tbl.get? (hosted 0).flash.gLast 255 = none ∧ (hosted 0).checkBeacon (podMsg 1 9) = some (0, packet, image) ∧
    (hosted 1024).checkBeacon (podMsg 1 9) = none ∧ (podMsg 1 9).origin ≠ (hosted 0).mod ∧ ((hosted 0).queue 255).last = none ∧
    Tbl.get? (lastGen 9).flash.gLast 255 = some (9, 5, 77) ∧ (podMsg 1 9).gen = 9 ∧ (podMsg 1 9).origin = 5 ∧
    1 ≤ ((podMsg 1 (2 ^ 31 - 1)).gen + 2 ^ 32 - 0) % 2 ^ 32 ∧ ((podMsg 1 (2 ^ 31 - 1)).gen + 2 ^ 32 - 0) % 2 ^ 32 < 2 ^ 31 ∧
    ¬ (((podMsg 1 8).gen + 2 ^ 32 - 9) % 2 ^ 32 < 2 ^ 31) ∧ (podMsg 1 8).gen ≠ 9 ∧
    (let o : PodOrigin := { queue := 255, gen := 9, members := 2 ^ 63 + 1, acks := [], since := 0, jseq := 9 }
     let s := { hosted 0 with disp := { (hosted 0).disp with origins := [o] } }
     s.disp.origins.find? (fun o => o.queue == 255 && o.gen == 9) = some o ∧ { podMsg 1 9 with origin := 0 }.origin = s.mod) := by
  refine ⟨by decide, ?_, by decide, by decide, by decide, by decide, by decide, by decide, by decide, by decide, by decide, by decide, by decide⟩
  refine beacon_of (by decide) (by decide) ?_
  rw [show (podMsg 1 9).packet = packetBytes packet from rfl]
  exact hosted_reads 0

/-- Kernel 7 is armed by module 5's beacon. -/
def start (T : Option Nat) (attested : Bool) : PodStart := { gen := 9, origin := 5, members := 0, ackAt := 0, startT := T, attested := attested }
def armed (T : Option Nat) (attested : Bool) (now : Nat) : State :=
  let s := hosted 0
  { s with now := now, disp := { s.disp with
      kernels := Tbl.set s.disp.kernels 7 { queue := 255, gen := 9, st := .armed, pod := some (start T attested) } } }

theorem witness_PodLaunches_member : (armed none false 0).armedFor (podMsg 4 9) = some 7 ∧ ((armed none false 0).kernel 7).st = .armed ∧
    ((armed none false 0).kernel 7).pod = some (start none false) ∧ (start none false).startT = none ∧ (start (some 4) false).startT = some 4 ∧
    (armed none false 1000000).passed (start none false).ackAt 1000000 = true ∧
    (armed none false 999999).passed (start none false).ackAt 1000000 = false ∧
    (armed (some 4) false 1000000).time.tclk = .dark ∧ (start (some 4) false).attested = false ∧ (start (some 4) true).attested = true ∧
    (armed (some 4) false 1000000).passed (start (some 4) false).startAt 1000000 = true ∧ (lit (armed (some 999) false 0)).time.tclk ≠ .dark ∧
    999 < (lit (armed (some 999) false 0)).time.lo ∧ (lit (armed (some 1000) false 0)).time.lo ≤ 1000 ∧
    ((armed none false 0).queue 255).cmds.Pairwise (· < ·) ∧ 7 ∉ ((armed none false 0).queue 255).cmds := by decide

/-- This module launched on queue 255, and module 0 has acknowledged. -/
def origin (acks : List (Nat × Nat)) : PodOrigin := { queue := 255, gen := 9, members := 2 ^ 63 + 1, acks := acks, since := 0, jseq := 9 }
def launched (acks : List (Nat × Nat)) (now : Nat) : State :=
  let s := journalled [] true
  { s with now := now, disp := { s.disp with origins := [origin acks] } }
def ackMsg (kind : Nat) : PodMsg := ⟨9, 0, 255, 1, 2 ^ 63 + 1, packetBytes packet, 80, kind⟩

theorem witness_PodLaunches_origin : (launched [(0, 77)] 0).disp.origins.find? (fun o => o.queue == 255 && o.gen == 9) = some (origin [(0, 77)]) ∧
    (ackMsg 2).origin = (launched [] 0).mod ∧ (ackMsg 2).members.testBit 63 = true ∧ PodFits (ackMsg 2) ∧ PodFits (ackMsg 3) ∧
    (∀ j, j < 64 → (origin [(0, 77)]).members.testBit j = true → j ≠ 63 → Tbl.has (origin [(0, 77)]).acks j = true) ∧
    (∀ e, e ∈ (origin [(0, 77)]).acks → e.2 ≤ (ackMsg 2).time) ∧ (ackMsg 2).time + 2000 < 2 ^ 64 ∧
    (∃ j, j < 64 ∧ (origin []).members.testBit j = true ∧ j ≠ 63 ∧ Tbl.has (origin []).acks j = false) ∧
    Tbl.get? (launched [] 0).host.ring (((origin []).jseq - 1) % 32768) = some ninth ∧ ninth.seq = (origin []).jseq ∧ ninth.st < 2 ∧
    (launched [] 200000).disp.origins.find? (fun o => o.queue == 255 && (launched [] 200000).passed o.since 200000) = some (origin []) ∧
    (launched [] 199999).disp.origins.find? (fun o => o.queue == 255 && (launched [] 199999).passed o.since 200000) = none := by
  refine ⟨by decide, by decide, by decide, ?_, ?_, by decide, by decide, by decide, ⟨0, by decide, by decide, by decide, by decide⟩, by decide,
    by decide, by decide, by decide, by decide⟩ <;>
  · unfold PodFits
    decide

/-! Boot. -/

def booting (b : BootSt) : State :=
  { State.reset with
    boot := b
    flash := { State.reset.flash with
      versions := [(1, 7)], leaves := [3], journal := [ninth]
      snuffs := [⟨0, 5, 0, 1, 0, false, 0, 0, 0⟩, ⟨0, 5, 0, 1, 0, true, 0, 0, 0⟩, ⟨0, 6, 0, 1, 0, false, 0, 0, 0⟩] } }

theorem witness_Boots : State.reset.boot = .off ∧ (booting .ready).boot ≠ .off ∧ 6 < Tbl.getD (booting .off).flash.versions 1 0 ∧
    3 ∈ (booting .off).flash.leaves ∧ (∀ b, b ∈ [BootSt.verifying, .starting, .ready, .off, .training, .timing] → (booting b).boot = b) ∧
    (leaseClass 0x200 = some 1 ∧ leaseClass 0x5FF = some 2) ∧ ((booting .training).unit 0x5FF).st = .inService ∧ (17, 191) ∈ [((17 : Nat), (191 : Nat))] ∧
    ((booting .training).link 17).st = .training ∧
    (booting .starting).flash.snuffs = [⟨0, 5, 0, 1, 0, false, 0, 0, 0⟩] ++ ⟨0, 5, 0, 1, 0, true, 0, 0, 0⟩ :: [⟨0, 6, 0, 1, 0, false, 0, 0, 0⟩] ∧
    (∀ r, r ∈ (booting .starting).flash.snuffs → r.unit ≠ 7) ∧ (booting .starting).groups = [] ∧ (booting .starting).cores = [] ∧
    (booting .starting).disp = {} := by decide


/-! Steps. -/

/-- What a fetch at the place of the first instruction finds. -/
theorem code_at {s : State} {a : DWord} {w : Word} {pa : Nat} {l : Leaf} (h : s.xlate (unitDie s.cu) s.cctx a.toNat .fetch = .ok pa l)
    (hb : s.bridgeOk s.cu (homeOf pa) = true) (hp : s.poisonedAt pa 4 = false) (hw : w = BitVec.ofNat 32 (leNat (s.bytesAt pa 4))) : CodeAt s a [w] := by
  intro k x hx
  cases k with
  | zero =>
    cases hx
    exact ⟨pa, l, by simpa using h, hb, hp, hw⟩
  | succ k => exact absurd hx (by simp)

/-- SMUL s4, s5, s6 is placed (manual, 03_encoding.md). -/
def multiplying : State := State.reset.place 32 0x04420A30

theorem witness_StepsRunTheDecodedInstruction_agenda : multiplying.agenda = (0, .issue 0) :: [] ∧
    ∃ t, exec (.issue 0) { ({ multiplying with agenda := [] } : State).elapse 0 with latch := none } = .next t ∧
      t.latch = some (.smul 4 5 6) := ⟨rfl, _, rfl, by decide⟩

theorem witness_StepsRunTheDecodedInstruction_halted : ({ State.reset with boot := .halted 2 }).boot = .halted 2 ∧
    ({ State.reset with boot := .halted 2 }).agenda = [] ∧ ∀ r, r ∈ ({ State.reset with boot := .halted 2 }).host.recent → r.sent = true := by
  decide

/-- A command on port 1, and one on port 0 at the same instant behind another event. -/
theorem witness_StepsRunTheDecodedInstruction_ports :
    let mid : List (Nat × Instr) := [(0, .issue 0)]
    commandPort (.contextEnd 1 []) = some 1 ∧ commandPort (.contextEnd 0 []) = some 0 ∧ (1 : Fin 2) ≠ 0 ∧
    ∀ x, x ∈ mid → x.1 = 0 ∧ commandPort x.2 ≠ some 0 ∧ commandPort x.2 ≠ some 1 := by decide

theorem witness_StepsRunTheDecodedInstruction_issue :
    let s₀ : State := { ({ multiplying with agenda := [] } : State).elapse 0 with latch := none }
    let p₀ := (s₀.settleCore 0).pickAll 0
    let s₁ := (p₀.beginCycle 0).modCore 0 fun c => { c with pos := 2 * 0 + 1 }
    let s₂ := (s₁.modWave 0 0 fun W => { W with yielded := false }).modSplit 0 0 0 fun x => { x with claimed := true }
    isUnit 0 = true ∧ (p₀.core 0).pos = 2 * 0 ∧ s₁.choose0 0 0 = some (0, 0, 0) ∧
    ({ s₂.split 0 0 0 with wait := {}, block := .none }).entering = .no ∧
    CodeAt { s₂ with cur := ⟨0, 0, 0, 1, 0⟩ } (s₂.split 0 0 0).pc [0x04420A30] ∧ decode [0x04420A30] = .ok ⟨0, .smul 4 5 6⟩ ∧
    (∀ j, 0 < j → j < 1 → decode (([0x04420A30] : List Word).take j) = .error .truncated) ∧
    ∃ y i len stl port ls, s₂.peek 0 0 0 0 false = .run y i len stl port ls := by
  refine ⟨by decide, by decide, by decide, by decide, code_at (pa := 0x10004) (l := lowLeaf) (by decide) (by decide) (by decide) (by decide), by decide,
    fun j a b => absurd b (by omega), ⟨_, _, _, _, _, _, rfl⟩⟩

/-- One step multiplies: 7 times 2^63 + 3, low 64 bits. -/
theorem test_step_multiplies : ∃ t, step (withS (withS multiplying 5 7) 6 0x8000000000000003) = .next t ∧
    (t.wave 0 0).s.toList.getD 4 0 = 0x8000000000000015 := ⟨_, rfl, by decide⟩

/-- The split stands before a header, or inside a clause of one instruction. -/
def before (w : Word) : State := (State.reset.place 32 w.toNat).modSp fun p => { p with entering := .checked }
def inside (w : Word) : State := State.reset.place 32 w.toNat
def atSplit (m : State) : State := { m with cur := ⟨0, 0, 0, 1, 0⟩ }

theorem witness_ClausesAndChecks_headers :
    ∀ h, h ∈ [(0x03FFE000 : Word), 0x3FFFE000, 0x33FFE001, 0x33FFE000, 0x333FE000] →
      (atSplit (before h)).held 0 false = false ∧ ({ (atSplit (before h)).csp with wait := {}, block := .none }).entering = .checked ∧
      ∃ l, (atSplit (before h)).xlate (unitDie (atSplit (before h)).cu) (atSplit (before h)).cctx (atSplit (before h)).csp.pc.toNat .fetch =
        .ok 0x10004 l ∧ h = BitVec.ofNat 32 (leNat ((atSplit (before h)).bytesAt 0x10004 4)) := by
  intro h m
  simp only [List.mem_cons, List.not_mem_nil, or_false] at m
  obtain rfl | rfl | rfl | rfl | rfl := m <;> exact ⟨by decide, by decide, lowLeaf, by decide, by decide⟩

/-- Thresholds: 0 loads outstanding, with one under way. -/
theorem witness_ClausesAndChecks_waits : (0x333FE000 : Word).toNat / 2 ^ 22 % 8 = 4 ∧ (0x33FFE000 : Word).toNat / 2 ^ 28 = 3 ∧
    (0x33FFE000 : Word).toNat / 2 ^ 25 % 8 < 6 ∧ (0x33FFE000 : Word).toNat % 2 ^ 12 = 0 ∧
    (0x33FFE000 : Word).toNat / 2 ^ 22 % 8 = 7 ∧ 4 < ((before 0x333FE000).modW fun W => { W with vmc := 5 }).cw.vmc := by decide

/-- VADD.i32 v4, v2, v3 inside a clause of vector arithmetic. -/
def adding : State := inside 0x90010103

theorem witness_ClausesAndChecks_words :
    let s := atSplit adding
    s.held 0 false = false ∧ s.csp.entering = .no ∧ decode [0x90010103] = .ok ⟨2, .vaddI32 4 2 3⟩ ∧
    CodeAt s s.csp.pc [0x90010103] ∧ s.csp.ctx.idx + 1 ≤ s.csp.ctx.n ∧ classOf 0x10 0 = some s.csp.ctx.cls ∧
    (Instr.vaddI32 4 2 3).wf = true ∧ (s.uses (.vaddI32 4 2 3)).allocOk s.alloc = true ∧
    s.cw.pendingOn (s.uses (.vaddI32 4 2 3)) = false ∧ counterOf 0x10 0 = .none ∧ heldByFence 0x10 0 = false ∧
    s.lineFor (.vaddI32 4 2 3) = none ∧ s.issueWaits (.vaddI32 4 2 3) = false ∧ s.cw.readsEarly s.cyc (s.uses (.vaddI32 4 2 3)).everyLane = false ∧
    (s.cw.readsPoison ((s.uses (.vaddI32 4 2 3)).unmarked (.vaddI32 4 2 3)) || s.readsBadTable (.vaddI32 4 2 3) false) = false :=
  ⟨by decide, by decide, by decide, code_at (pa := 0x10004) (l := lowLeaf) (by decide) (by decide) (by decide) (by decide), by decide, by decide, by decide,
    by decide, by decide, by decide, by decide, by decide, by decide, by decide, by decide⟩

theorem witness_ClausesAndChecks_stops :
    (let s := (atSplit adding).modSp fun p => { p with ctx := { p.ctx with cls := 1 } }
     classOf 0x10 0 ≠ some s.csp.ctx.cls) ∧
    (let s := (atSplit adding).modW fun W => { W with vPoison := [(2, 31)] }
     s.cw.readsPoison ((s.uses (.vaddI32 4 2 3)).unmarked (.vaddI32 4 2 3)) = true) ∧
    (let s := (atSplit adding).modW fun W => { W with results := [{ id := 3, kind := .load 3, counter := .vmc, vregs := [3] }] }
     s.cw.pendingOn (s.uses (.vaddI32 4 2 3)) = true) ∧
    (let s := ((atSplit adding).modW fun W => { W with inflight := [⟨9, .v 3 31, 0, false⟩] }).modSp fun p => { p with ctx := { p.ctx with chk := true } }
     s.cw.readsEarly s.cyc (s.uses (.vaddI32 4 2 3)).everyLane = true ∧ s.csp.ctx.chk = true) ∧
    (let s := (atSplit adding).modW fun W => { W with vmc := 63, fences := [⟨3, true, true, [], []⟩] }
     counterOf 0x28 0 ≠ .none ∧ 63 ≤ s.cw.count (counterOf 0x28 0) ∧ heldByFence 0x28 0 = true ∧ s.cw.fences ≠ []) ∧
    decode [0x3F000000] = .error .unassigned := by
  refine ⟨by decide, by decide, by decide, by decide, by decide, by decide⟩

theorem witness_DecodeOfEncode : (Instr.vaddI32Vi 127 (.sreg 63) (.lit 0xFFFFFFFF)).wf = true ∧ encode 3 (.vaddI32Vi 127 (.sreg 63) (.lit 0xFFFFFFFF)) ≠ [] ∧
    (Instr.ldg 124 (.vreg 63 12 0xFFFFFFFF) 2).wf = true ∧ encode 3 (.ldg 124 (.vreg 63 12 0xFFFFFFFF) 2) ≠ [] := by decide

theorem witness_StepsKeepCanonicalForm : multiplying.canonical ∧ ∃ t, step multiplying = .next t :=
  ⟨⟨by decide, by decide⟩, _, rfl⟩

/-- Every list of words decodes to its instruction with its stall code, is well formed, and is what the encoder gives. -/
def readAs (l : List (List Word × Fin 4 × Instr)) : Bool :=
  l.all fun x => decide (decode x.1 = .ok ⟨x.2.1, x.2.2⟩) && x.2.2.wf && encode x.2.1 x.2.2 == x.1

/-- R108, R31 and 03_encoding.md: a word for each instruction, and the word the encoder gives back. -/
theorem test_decode_control : readAs [
  ([0x00000000], 0, .nop),
  ([0x40207FF0], 1, (.bra (.near 0x7FF0))),
  ([0x80450004], 2, (.brc 10 (.near 0x4))),
  ([0xC0628005, 0xFFFFFFF0], 3, (.bdiv 5 5 0xFFFFFFF0)),
  ([0x00800000], 0, .join),
  ([0x40A80009], 1, (.brk 16 (.near 0x9))),
  ([0x80C34000, 0xFFFF8000], 2, (.call 6 (.far 0xFFFF8000))),
  ([0xC0E50000], 3, (.ret 10)),
  ([0x01000000], 0, .yield),
  ([0x41200ABC], 1, (.yieldR 2748)),
  ([0x81400000], 2, .exit),
  ([0xC1600000], 3, .region),
  ([0x018001DD], 0, (.waitc 0 7 3 5)),
  ([0x41A00020, 0x000010E5], 1, (.setfmt 0x10E5)),
  ([0x81A01400], 2, (.setfmtScalar 10)),
  ([0xC1C30000], 3, (.getfmt 6)),
  ([0x01E28000], 0, (.mrst 5))] = true := by decide +kernel

/-- R113 and 03_encoding.md: a word for each instruction, and the word the encoder gives back. -/
theorem test_decode_masks : readAs [
  ([0x42018A30], 1, (.mand 3 5 6)),
  ([0x82018A31], 2, (.mor 3 5 6)),
  ([0xC2018A32], 3, (.mxor 3 5 6)),
  ([0x02018A03], 0, (.mnot 3 5)),
  ([0x42238000], 1, (.msav 7)),
  ([0x82430A00], 2, (.mpopc 6 5)),
  ([0xC2630A00], 3, (.voteAny 6 5)),
  ([0x02630A01], 0, (.voteAll 6 5)),
  ([0x42630A02], 1, (.voteBallot 6 5))] = true := by decide +kernel

/-- R131, R132, R28 and 03_encoding.md: a word for each instruction, and the word the encoder gives back. -/
theorem test_decode_scalars : readAs [
  ([0x84031420], 2, (.sadd 6 10 4)),
  ([0xC4231420], 3, (.ssub 6 10 4)),
  ([0x04431420], 0, (.smul 6 10 4)),
  ([0x44631420], 1, (.smulhI64 6 10 4)),
  ([0x84631421], 2, (.smulhN64 6 10 4)),
  ([0xC4831420], 3, (.sand 6 10 4)),
  ([0x04A31420], 0, (.sor 6 10 4)),
  ([0x44C31420], 1, (.sxor 6 10 4)),
  ([0x84E31427], 2, (.scmp 6 10 4 7)),
  ([0xC5031420], 3, (.sshl 6 10 4)),
  ([0x05231420], 0, (.sshr 6 10 4)),
  ([0x45431420], 1, (.ssra 6 10 4)),
  ([0x85631420], 2, (.ssel 6 10 4)),
  ([0xC5831400], 3, (.smov 6 10)),
  ([0x05A32400], 0, (.srd 6 18)),
  ([0x45C71400], 1, (.swr 14 10)),
  ([0x8603143F], 2, (.saddImm 6 10 (.small 63))),
  ([0xC6231420, 0x80000001], 3, (.sandImm 6 10 (.lit 0x80000001))),
  ([0x06431548], 0, (.scmpImm 6 10 5 (.small 8))),
  ([0x46630008], 1, (.smovImm 6 (.small 8))),
  ([0x86831408], 2, (.sshlImm 6 10 (.small 8))),
  ([0xC6A3141F], 3, (.sshrImm 6 10 (.small 31)))] = true := by decide +kernel

/-- R301, R302, R67 and 03_encoding.md: a word for each instruction, and the word the encoder gives back. -/
theorem test_decode_system : readAs [
  ([0x08031404], 0, (.caprd 6 10 4)),
  ([0x483F0000], 1, (.noteGet 62)),
  ([0x88430001], 2, (.noteCnt 6 1)),
  ([0xC9031400], 3, (.ctxNew 6 10)),
  ([0x09231401], 0, (.ctxSw 6 10 1)),
  ([0x49431400], 1, (.ctxEnd 6 10)),
  ([0x89650011], 2, (.exitK 10 17))] = true := by decide +kernel

/-- R134, R29 and 03_encoding.md: a word for each instruction, and the word the encoder gives back. -/
theorem test_decode_vector_integers : readAs [
  ([0xD0018504], 3, (.vaddI32 6 10 4)),
  ([0x10218504], 0, (.vsubI32 6 10 4)),
  ([0x50418504], 1, (.vmulI32 6 10 4)),
  ([0x90618504], 2, (.vmulhI32 6 10 4)),
  ([0xD0818504], 3, (.vmulhN32 6 10 4)),
  ([0x10A18504], 0, (.vmadI32 6 10 4)),
  ([0x50C18504], 1, (.vminI32 6 10 4)),
  ([0x90E18504], 2, (.vmaxI32 6 10 4)),
  ([0xD1018504], 3, (.vminN32 6 10 4)),
  ([0x11218504], 0, (.vmaxN32 6 10 4)),
  ([0x51418504], 1, (.vand 6 10 4)),
  ([0x91618504], 2, (.vor 6 10 4)),
  ([0xD1818504], 3, (.vxor 6 10 4)),
  ([0x11A18504], 0, (.vshl 6 10 4)),
  ([0x51C18504], 1, (.vshr 6 10 4)),
  ([0x91E18504], 2, (.vsra 6 10 4)),
  ([0xD201BEF1], 3, (.vaddI32Vi 6 (.short (.spec 9)) .lane)),
  ([0x1221992F], 0, (.vsubI32Vi 6 (.vreg 100) (.neg 15))),
  ([0x5241BC1F, 0x12345678], 1, (.vmulI32Vi 6 (.short (.lit 0x12345678)) (.imm 31))),
  ([0x9261AB70, 0x3F000000], 2, (.vandVi 6 (.sreg 45) (.lit 0x3F000000))),
  ([0xD281BEF1], 3, (.vorVi 6 (.short (.spec 9)) .lane)),
  ([0x12A1992F], 0, (.vxorVi 6 (.vreg 100) (.neg 15))),
  ([0x52C1BC1F, 0x12345678], 1, (.vshlVi 6 (.short (.lit 0x12345678)) (.imm 31))),
  ([0x92E1AB70, 0x3F000000], 2, (.vshrVi 6 (.sreg 45) (.lit 0x3F000000)))] = true := by decide +kernel

/-- R135-R137, R28 and 03_encoding.md: a word for each instruction, and the word the encoder gives back. -/
theorem test_decode_vector_forms : readAs [
  ([0xD301BEF1], 3, (.vsraVi 6 (.short (.spec 9)) .lane)),
  ([0x13218500], 0, (.vmovI32 6 10)),
  ([0x5341BC00, 0x12345678], 1, (.vmovI32Vi 6 (.short (.lit 0x12345678)))),
  ([0x9361A804], 2, (.vsel 6 5 4)),
  ([0xD3818504], 3, (.vbfe 6 10 4)),
  ([0x13A18504], 0, (.vbfi 6 10 4)),
  ([0x53D64504], 1, (.vcmp 5 9 10 4)),
  ([0x93F4EB70, 0x3F000000], 2, (.vcmpVi 5 3 (.sreg 45) (.lit 0x3F000000))),
  ([0xD4018504], 3, (.vaddI16x2 6 10 4)),
  ([0x14218504], 0, (.vsubI16x2 6 10 4)),
  ([0x54418504], 1, (.vaddI8x4 6 10 4)),
  ([0x94618504], 2, (.vsubI8x4 6 10 4))] = true := by decide +kernel

/-- R138-R141 and 03_encoding.md: a word for each instruction, and the word the encoder gives back. -/
theorem test_decode_vector_floats : readAs [
  ([0xD5018504], 3, (.vfadd 6 10 4)),
  ([0x15218504], 0, (.vfsub 6 10 4)),
  ([0x55418504], 1, (.vfmul 6 10 4)),
  ([0x95618504], 2, (.vfma 6 10 4)),
  ([0xD5818504], 3, (.vfmin 6 10 4)),
  ([0x15A18504], 0, (.vfmax 6 10 4)),
  ([0x55D6C504], 1, (.vfcmp 5 11 10 4)),
  ([0x95E1AB70, 0x3F000000], 2, (.vfaddVi 6 (.sreg 45) (.lit 0x3F000000))),
  ([0xD601BEF1], 3, (.vfmulVi 6 (.short (.spec 9)) .lane)),
  ([0x1634D92F], 0, (.vfcmpVi 5 3 (.vreg 100) (.neg 15))),
  ([0x56418544], 1, (.vcvt 6 10 8 4)),
  ([0x96618504], 2, (.vqnt 6 10 4)),
  ([0xD6818504], 3, (.vdqnt 6 10 4))] = true := by decide +kernel

/-- R142-R153 and 03_encoding.md: a word for each instruction, and the word the encoder gives back. -/
theorem test_decode_special_functions : readAs [
  ([0x17018500], 0, (.vexp2 6 10)),
  ([0x57018501], 1, (.vlog2 6 10)),
  ([0x97018502], 2, (.vrcp 6 10)),
  ([0xD7018503], 3, (.vrsq 6 10)),
  ([0x17018504], 0, (.vsin 6 10)),
  ([0x57018505], 1, (.vcos 6 10)),
  ([0x97018506], 2, (.vtanh 6 10)),
  ([0xD7218500], 3, (.vact 6 10)),
  ([0x17400401, 0x7FFFFFFC], 0, (.actld 4 0x7FFFFFFC 1)),
  ([0x57600000], 1, .actsw),
  ([0x979F0000], 2, (.rng 124)),
  ([0xD7A03C00], 3, (.rngskip 120)),
  ([0x17C00308], 0, (.rngset 6 8))] = true := by decide +kernel

/-- R148-R150 and 03_encoding.md: a word for each instruction, and the word the encoder gives back. -/
theorem test_decode_crossbar : readAs [
  ([0x58018504], 1, (.vshfl 6 10 4)),
  ([0x98218540], 2, (.vbcast 6 10 64)),
  ([0xD841850A], 3, (.vred 6 10 10)),
  ([0x18618507], 0, (.vscan 6 10 7)),
  ([0x5881851F], 1, (.vrot 6 10 31)),
  ([0x98A18005], 2, (.vbal 6 5)),
  ([0xD8C00799], 3, (.xsend 15 1 9)),
  ([0x18E0C00E], 0, (.xrecv 3 0 14))] = true := by decide +kernel

/-- R159, R32 and 03_encoding.md: a word for each instruction, and the word the encoder gives back. -/
theorem test_decode_memory : readAs [
  ([0x68032202, 0xFFFFFFF8], 1, (.ldg 12 (.base 34 0xFFFFFFF8) 2)),
  ([0xA82322EC, 0xFE000100], 2, (.stg 12 (.vreg 34 11 0xFE000100) 0)),
  ([0xE843226D], 3, (.ldsp 12 (.lane 34 11) 1)),
  ([0x286322AE, 0x00000040], 0, (.stsp 12 (.laneDisp 34 11 0x40) 2)),
  ([0x68832200, 0xFFFFFFF8], 1, (.ldk 12 (.base 34 0xFFFFFFF8) 0)),
  ([0xA8A00143], 2, (.fence 5 3)),
  ([0xE8C32269], 3, (.cas 12 (.lane 34) 2 2 1))] = true := by decide +kernel

/-- R162, R32 and 03_encoding.md: a word for each instruction, and the word the encoder gives back. -/
theorem test_decode_atomics : readAs [
  ([0x290322A9, 0x00000040], 0, (.atomAdd 12 (.laneDisp 34 0x40) 2 2 1)),
  ([0x69232229, 0xFFFFFFF8], 1, (.atomMin 12 (.base 34 0xFFFFFFF8) 2 2 1)),
  ([0xA94322E9, 0xFE000100], 2, (.atomMax 12 (.vreg 34 0xFE000100) 2 2 1)),
  ([0xE9632269], 3, (.atomAnd 12 (.lane 34) 2 2 1)),
  ([0x298322A9, 0x00000040], 0, (.atomOr 12 (.laneDisp 34 0x40) 2 2 1)),
  ([0x69A32229, 0xFFFFFFF8], 1, (.atomXor 12 (.base 34 0xFFFFFFF8) 2 2 1)),
  ([0xA9C322E9, 0xFE000100], 2, (.atomExch 12 (.vreg 34 0xFE000100) 2 2 1)),
  ([0xE9E32249], 3, (.atomFadd 12 (.lane 34) 2 1))] = true := by decide +kernel

/-- R164 and 03_encoding.md: a word for each instruction, and the word the encoder gives back. -/
theorem test_decode_copies : readAs [
  ([0x2A176147, 0x08000004], 0, (.cpy 11 5 33 17 3 0x8000004)),
  ([0x6A376147, 0x10020010], 1, (.cpyg 11 5 33 17 3 0x20010 1024)),
  ([0xAA576145, 0x10020010], 2, (.cpys 11 5 33 17 1 0x20010 1024)),
  ([0xEA631600], 3, (.fwait 6 11)),
  ([0x2A831600], 0, (.ftest 6 11)),
  ([0x6AA01600], 1, (.fcan 11))] = true := by decide +kernel

/-- R202-R215 and 03_encoding.md: a word for each instruction, and the word the encoder gives back. -/
theorem test_decode_matrix : readAs [
  ([0xB0006201, 0xFFFFFFF8], 2, (.mxlb 1 (.base 34 0xFFFFFFF8) 1)),
  ([0xF020A26D], 3, (.mxra 2 (.lane 34 11) 1)),
  ([0x30408624], 0, (.mxrv 2 12 9)),
  ([0x70608401, 0x00001234], 1, (.mxst 2 4 0x1234 1)),
  ([0xB0808401, 0x00001234], 2, (.mxld 2 4 0x1234 1)),
  ([0xF0A0A26D], 3, (.mxdrn 2 (.lane 34 11) 1)),
  ([0x30C0A2AD, 0x00000040], 0, (.mxdrnt 2 (.laneDisp 34 11 0x40) 1)),
  ([0x71016800], 1, (.mxmac 2 3 2)),
  ([0xB1216800], 2, (.mxmacs 2 3 2)),
  ([0xF1410802], 3, (.mxclr 2 2 2)),
  ([0x31610030], 0, (.mxchk 2 6)),
  ([0x71810053], 1, (.mxinj 2 10 3))] = true := by decide +kernel

/-- R230-R235 and 03_encoding.md: a word for each instruction, and the word the encoder gives back. -/
theorem test_decode_taper : readAs [
  ([0xB81A0050], 2, (.tapcfg 13 10)),
  ([0xF83A0062], 3, (.tapin 13 12 2)),
  ([0x385A0030], 0, (.tapq 13 6)),
  ([0x787A0000], 1, (.tapclr 13)),
  ([0xB8834401, 0x00001234], 2, (.tapsav 13 4 0x1234 1)),
  ([0xF8A34401, 0x00001234], 3, (.taprst 13 4 0x1234 1)),
  ([0x38DA0031], 0, (.tapstat 13 6 1))] = true := by decide +kernel

/-- R242-R251 and 03_encoding.md: a word for each instruction, and the word the encoder gives back. -/
theorem test_decode_stamps : readAs [
  ([0x7C031400], 1, (.tnow 6 10)),
  ([0xBC2322EC, 0xFE000100, 0x00000007], 2, (.pub 12 (.vreg 34 11 0xFE000100) 7)),
  ([0xFC43226C, 0x00000625], 3, (.ldat 12 (.lane 34 11) 37 6)),
  ([0x3C600000], 0, .dusk),
  ([0x7C801600], 1, (.pubtxB 11)),
  ([0xBCA00000], 2, .pubtxC),
  ([0xFCC00000], 3, .pubtxA),
  ([0x3CE322AC, 0x00000040], 0, (.sig 12 (.laneDisp 34 11 0x40)))] = true := by decide +kernel

/-- R175-R182 and 03_encoding.md: a word for each instruction, and the word the encoder gives back. -/
theorem test_decode_barriers : readAs [
  ([0x7D000004], 1, (.barJoin 4)),
  ([0xBD200004], 2, (.barLeave 4)),
  ([0xFD430004], 3, (.barArv 6 4)),
  ([0x3D431444], 0, (.barArvCount 6 10 4)),
  ([0x7D601404], 1, (.barWait 10 4)),
  ([0xBD800004], 2, (.barSync 4)),
  ([0xFDA00000], 3, .dbar),
  ([0x3DC31426], 0, (.mbxSend 6 10 4 6)),
  ([0x7DE30006], 1, (.mbxWait 6 6))] = true := by decide +kernel

/-- R120, R121, R266-R270 and 03_encoding.md: a word for each instruction, and the word the encoder gives back. -/
theorem test_decode_handlers : readAs [
  ([0xBE000020, 0x80000001], 2, (.trap (.lit 0x80000001))),
  ([0xFE210000], 3, (.rett 2)),
  ([0x3E431420], 0, (.launch 6 10 4)),
  ([0x7E641400], 1, (.fqPop 8 10)),
  ([0xBE831401], 2, (.fqDone 6 10 1)),
  ([0xFEA31422], 3, (.tlbinv 6 10 4 2)),
  ([0x3EC31400], 0, (.snap 6 10)),
  ([0x7EE00000], 1, .halt)] = true := by decide +kernel

/-- Every instruction of the list is ill formed. -/
def refused (l : List Instr) : Bool := l.all fun i => !i.wf

/-- R31, R105, R107: the codes and counts the branches refuse. -/
theorem test_illFormed_branches : refused [.bra (.near 0x4000), .brc 3 (.near 0x4000), .bdiv 1 0x4000 5, .brk 17 (.near 4),
    .brk 2 (.near 0x4000), .call 4 (.near 0x4000)] = true := by decide
/-- R28, R34, R132: immediates that ask for a literal, shifts past 31, special registers that SRD or SWR may not name. -/
theorem test_illFormed_scalars : refused [.saddImm 1 2 (.small 0x20), .sandImm 1 2 (.small 0x20), .scmpImm 1 2 0 (.small 0x20),
    .smovImm 1 (.small 0x20), .sshlImm 1 2 (.small 32), .sshrImm 1 2 (.small 63), .trap (.small 0x20), .srd 1 0, .srd 1 0x15, .srd 1 0x20,
    .swr 0x0D 1, .swr 0x01 1] = true := by decide
/-- R301, R302, R67, R121, R266-R268: reserved selectors and odd registers of the system instructions. -/
theorem test_illFormed_system : refused [.caprd 1 2 5, .noteGet 0, .noteGet 3, .noteCnt 1 2, .ctxSw 1 2 2, .exitK 1 0, .exitK 1 0x12,
    .rett 3, .fqPop 0 1, .fqPop 6 1, .fqDone 1 2 2, .tlbinv 1 2 3 3, .tnow 5 5] = true := by decide
/-- R29: two operands coded as a literal, and the reserved short codes. -/
theorem test_illFormed_shortForms : refused [.vaddI32Vi 1 (.short (.lit 5)) (.lit 6), .vsubI32Vi 1 (.vreg 2) (.rsvd 0),
    .vmulI32Vi 1 (.short (.rsvd 3)) .lane, .vandVi 1 (.vreg 2) (.rsvd 1), .vorVi 1 (.vreg 2) (.rsvd 1), .vxorVi 1 (.vreg 2) (.rsvd 1),
    .vshlVi 1 (.vreg 2) (.rsvd 1), .vshrVi 1 (.vreg 2) (.rsvd 1), .vsraVi 1 (.vreg 2) (.rsvd 1), .vmovI32Vi 1 (.short (.rsvd 2)),
    .vcmpVi 1 5 (.vreg 2) (.rsvd 2), .vfaddVi 1 (.vreg 2) (.rsvd 2), .vfmulVi 1 (.short (.lit 1)) (.lit 1),
    .vfcmpVi 1 5 (.vreg 2) (.rsvd 2)] = true := by decide
/-- R30, R140, R148-R150, R153: condition codes, conversions, lanes, operations and unaligned register groups. -/
theorem test_illFormed_vectors : refused [.vcmp 1 10 2 3, .vcmpVi 1 12 (.vreg 2) .lane, .vfcmp 1 6 2 3, .vfcmp 1 12 2 3,
    .vfcmpVi 1 9 (.vreg 2) .lane, .vcvt 1 2 9 0, .vcvt 1 2 0 5, .rng 2, .rngskip 1, .rngset 1 4, .rngset 2 6, .vbcast 1 2 32,
    .vbcast 1 2 0x41, .vred 1 2 11, .vscan 1 2 11, .vrot 1 2 32, .xsend 16 1 0, .xrecv 16 1 0] = true := by decide
/-- R32, R33, R162, R183: scales past 12, the width code 3, register pairs and quads, fences of no order. -/
theorem test_illFormed_memory : refused [.ldg 2 (.lane 1 13) 0, .stg 2 (.laneDisp 1 14 8) 0, .ldsp 2 (.vreg 1 15 0) 0, .stsp 2 (.base 1 0) 3,
    .ldk 3 (.base 1 0) 1, .ldg 2 (.base 1 0) 2, .fence 6 1, .fence 0 0, .cas 1 (.base 1 0) 0 0 0, .cas 2 (.base 1 0) 2 0 0,
    .atomAdd 1 (.base 1 0) 2 0 0, .atomMin 1 (.base 1 0) 3 0 0, .atomMax 1 (.base 1 0) 2 0 0, .atomAnd 1 (.base 1 0) 2 0 0,
    .atomOr 1 (.base 1 0) 2 0 0, .atomXor 1 (.base 1 0) 3 0 0, .atomExch 1 (.base 1 0) 2 0 0] = true := by decide
/-- R164, R202-R214, R231, R182: lengths, counts, forms and selectors of the engines, and SIG's register pair. -/
theorem test_illFormed_engines : refused [.cpy 0 0 1 2 0 0, .cpy 0 0 1 2 0 6, .cpyg 0 0 1 2 0 0 0, .cpyg 0 0 1 2 0 0 1025,
    .cpys 0 0 1 2 0 0 0, .mxlb 0 (.vreg 1 0 0) 0, .mxlb 0 (.lane 1 13) 0, .mxra 0 (.lane 1 13) 0, .mxdrn 0 (.lane 1 13) 0,
    .mxdrnt 0 (.lane 1 13) 0, .mxclr 0 1 0, .mxinj 0 1 5, .tapin 0 1 3, .tapin 0 1 0, .pub 1 (.lane 1 13) 0, .ldat 1 (.lane 1 13) 2 3,
    .sig 3 (.base 1 0), .sig 2 (.lane 1 13)] = true := by decide
/-- R23, R36: an unassigned function, a reserved bit, a missing literal and no words at all are refused by name. -/
theorem test_decode_refuses : decode [0x07000000] = .error .unassigned ∧ decode [0x04000001] = .error .reserved ∧
    decode [0x00600000] = .error .truncated ∧ decode [] = .error .truncated := by decide

/-- The worked examples of 03_encoding.md. -/
theorem test_decode_worked : decode [0x28008148] = .ok ⟨0, .ldg 2 (.lane 1 2) 0⟩ ∧
    decode [0x2800C188, 0x80] = .ok ⟨0, .ldg 3 (.laneDisp 1 2 0x80) 0⟩ ∧ decode [0x90010103] = .ok ⟨2, .vaddI32 4 2 3⟩ ∧
    decode [0x9200BC70, 0x1F4] = .ok ⟨2, .vaddI32Vi 2 (.short .lane) (.lit 0x1F4)⟩ ∧
    decode [0x93E57C4A] = .ok ⟨2, .vcmpVi 1 5 (.short .lane) (.imm 10)⟩ ∧ decode [0x0041FFFE] = .ok ⟨0, .brc 3 (.near 0x7FFE)⟩ := by decide
end

section
/-! Proofs of the statements about a split's settings: WAITC, SETFMT, GETFMT, MRST, REGION (R110, R112, R113, R122), and the words
that `%fmt` admits (R44, R45). -/

namespace Sys2Proof.Numbers
open Sys2Proof Sys2Proof.Machine

/-! ## The instructions' meanings -/

theorem exec_waitc (v sg m c : Fin 8) (s : State) : exec (.waitc v sg m c) s = execWaitc v sg m c s := rfl
theorem exec_setfmt (lit : Word) (s : State) : exec (.setfmt lit) s = execSetfmt lit s := rfl
theorem exec_setfmtScalar (a : Fin 64) (s : State) : exec (.setfmtScalar a) s = execSetfmtScalar a s := rfl
theorem exec_getfmt (d : Fin 64) (s : State) : exec (.getfmt d) s = execGetfmt d s := rfl
theorem exec_mrst (m : Fin 8) (s : State) : exec (.mrst m) s = execMrst m s := rfl
theorem exec_region (s : State) : exec .region s = execRegion s := rfl

/-! ## Changes of the current split -/

/-- An instruction that goes on and then changes its split changes that split alone. -/
theorem retire_modSp_effect (s : State) (f : Split → Split) :
    let u := s.retire.modSp f
    u.csp = f (s.csp.past s.cur.len) ∧ OtherSplits s u ∧ WaveStill s u ∧ OnlyWave s u := by
  refine ⟨by simp, fun k hk => ?_, by simp [WaveStill], s.retire_only.trans (OnlyWave.modSp _ _)⟩
  simp only [State.cw_modSp, State.retire_cw, State.retire_cur]
  rw [Tbl.get?_set_of_ne _ _ hk, Tbl.get?_set_of_ne _ _ hk]

/-- SETFMT sets the split's format where `%fmt` admits the word (R45, R112). -/
theorem setFmt_effect (s : State) (v : Word) (h : fmtOk v = true) :
    ∃ u, Host.Outcome.next (s.setFmt v) = (.next u : Host.Outcome State Fault Refusal) ∧
      u.csp = { s.csp.past s.cur.len with fmt := v } ∧ OtherSplits s u ∧ WaveStill s u ∧ OnlyWave s u :=
  ⟨_, by rw [State.setFmt, if_pos h], retire_modSp_effect s _⟩

/-- SETFMT of a word that `%fmt` may not hold raises ILLEGAL (R45). -/
theorem setFmt_refused (s : State) (v : Word) (h : fmtOk v = false) : s.setFmt v = s.raise cIllegal := by
  rw [State.setFmt, if_neg (by simp [h])]

/-- The address of the header that follows the clause (R24). -/
theorem clause_next_eq_nextHeader (s : State) : s.csp.ctx.next = nextHeader s := by
  apply BitVec.eq_of_toNat_eq
  simp [Clause.next, nextHeader]

/-! ## REGION (R122) -/

/-- The wave in which REGION has opened a region. -/
def openedRegion (s : State) (W : Wave) : Wave :=
  { W with
    iregpc := s.csp.ctx.next
    region := ⟨true, s.nextId, 0, s.csp.members, s.csp.fmt, W.tokens.length + W.spilled.length,
      W.ctr.toList.map fun c => c.setWidth 64, [], [], (W.rngPoison.filter fun p => p.2 == 0).map Prod.fst⟩ }

theorem execRegion_opens (s : State) (h : s.csp.ctx.idx + 1 = s.csp.ctx.n) (h1 : s.cw.splits.length = 1) :
    execRegion s = .next (s.fresh.modW (openedRegion s)).retire := by
  rw [execRegion, if_neg (by simp [h, h1])]
  rfl

theorem execRegion_refused (s : State) (h : s.csp.ctx.idx + 1 ≠ s.csp.ctx.n ∨ s.cw.splits.length ≠ 1) :
    execRegion s = .next (s.raise cIllegal) := by
  rw [execRegion, if_pos h]

theorem region_opened (s : State) :
    let u := (s.fresh.modW (openedRegion s)).retire
    u.cw = { openedRegion s s.cw with
      nextIssue := max s.cw.nextIssue (s.cyc + 1 + s.cur.stall)
      splits := Tbl.set s.cw.splits s.cur.sl (s.csp.past s.cur.len) } ∧
    u.csp = s.csp.past s.cur.len ∧ u.nextId = s.nextId + 1 ∧ OnlyWave { s with nextId := s.nextId + 1 } u := by
  have hsp : (s.fresh.modW (openedRegion s)).csp = s.csp := State.csp_modW s.fresh (openedRegion s) rfl
  refine ⟨?_, ?_, rfl, (OnlyWave.modW _ (openedRegion s)).trans (State.retire_only _)⟩
  · rw [State.retire_cw, hsp]
    simp only [State.cw_modW, State.cyc_modW]
    rfl
  · rw [State.retire_csp, hsp]
    rfl

theorem splitSettings_rule : ruleSplitSettings := by
  intro s a mk v sg m c lit d
  refine ⟨⟨_, exec_waitc v sg m c s, retire_modSp_effect s _⟩, fun h => ?_, fun h => ?_, fun hlt h => ?_, fun h => ?_, ?_,
    ⟨_, exec_mrst mk s, retire_modSp_effect s _⟩, fun hi hl => ?_, fun h => by rw [exec_region, execRegion_refused s h]⟩
  · rw [exec_setfmt]
    exact setFmt_effect s lit h
  · rw [exec_setfmt, execSetfmt, setFmt_refused s lit h]
  · rw [exec_setfmtScalar, execSetfmtScalar, if_neg (by omega)]
    exact setFmt_effect s _ h
  · rw [exec_setfmtScalar, execSetfmtScalar]
    split
    · rfl
    · rw [setFmt_refused s _ (h.resolve_left (by omega))]
  · refine ⟨_, exec_getfmt d s, ?_⟩
    rw [BitVec.ofNat_toNat]
    exact s.scalar_fixed d.val (s.csp.fmt.setWidth 64) d.isLt
  · obtain ⟨hcw, hcsp, hid, honly⟩ := region_opened s
    refine ⟨_, by rw [exec_region, execRegion_opens s hi hl], ⟨hcsp, fun k hk => ?_, by rw [hcw]⟩, ?_⟩
    · rw [hcw]
      exact Tbl.get?_set_of_ne _ _ hk
    · rw [hcw, ← clause_next_eq_nextHeader]
      exact ⟨rfl, rfl, rfl, rfl, rfl, rfl, rfl, rfl, rfl, honly⟩

/-- Each field of `%fmt` as R44 lays it out. -/
theorem formatWordsAdmitted_rule : ruleFormatWordsAdmitted := by
  intro v
  have hv : v.toNat < 2 ^ 32 := v.isLt
  simp only [fmtOk, Bool.and_eq_true, beq_iff_eq, bne_iff_ne, decide_eq_true_eq]
  simp only [fld, Nat.reducePow] at *
  omega

/-- Settles O8: each instruction changes its split alone, and `%fmt` admits a word by its fields. -/
theorem splitSettings : Obligations.SplitSettings := ⟨splitSettings_rule, formatWordsAdmitted_rule⟩

end Sys2Proof.Numbers
end

section
/-! Exact values of magnitudes, and what rounding to a multiple of a power of two gives (R48, R50, R52). -/

namespace Sys2Proof.Numbers
open Sys2Proof Sys2Proof.Machine

/-! ## Magnitudes -/

theorem two_zpow_pos (k : Int) : (0 : ℚ) < 2 ^ k := zpow_pos (by norm_num) k

theorem two_zpow_sub_mul (a b : Int) : (2 : ℚ) ^ (a - b) * 2 ^ b = 2 ^ a := by
  rw [← zpow_add₀ (by norm_num)]; congr 1; omega

theorem pow2_cast {k : Int} (h : 0 ≤ k) : ((pow2 k : Nat) : ℚ) = 2 ^ k := by
  obtain ⟨n, rfl⟩ := Int.eq_ofNat_of_zero_le h
  simp [pow2]

theorem magLt_iff (a : Nat) (x : Int) (b : Nat) (y : Int) : magLt a x b y = true ↔ (a : ℚ) * 2 ^ x < b * 2 ^ y := by
  have hx := pow2_cast (k := x - min x y) (by omega)
  have hy := pow2_cast (k := y - min x y) (by omega)
  rw [magLt, decide_eq_true_eq, ← Nat.cast_lt (α := ℚ), Nat.cast_mul, Nat.cast_mul, hx, hy,
    ← mul_lt_mul_iff_left₀ (two_zpow_pos (min x y)), mul_assoc, mul_assoc, two_zpow_sub_mul, two_zpow_sub_mul]

/-- The sign of a value, as a factor. -/
def sgn (n : Bool) : ℚ := if n then -1 else 1

@[simp] theorem sgn_false : sgn false = 1 := rfl
@[simp] theorem sgn_true : sgn true = -1 := rfl

theorem sgn_mul_self (n : Bool) : sgn n * sgn n = 1 := by cases n <;> norm_num [sgn]

theorem abs_sgn (n : Bool) : |sgn n| = 1 := by cases n <;> norm_num [sgn]

theorem exactQ_eq (n : Bool) (m : Nat) (e : Int) : exactQ n m e = sgn n * (m * 2 ^ e) := by
  rw [exactQ, sgn, mul_assoc]

theorem abs_exactQ (n : Bool) (m : Nat) (e : Int) : |exactQ n m e| = m * 2 ^ e := by
  rw [exactQ_eq, abs_mul, abs_sgn, one_mul, abs_of_nonneg (by positivity)]

@[simp] theorem exactQ_zero (n : Bool) (e : Int) : exactQ n 0 e = 0 := by simp [exactQ]

/-- The distance of two values of one sign is that of their magnitudes. -/
theorem abs_exactQ_sub (n : Bool) (m m' : Nat) (e e' : Int) :
    |exactQ n m e - exactQ n m' e'| = |(m : ℚ) * 2 ^ e - m' * 2 ^ e'| := by
  rw [exactQ_eq, exactQ_eq, ← mul_sub, abs_mul, abs_sgn, one_mul]

theorem exactQ_inj_iff (n : Bool) (m m' : Nat) (e e' : Int) :
    exactQ n m e = exactQ n m' e' ↔ (m : ℚ) * 2 ^ e = m' * 2 ^ e' := by
  rw [← sub_eq_zero, ← abs_eq_zero, abs_exactQ_sub, abs_eq_zero, sub_eq_zero]

/-! ## Rounding to a multiple of 2^eq -/

/-- m × 2^e in units of 2^eq. -/
def units (m : Nat) (e eq : Int) : ℚ := m * 2 ^ (e - eq)

theorem units_mul (m : Nat) (e eq : Int) : units m e eq * 2 ^ eq = m * 2 ^ e := by
  rw [units, mul_assoc, two_zpow_sub_mul]

theorem units_nonneg (m : Nat) (e eq : Int) : 0 ≤ units m e eq := by unfold units; positivity

/-- The part cut off, as a fraction of the unit. -/
theorem units_split (m : Nat) (e eq : Int) (h : e < eq) :
    units m e eq = (m / 2 ^ (eq - e).toNat : Nat) + (m % 2 ^ (eq - e).toNat : Nat) / (2 ^ (eq - e).toNat : Nat) := by
  obtain ⟨k, hk⟩ := Int.eq_ofNat_of_zero_le (show 0 ≤ eq - e by omega)
  have hz : (2 : ℚ) ^ (e - eq) = 1 / (2 ^ k : Nat) := by
    rw [show e - eq = -(k : Int) by omega, zpow_neg]; simp
  have hd : ((2 ^ k * (m / 2 ^ k) + m % 2 ^ k : Nat) : ℚ) = m := by rw [Nat.div_add_mod]
  have hp : ((2 ^ k : Nat) : ℚ) ≠ 0 := by positivity
  rw [units, hz, hk, Int.toNat_natCast, ← hd]
  push_cast at *
  field_simp

/-- The fraction of the unit that rounding has to decide on. -/
def rest (m : Nat) (e eq : Int) : ℚ := units m e eq - ⌊units m e eq⌋₊

theorem rest_nonneg (m : Nat) (e eq : Int) : 0 ≤ rest m e eq := sub_nonneg.2 (Nat.floor_le (units_nonneg m e eq))

theorem rest_lt_one (m : Nat) (e eq : Int) : rest m e eq < 1 := by
  have := Nat.lt_floor_add_one (units m e eq)
  unfold rest; linarith

/-- Whether a rounding mode goes up from the truncated magnitude `k` when the fraction `f` of a unit is left. -/
def GoesUp (md : Rnd) (neg : Bool) (k : Nat) (f : ℚ) : Prop :=
  match md with
  | .rne => 1 / 2 < f ∨ (f = 1 / 2 ∧ k % 2 = 1)
  | .rtz => False
  | .rup => neg = false ∧ f ≠ 0
  | .rdn => neg = true ∧ f ≠ 0
  | .srn u => u < ⌊f * 2 ^ 32⌋₊

theorem roundsUp_iff (md : Rnd) (neg : Bool) (k rem sh : Nat) :
    roundsUp md neg (k % 2 == 1) rem sh false = true ↔ GoesUp md neg k ((rem : ℚ) / (2 ^ sh : Nat)) := by
  have hp : (0 : ℚ) < (2 ^ sh : Nat) := by positivity
  cases md with
  | rne =>
    simp only [roundsUp, GoesUp, Bool.or_eq_true, Bool.and_eq_true, decide_eq_true_eq, beq_iff_eq, Bool.false_or]
    rw [lt_div_iff₀ hp, div_eq_iff hp.ne', ← Nat.cast_lt (α := ℚ), ← Nat.cast_inj (R := ℚ)]
    push_cast
    refine or_congr ⟨fun h => by linarith, fun h => by linarith⟩ (and_congr_left fun _ => ⟨fun h => by linarith, fun h => by linarith⟩)
  | rtz => simp [roundsUp, GoesUp]
  | rup => simp [roundsUp, GoesUp]
  | rdn => simp [roundsUp, GoesUp]
  | srn u =>
    simp only [roundsUp, GoesUp, decide_eq_true_eq]
    rw [div_mul_eq_mul_div, show ((rem : ℚ) * 2 ^ 32) = ((rem * 2 ^ 32 : Nat) : ℚ) by push_cast; rfl, Nat.floor_div_eq_div]

theorem not_goesUp_zero (md : Rnd) (neg : Bool) (k : Nat) : ¬ GoesUp md neg k 0 := by
  cases md <;> norm_num [GoesUp]

/-- What rounding to a multiple of 2^eq gives: the truncated magnitude, or one unit more where the mode goes up. -/
theorem roundAt_spec (md : Rnd) (neg : Bool) (m : Nat) (e eq : Int) :
    let r := roundAt md neg m e false eq
    let k := ⌊units m e eq⌋₊
    r.eq = eq ∧ (r.inexact = true ↔ rest m e eq ≠ 0) ∧
    ((GoesUp md neg k (rest m e eq) ∧ r.q = k + 1) ∨ (¬ GoesUp md neg k (rest m e eq) ∧ r.q = k)) := by
  intro r k
  by_cases h : eq ≤ e
  · have hr : r = ⟨m * pow2 (e - eq), eq, false⟩ := if_pos h
    have hu : units m e eq = (m * pow2 (e - eq) : Nat) := by
      rw [units, Nat.cast_mul, pow2_cast (by omega)]
    have hk : k = m * pow2 (e - eq) := by show ⌊_⌋₊ = _; rw [hu, Nat.floor_natCast]
    have h0 : rest m e eq = 0 := by rw [rest, hu, Nat.floor_natCast, sub_self]
    rw [hr, h0, hk]
    exact ⟨rfl, by simp, .inr ⟨not_goesUp_zero _ _ _, rfl⟩⟩
  · set sh := (eq - e).toNat with hsh
    have hu := units_split m e eq (by omega)
    have hlt : ((m % 2 ^ sh : Nat) : ℚ) / (2 ^ sh : Nat) < 1 := by
      rw [div_lt_one (by positivity), Nat.cast_lt]
      exact Nat.mod_lt _ (by positivity)
    have hk : k = m / 2 ^ sh := by
      show ⌊_⌋₊ = _
      rw [hu, Nat.floor_eq_iff (by positivity)]
      exact ⟨le_add_of_nonneg_right (by positivity), by linarith⟩
    have hf : rest m e eq = ((m % 2 ^ sh : Nat) : ℚ) / (2 ^ sh : Nat) := by
      rw [rest, show ⌊units m e eq⌋₊ = m / 2 ^ sh from hk, hu]; ring
    have hr : r = ⟨if roundsUp md neg (m / 2 ^ sh % 2 == 1) (m % 2 ^ sh) sh false then m / 2 ^ sh + 1 else m / 2 ^ sh, eq,
        m % 2 ^ sh != 0 || false⟩ := if_neg h
    have hup := roundsUp_iff md neg (m / 2 ^ sh) (m % 2 ^ sh) sh
    rw [← hf, ← hk] at hup
    rw [hr, ← hk]
    refine ⟨rfl, ?_, ?_⟩
    · rw [hf]
      simp
    · by_cases hg : GoesUp md neg k (rest m e eq)
      · exact .inl ⟨hg, if_pos (hup.2 hg)⟩
      · exact .inr ⟨hg, if_neg (mt hup.1 hg)⟩

@[simp] theorem roundAt_eq (md : Rnd) (neg : Bool) (m : Nat) (e eq : Int) : (roundAt md neg m e false eq).eq = eq :=
  (roundAt_spec md neg m e eq).1

/-- Inexact is raised exactly where the magnitude changed. -/
theorem roundAt_inexact (md : Rnd) (neg : Bool) (m : Nat) (e eq : Int) :
    (roundAt md neg m e false eq).inexact = true ↔ ((roundAt md neg m e false eq).q : ℚ) ≠ units m e eq := by
  obtain ⟨-, hi, ⟨hg, hq⟩ | ⟨-, hq⟩⟩ := roundAt_spec md neg m e eq
  · have h1 := rest_lt_one m e eq
    have h0 : rest m e eq ≠ 0 := fun h0 => not_goesUp_zero md neg _ (h0 ▸ hg)
    rw [hi, hq]
    unfold rest at h1
    push_cast
    exact iff_of_true h0 (by linarith)
  · rw [hi, hq, rest, sub_ne_zero, ne_comm]

theorem ceil_units (m : Nat) (e eq : Int) :
    ⌈units m e eq⌉₊ = if rest m e eq = 0 then ⌊units m e eq⌋₊ else ⌊units m e eq⌋₊ + 1 := by
  have hf := Nat.floor_le (units_nonneg m e eq)
  have h1 := rest_lt_one m e eq
  have h0 := rest_nonneg m e eq
  unfold rest at *
  split
  case isTrue h =>
    rw [sub_eq_zero.1 h, Nat.ceil_natCast, Nat.floor_natCast]
  case isFalse h =>
    have hpos := lt_of_le_of_ne h0 (Ne.symm h)
    rw [Nat.ceil_eq_iff (by omega)]
    push_cast
    exact ⟨by simpa using hpos, by linarith⟩

theorem roundAt_rtz (neg : Bool) (m : Nat) (e eq : Int) : (roundAt .rtz neg m e false eq).q = ⌊units m e eq⌋₊ := by
  obtain ⟨-, -, ⟨hg, hq⟩ | ⟨-, hq⟩⟩ := roundAt_spec .rtz neg m e eq
  · exact hg.elim
  · exact hq

theorem roundAt_rup (neg : Bool) (m : Nat) (e eq : Int) :
    (roundAt .rup neg m e false eq).q = if neg then ⌊units m e eq⌋₊ else ⌈units m e eq⌉₊ := by
  obtain ⟨-, -, ⟨hg, hq⟩ | ⟨hg, hq⟩⟩ := roundAt_spec .rup neg m e eq <;>
    cases neg <;> simp_all [GoesUp, ceil_units]

theorem roundAt_rdn (neg : Bool) (m : Nat) (e eq : Int) :
    (roundAt .rdn neg m e false eq).q = if neg then ⌈units m e eq⌉₊ else ⌊units m e eq⌋₊ := by
  obtain ⟨-, -, ⟨hg, hq⟩ | ⟨hg, hq⟩⟩ := roundAt_spec .rdn neg m e eq <;>
    cases neg <;> simp_all [GoesUp, ceil_units]

/-- rne gives an integer within half a unit, the even one on a tie. -/
theorem roundAt_rne (neg : Bool) (m : Nat) (e eq : Int) :
    let q := (roundAt .rne neg m e false eq).q
    |(q : ℚ) - units m e eq| ≤ 1 / 2 ∧ (|(q : ℚ) - units m e eq| = 1 / 2 → q % 2 = 0) := by
  intro q
  have h0 := rest_nonneg m e eq
  have h1 := rest_lt_one m e eq
  obtain ⟨-, -, ⟨hg, hq⟩ | ⟨hg, hq⟩⟩ := roundAt_spec .rne neg m e eq
  · have hd : (q : ℚ) - units m e eq = 1 - rest m e eq := by
      show (((roundAt .rne neg m e false eq).q : Nat) : ℚ) - _ = _
      rw [hq, rest]; push_cast; ring
    rw [hd, abs_of_nonneg (by linarith)]
    rcases hg with hg | ⟨hg, ho⟩
    · exact ⟨by linarith, fun h => by linarith⟩
    · exact ⟨by linarith, fun _ => by show (roundAt .rne neg m e false eq).q % 2 = 0; omega⟩
  · have hd : (q : ℚ) - units m e eq = -rest m e eq := by
      show (((roundAt .rne neg m e false eq).q : Nat) : ℚ) - _ = _
      rw [hq, rest]; ring
    rw [hd, abs_neg, abs_of_nonneg h0]
    simp only [GoesUp, not_or, not_lt, not_and] at hg
    exact ⟨hg.1, fun h => by have := hg.2 h; show (roundAt .rne neg m e false eq).q % 2 = 0; omega⟩

/-- No integer is closer than one within half a unit, and one as close that differs lies half a unit away. -/
theorem near_le (q : Nat) (x : ℚ) (h : |(q : ℚ) - x| ≤ 1 / 2) (k : Int) :
    |(q : ℚ) - x| ≤ |(k : ℚ) - x| ∧ (|(q : ℚ) - x| = |(k : ℚ) - x| → k ≠ q → |(q : ℚ) - x| = 1 / 2) := by
  by_cases hk : k = q
  · subst hk; exact ⟨by simp, fun _ h => absurd rfl h⟩
  · have h1 : (1 : ℚ) ≤ |(k : ℚ) - q| := by
      exact_mod_cast Int.one_le_abs (sub_ne_zero.2 hk)
    have h2 : |(k : ℚ) - q| ≤ |(k : ℚ) - x| + |(q : ℚ) - x| := by
      rw [abs_sub_comm (q : ℚ) x]; exact abs_sub_le _ _ _
    exact ⟨by linarith, fun he _ => by linarith⟩

end Sys2Proof.Numbers
end

section
/-! FP32 codes, and rounding to FP32 by rne (R41, R48, R50, R52). -/

namespace Sys2Proof.Numbers
open Sys2Proof Sys2Proof.Machine

/-! ## Codes -/

/-- A finite code of a format with infinities: the significand has its precision, the exponent of the unit is one of the format's. -/
theorem decode_fin {f : FFmt} {c : Nat} {n : Bool} {m : Nat} {e : Int} (hi : f.hasInf = true) (hw : 2 ≤ f.w - f.p)
    (h : f.decode c = .fin n m e) : m < 2 ^ (f.p - 1) + 2 ^ (f.p - 1) ∧ f.qmin ≤ e ∧ e < f.qmin + (2 ^ (f.w - f.p) - 2 : Nat) := by
  have hma : c % 2 ^ (f.p - 1) < 2 ^ (f.p - 1) := Nat.mod_lt _ (by positivity)
  have hex : c / 2 ^ (f.p - 1) % 2 ^ (f.w - f.p) < 2 ^ (f.w - f.p) := Nat.mod_lt _ (by positivity)
  have ht : 2 ^ 2 ≤ 2 ^ (f.w - f.p) := Nat.pow_le_pow_right (by norm_num) hw
  simp only [FFmt.decode, hi, Bool.and_true, decide_eq_true_eq] at h
  generalize c / 2 ^ (f.p - 1) % 2 ^ (f.w - f.p) = ex at *
  generalize c % 2 ^ (f.p - 1) = ma at *
  generalize 2 ^ (f.w - f.p) = top at *
  by_cases htop : ex = top - 1
  · rw [if_pos htop] at h
    split at h <;> cases h
  · simp only [htop, decide_false, Bool.false_and, Bool.false_eq_true, if_false] at h
    split at h <;> simp only [FVal.fin.injEq] at h <;> omega

theorem f32_fin {x : Word} {n : Bool} {m : Nat} {e : Int} (h : f32 x = .fin n m e) : m < 2 ^ 24 ∧ -149 ≤ e ∧ e ≤ 104 := by
  obtain ⟨hm, hl, hu⟩ := decode_fin rfl (by decide) h
  simp only [fp32F] at hm hl hu
  omega

/-- The sign bit of FP32. -/
def signBit (n : Bool) : Nat := if n then 2 ^ 31 else 0

/-- The value of an FP32 code by its fields. -/
theorem f32_fields (n : Bool) {ex ma : Nat} (hex : ex < 255) (hma : ma < 2 ^ 23) :
    f32 (BitVec.ofNat 32 (signBit n + ex * 2 ^ 23 + ma)) =
      if ex = 0 then .fin n ma (-149) else .fin n (ma + 2 ^ 23) (-149 + (ex - 1)) := by
  have hs : signBit n = 0 ∧ n = false ∨ signBit n = 2 ^ 31 ∧ n = true := by cases n <;> simp [signBit]
  have hlt : signBit n + ex * 2 ^ 23 + ma < 2 ^ 32 := by omega
  have hsgn : ((signBit n + ex * 2 ^ 23 + ma) / 2 ^ 31 % 2 == 1) = n := by
    rcases hs with ⟨h, rfl⟩ | ⟨h, rfl⟩
    · rw [beq_eq_false_iff_ne]; omega
    · rw [beq_iff_eq]; omega
  have hE : (signBit n + ex * 2 ^ 23 + ma) / 2 ^ 23 % 2 ^ 8 = ex := by omega
  have hM : (signBit n + ex * 2 ^ 23 + ma) % 2 ^ 23 = ma := by omega
  rw [f32, BitVec.toNat_ofNat, Nat.mod_eq_of_lt hlt]
  simp only [FFmt.decode, fp32F, Nat.add_one_sub_one, Nat.reduceSub, hsgn, hE, hM]
  rw [if_neg (by simp; omega), if_neg (by simp; omega)]

/-- An FP32 code of an infinity. -/
theorem f32_infCode (n : Bool) : fp32F.infCode n < 2 ^ 32 ∧ f32 (BitVec.ofNat 32 (fp32F.infCode n)) = .inf n := by
  cases n <;> decide

/-- What encoding a significand and an exponent that FP32 has gives: a code of the same value and parity. -/
theorem fp32_encode (n : Bool) {q : Nat} {e : Int} (hq : q ≤ 2 ^ 24) (hl : -149 ≤ e) (hn : e = -149 ∨ 2 ^ 23 ≤ q)
    (hu : e ≤ 104) (hmax : e = 104 → q < 2 ^ 24) :
    let c := fp32F.encode n q e
    c < 2 ^ 32 ∧ c % 2 = q % 2 ∧ ∃ m' e', f32 (BitVec.ofNat 32 c) = .fin n m' e' ∧ (m' : ℚ) * 2 ^ e' = q * 2 ^ e := by
  intro c
  have hs : signBit n = 0 ∨ signBit n = 2 ^ 31 := by cases n <;> simp [signBit]
  suffices h : ∃ ex ma, ex < 255 ∧ ma < 2 ^ 23 ∧ c = signBit n + ex * 2 ^ 23 + ma ∧ ma % 2 = q % 2 ∧
      ((ex = 0 → (ma : ℚ) * 2 ^ (-149 : Int) = q * 2 ^ e) ∧
       (ex ≠ 0 → ((ma + 2 ^ 23 : Nat) : ℚ) * 2 ^ (-149 + ((ex : Int) - 1)) = q * 2 ^ e)) by
    obtain ⟨ex, ma, hex, hma, hc, hp, h0, h1⟩ := h
    rw [hc, f32_fields n hex hma]
    refine ⟨by omega, by omega, ?_⟩
    by_cases hz : ex = 0
    · exact ⟨_, _, if_pos hz, h0 hz⟩
    · exact ⟨_, _, if_neg hz, h1 hz⟩
  have hc : c = if q = 0 then signBit n else if q < 2 ^ 23 then signBit n + q
      else if q = 2 ^ 24 then signBit n + (e + 151).toNat * 2 ^ 23
      else signBit n + (e + 150).toNat * 2 ^ 23 + (q - 2 ^ 23) := by
    show fp32F.encode n q e = _
    simp only [FFmt.encode, fp32F, signBit, Nat.reduceSub, sub_neg_eq_add]
    rw [show e + 149 + 2 = e + 151 by ring, show e + 149 + 1 = e + 150 by ring]
  rcases lt_or_ge q (2 ^ 23) with h23 | h23
  · refine ⟨0, q, by omega, h23, ?_, rfl, fun _ => ?_, fun h => absurd rfl h⟩
    · rw [hc, if_pos h23]; split <;> omega
    · rw [hn.resolve_right (by omega)]
  · rw [if_neg (by omega), if_neg (by omega)] at hc
    rcases eq_or_lt_of_le hq with rfl | h24
    · have : e ≠ 104 := fun h => absurd (hmax h) (by omega)
      refine ⟨(e + 151).toNat, 0, by omega, by omega, by rw [hc, if_pos rfl, add_zero], by norm_num, fun h => by omega, fun _ => ?_⟩
      rw [show -149 + (((e + 151).toNat : Int) - 1) = e + 1 by omega, zpow_add_one₀ (by norm_num)]
      push_cast; ring
    · rw [if_neg (by omega)] at hc
      refine ⟨(e + 150).toNat, q - 2 ^ 23, by omega, by omega, hc, by omega, fun h => by omega, fun _ => ?_⟩
      rw [show -149 + (((e + 150).toNat : Int) - 1) = e by omega, Nat.sub_add_cancel h23]

end Sys2Proof.Numbers
end

section
/-! Rounding to FP32 by rne gives the nearest value, ties to even (R48, R50, R52). -/

namespace Sys2Proof.Numbers
open Sys2Proof Sys2Proof.Machine

/-! ## The unit in the last place -/

/-- The exponent of the unit that FP32 rounds m × 2^e to. -/
def unitExp (m : Nat) (e : Int) : Int := max (ulpExp 24 m e) (-149)

theorem unitExp_ge (m : Nat) (e : Int) : -149 ≤ unitExp m e := le_max_right _ _

theorem units_unitExp_lt {m : Nat} (hm : m ≠ 0) (e : Int) : units m e (unitExp m e) < 2 ^ 24 := by
  have h1 : (m : ℚ) < 2 ^ (m.log2 + 1) := by exact_mod_cast Nat.lt_log2_self
  have h2 : (2 : ℚ) ^ (e - unitExp m e) ≤ 2 ^ (23 - (m.log2 : Int)) :=
    zpow_le_zpow_right₀ (by norm_num) (by have := le_max_left (ulpExp 24 m e) (-149); simp only [unitExp, ulpExp] at *; omega)
  calc units m e (unitExp m e) ≤ m * 2 ^ (23 - (m.log2 : Int)) := mul_le_mul_of_nonneg_left h2 (by positivity)
    _ < 2 ^ (m.log2 + 1) * 2 ^ (23 - (m.log2 : Int)) := mul_lt_mul_of_pos_right h1 (two_zpow_pos _)
    _ = 2 ^ 24 := by
      rw [← zpow_natCast, ← zpow_add₀ (by norm_num), show ((m.log2 + 1 : Nat) : Int) + (23 - m.log2) = 24 by push_cast; ring]
      norm_num

/-- Unless the unit is the least one, a magnitude has all the bits of the precision. -/
theorem unitExp_normal {m : Nat} (hm : m ≠ 0) (e : Int) : unitExp m e = -149 ∨ 2 ^ 23 ≤ units m e (unitExp m e) := by
  rcases le_or_gt (ulpExp 24 m e) (-149) with h | h
  · exact .inl (max_eq_right h)
  · right
    have h1 : (2 : ℚ) ^ m.log2 ≤ m := by exact_mod_cast Nat.log2_self_le hm
    rw [unitExp, max_eq_left h.le, units, show e - ulpExp 24 m e = 23 - m.log2 by simp only [ulpExp]; omega]
    calc (2 : ℚ) ^ 23 = 2 ^ m.log2 * 2 ^ (23 - (m.log2 : Int)) := by
          rw [← zpow_natCast 2 m.log2, ← zpow_add₀ (by norm_num), show (m.log2 : Int) + (23 - m.log2) = 23 by ring]
          norm_num
      _ ≤ m * 2 ^ (23 - (m.log2 : Int)) := mul_le_mul_of_nonneg_right h1 (two_zpow_pos _).le

/-- A magnitude rounded to the unit of FP32. -/
def ulpRound (md : Rnd) (n : Bool) (m : Nat) (e : Int) : Nat := (roundAt md n m e false (unitExp m e)).q

/-- The rounded magnitude lies above the largest finite one. -/
def Overflows (md : Rnd) (n : Bool) (m : Nat) (e : Int) : Prop :=
  ((2 ^ 24 - 1 : Nat) : ℚ) * 2 ^ (104 : Int) < ulpRound md n m e * 2 ^ unitExp m e

/-- Rounding to FP32 where the rounded magnitude is finite: its code, with inexact where the magnitude changed. -/
theorem fp32_round_finite {md : Rnd} {n : Bool} {m : Nat} {e : Int} (hm : m ≠ 0) (h : ¬ Overflows md n m e) :
    let r := fp32F.round md n m e false
    r.1 = fp32F.encode n (ulpRound md n m e) (unitExp m e) ∧
    (r.2.getLsbD 4 = true ↔ (ulpRound md n m e : ℚ) ≠ units m e (unitExp m e)) ∧
    ((ulpRound md n m e : ℚ) = units m e (unitExp m e) → r.2 = 0) := by
  have hr : (roundAt md n m e false (unitExp m e)).inexact = true ↔ (ulpRound md n m e : ℚ) ≠ units m e (unitExp m e) :=
    roundAt_inexact md n m e _
  have hno : magLt fp32F.maxM fp32F.maxE (roundAt md n m e false (unitExp m e)).q (unitExp m e) = false := by
    rw [Bool.eq_false_iff, Ne, magLt_iff]
    exact h
  have hu : max (ulpExp fp32F.p m e) fp32F.qmin = unitExp m e := rfl
  simp only [FFmt.round, hm, decide_false, Bool.false_and, Bool.false_eq_true, if_false, hu, hno, roundAt_eq]
  refine ⟨rfl, ?_, fun h0 => if_neg (mt hr.1 (not_not.2 h0))⟩
  rw [← hr]
  cases (roundAt md n m e false (unitExp m e)).inexact
  · simp
  · simp only [if_true, iff_true]
    split <;> rfl

theorem fp32_round_overflow {n : Bool} {m : Nat} {e : Int} (hm : m ≠ 0) (h : Overflows .rne n m e) :
    fp32F.round .rne n m e false = (fp32F.infCode n, fOverflow ||| fInexact) := by
  have hov : magLt fp32F.maxM fp32F.maxE (roundAt .rne n m e false (unitExp m e)).q (unitExp m e) = true := by
    rw [magLt_iff]
    exact h
  have hu : max (ulpExp fp32F.p m e) fp32F.qmin = unitExp m e := rfl
  simp only [FFmt.round, hm, decide_false, Bool.false_and, Bool.false_eq_true, if_false, hu, roundAt_eq, hov, if_true]
  rfl

/-- A finite result is the code of the rounded magnitude's value. -/
theorem fp32_round_value {md : Rnd} {n : Bool} {m : Nat} {e : Int} (hm : m ≠ 0) (h : ¬ Overflows md n m e)
    (hq : ulpRound md n m e ≤ 2 ^ 24) (hn : unitExp m e = -149 ∨ 2 ^ 23 ≤ ulpRound md n m e) :
    let r := fp32F.round md n m e false
    r.1 < 2 ^ 32 ∧ r.1 % 2 = ulpRound md n m e % 2 ∧
    ∃ m' e', f32 (BitVec.ofNat 32 r.1) = .fin n m' e' ∧ (m' : ℚ) * 2 ^ e' = ulpRound md n m e * 2 ^ unitExp m e := by
  have hle : (ulpRound md n m e : ℚ) * 2 ^ unitExp m e ≤ ((2 ^ 24 - 1 : Nat) : ℚ) * 2 ^ (104 : Int) := not_lt.1 h
  have hu : unitExp m e ≤ 104 := by
    by_contra hc
    have h23 : (2 : ℚ) ^ 23 ≤ ulpRound md n m e := by exact_mod_cast hn.resolve_left (by omega)
    have hz : (2 : ℚ) ^ (105 : Int) ≤ 2 ^ unitExp m e := zpow_le_zpow_right₀ (by norm_num) (by omega)
    have := mul_le_mul h23 hz (by positivity) (by positivity)
    norm_num at this hle
    linarith
  have hmax : unitExp m e = 104 → ulpRound md n m e < 2 ^ 24 := by
    intro h4
    rw [h4] at hle
    have := le_of_mul_le_mul_right hle (two_zpow_pos _)
    have : ulpRound md n m e ≤ 2 ^ 24 - 1 := by exact_mod_cast this
    omega
  intro r
  have hr : r.1 = fp32F.encode n (ulpRound md n m e) (unitExp m e) := (fp32_round_finite hm h).1
  rw [hr]
  exact fp32_encode n hq (unitExp_ge m e) hn hu hmax

/-! ## Nearest, ties to even -/

/-- The magnitude rounded by rne lies within half a unit. -/
theorem ulpRound_rne (n : Bool) (m : Nat) (e : Int) :
    |(ulpRound .rne n m e : ℚ) - units m e (unitExp m e)| ≤ 1 / 2 ∧
    (|(ulpRound .rne n m e : ℚ) - units m e (unitExp m e)| = 1 / 2 → ulpRound .rne n m e % 2 = 0) :=
  roundAt_rne n m e _

theorem ulpRound_rne_le {m : Nat} (hm : m ≠ 0) (n : Bool) (e : Int) : ulpRound .rne n m e ≤ 2 ^ 24 := by
  have h := abs_le.1 (ulpRound_rne n m e).1
  have hx := units_unitExp_lt hm e
  have : (ulpRound .rne n m e : ℚ) < (2 ^ 24 + 1 : Nat) := by push_cast; linarith [h.2]
  have := Nat.cast_lt.1 this
  omega

theorem ulpRound_rne_normal {m : Nat} (hm : m ≠ 0) (n : Bool) (e : Int) :
    unitExp m e = -149 ∨ 2 ^ 23 ≤ ulpRound .rne n m e := by
  refine (unitExp_normal hm e).imp_right fun hx => ?_
  have h := abs_le.1 (ulpRound_rne n m e).1
  have : ((2 ^ 23 : Nat) : ℚ) < (ulpRound .rne n m e + 1 : Nat) := by push_cast; linarith [h.1]
  have := Nat.cast_lt.1 this
  omega

/-- Rounding overflows exactly from half an ulp past the largest value. -/
theorem overflows_rne_iff {m : Nat} (hm : m ≠ 0) (n : Bool) (e : Int) :
    Overflows .rne n m e ↔ (2 : ℚ) ^ 128 - 2 ^ 103 ≤ m * 2 ^ e := by
  have hlt := units_unitExp_lt hm e
  have hle := ulpRound_rne_le hm n e
  obtain ⟨hr, heven⟩ := ulpRound_rne n m e
  have hX := units_mul m e (unitExp m e)
  have hx0 := units_nonneg m e (unitExp m e)
  have hxn := unitExp_normal hm e
  have hqn := ulpRound_rne_normal hm n e
  rw [Overflows, ← hX]
  generalize hq : ulpRound .rne n m e = q at *
  generalize units m e (unitExp m e) = x at *
  rcases lt_trichotomy (unitExp m e) 104 with h | h | h
  · have hz : (2 : ℚ) ^ unitExp m e ≤ 2 ^ (103 : Int) := zpow_le_zpow_right₀ (by norm_num) (by omega)
    have h1 : (q : ℚ) * 2 ^ unitExp m e ≤ 2 ^ 24 * 2 ^ (103 : Int) :=
      mul_le_mul (by exact_mod_cast hle) hz (two_zpow_pos _).le (by positivity)
    have h2 : x * 2 ^ unitExp m e ≤ 2 ^ 24 * 2 ^ (103 : Int) := mul_le_mul hlt.le hz (two_zpow_pos _).le (by positivity)
    norm_num at h1 h2 ⊢
    constructor <;> intro <;> linarith
  · rw [h, mul_lt_mul_iff_left₀ (two_zpow_pos _), Nat.cast_lt]
    constructor
    · intro hov
      have hq' : (q : ℚ) = 2 ^ 24 := by exact_mod_cast (by omega : q = 2 ^ 24)
      rw [hq'] at hr
      have := (abs_le.1 hr).2
      have := mul_le_mul_of_nonneg_right (show (2 : ℚ) ^ 24 - 1 / 2 ≤ x by linarith) (two_zpow_pos 104).le
      norm_num at this ⊢
      linarith
    · intro hbig
      have hx : (2 : ℚ) ^ 24 - 1 / 2 ≤ x := by norm_num at hbig ⊢; linarith
      by_contra hov
      have hq1 : (q : ℚ) ≤ 2 ^ 24 - 1 := by
        have : (q : ℚ) ≤ (2 ^ 24 - 1 : Nat) := Nat.cast_le.2 (by omega)
        push_cast at this; linarith
      have ha := (abs_le.1 hr).1
      have hqe : (q : ℚ) = 2 ^ 24 - 1 := by linarith
      have hab : |(q : ℚ) - x| = 1 / 2 := by
        rw [show x = 2 ^ 24 - 1 / 2 by linarith, hqe]; norm_num
      have : q = 2 ^ 24 - 1 := by
        have : (q : ℚ) = (2 ^ 24 - 1 : Nat) := by rw [hqe]; norm_num
        exact_mod_cast this
      have := heven hab
      omega
  · have hx23 : (2 : ℚ) ^ 23 ≤ x := hxn.resolve_left (by omega)
    have hq23 : (2 : ℚ) ^ 23 ≤ q := by exact_mod_cast hqn.resolve_left (by omega)
    have hz : (2 : ℚ) ^ (105 : Int) ≤ 2 ^ unitExp m e := zpow_le_zpow_right₀ (by norm_num) (by omega)
    have h1 := mul_le_mul hq23 hz (by positivity) (by positivity)
    have h2 := mul_le_mul hx23 hz (by positivity) (by positivity)
    norm_num at h1 h2 ⊢
    exact iff_of_true (by linarith) (by linarith)

/-- A magnitude of FP32 that is no multiple of the unit that a value rounds to lies below every value of that unit. -/
theorem fp32_multiple_or_below {m' : Nat} {e' E : Int} (hm : m' < 2 ^ 24) :
    (∃ k : Nat, (m' : ℚ) * 2 ^ e' = k * 2 ^ E) ∨ (e' < E ∧ (m' : ℚ) * 2 ^ e' < 2 ^ 23 * 2 ^ E) := by
  rcases le_or_gt E e' with h | h
  · left
    refine ⟨m' * pow2 (e' - E), ?_⟩
    rw [Nat.cast_mul, pow2_cast (by omega), mul_assoc, two_zpow_sub_mul]
  · refine .inr ⟨h, ?_⟩
    have hz : (2 : ℚ) ^ e' ≤ 2 ^ (E - 1) := zpow_le_zpow_right₀ (by norm_num) (by omega)
    calc (m' : ℚ) * 2 ^ e' < 2 ^ 24 * 2 ^ e' := mul_lt_mul_of_pos_right (by exact_mod_cast hm) (two_zpow_pos _)
      _ ≤ 2 ^ 24 * 2 ^ (E - 1) := by gcongr
      _ = 2 ^ 23 * 2 ^ E := by rw [zpow_sub_one₀ (by norm_num)]; ring

/-- Among the values of FP32 none is closer to a value than the one it rounds to, and one as close leaves that one even. -/
theorem fp32_nearest {m : Nat} (hm : m ≠ 0) (n : Bool) (e : Int) {n' : Bool} {m' : Nat} {e' : Int} (hm' : m' < 2 ^ 24)
    (he' : -149 ≤ e') :
    let v := exactQ n (ulpRound .rne n m e) (unitExp m e)
    |v - exactQ n m e| ≤ |exactQ n' m' e' - exactQ n m e| ∧
    (|v - exactQ n m e| = |exactQ n' m' e' - exactQ n m e| → v ≠ exactQ n' m' e' → ulpRound .rne n m e % 2 = 0) := by
  intro v
  obtain ⟨hr, heven⟩ := ulpRound_rne n m e
  have hxn := unitExp_normal hm e
  have hv : |v - exactQ n m e| = |(ulpRound .rne n m e : ℚ) - units m e (unitExp m e)| * 2 ^ unitExp m e := by
    rw [abs_exactQ_sub, ← units_mul m e (unitExp m e), ← sub_mul, abs_mul, abs_of_pos (two_zpow_pos _)]
  have hy : |exactQ n' m' e' - exactQ n m e| = |sgn n * exactQ n' m' e' - units m e (unitExp m e) * 2 ^ unitExp m e| := by
    rw [← one_mul |_|, ← abs_sgn n, ← abs_mul, mul_sub, exactQ_eq n m e, ← mul_assoc (sgn n), sgn_mul_self, one_mul, units_mul]
  rw [hv, hy]
  have hvn : v = sgn n * ((ulpRound .rne n m e : ℚ) * 2 ^ unitExp m e) := exactQ_eq _ _ _
  generalize hQ : ulpRound .rne n m e = q at *
  generalize units m e (unitExp m e) = x at *
  rcases fp32_multiple_or_below (E := unitExp m e) (e' := e') hm' with ⟨k, hk⟩ | ⟨hlt, hbelow⟩
  · have hK : sgn n * exactQ n' m' e' = ((if n = n' then (k : Int) else -k : Int) : ℚ) * 2 ^ unitExp m e := by
      rw [exactQ_eq, hk]
      cases n <;> cases n' <;> simp [sgn]
    generalize (if n = n' then (k : Int) else -k : Int) = K at hK
    obtain ⟨hle, htie⟩ := near_le q x hr K
    rw [hK, ← sub_mul, abs_mul, abs_of_pos (two_zpow_pos _)]
    refine ⟨mul_le_mul_of_nonneg_right hle (two_zpow_pos _).le, fun h hne => heven ?_⟩
    have hd := mul_right_cancel₀ (two_zpow_pos _).ne' h
    refine htie hd fun hKq => hne ?_
    rw [hvn, ← one_mul (exactQ n' m' e'), ← sgn_mul_self n, mul_assoc, hK, hKq, Int.cast_natCast]
  · have hx23 := hxn.resolve_left (by omega)
    have hpos := two_zpow_pos (unitExp m e)
    have hle := (near_le q x hr (2 ^ 23)).1
    rw [Int.cast_pow, Int.cast_ofNat, abs_of_nonpos (show (2 : ℚ) ^ 23 - x ≤ 0 by linarith)] at hle
    have hsY : |sgn n * exactQ n' m' e'| < 2 ^ 23 * 2 ^ unitExp m e := by
      rwa [abs_mul, abs_sgn, one_mul, abs_exactQ]
    have hstrict : |(q : ℚ) - x| * 2 ^ unitExp m e < |sgn n * exactQ n' m' e' - x * 2 ^ unitExp m e| := by
      rw [abs_sub_comm _ (x * _)]
      calc |(q : ℚ) - x| * 2 ^ unitExp m e ≤ -(2 ^ 23 - x) * 2 ^ unitExp m e := mul_le_mul_of_nonneg_right hle hpos.le
        _ < x * 2 ^ unitExp m e - sgn n * exactQ n' m' e' := by linarith [(abs_lt.1 hsY).2]
        _ ≤ _ := le_abs_self _
    exact ⟨hstrict.le, fun h => absurd h hstrict.ne⟩

theorem fp32_round_zero (n : Bool) (md : Rnd) (e : Int) : fp32F.round md n 0 e false = (fp32F.encode n 0 0, 0) := by
  simp [FFmt.round]

/-- The code of a zero. -/
theorem fp32_zeroCode (n : Bool) :
    fp32F.encode n 0 0 < 2 ^ 32 ∧ f32 (BitVec.ofNat 32 (fp32F.encode n 0 0)) = .fin n 0 (-149) := by
  cases n <;> decide

/-- Settles O17: the magnitude is rounded to the nearest multiple of its unit, and every other value of FP32 is a multiple of
that unit or lies below all that round to it. -/
theorem fp32RoundsToNearestEven : Obligations.Fp32RoundsToNearestEven := by
  intro n m e r q v
  rcases eq_or_ne m 0 with rfl | hm
  · have hr : r = (fp32F.encode n 0 0, 0) := fp32_round_zero n .rne e
    have hq : q = 0 := exactQ_zero n e
    have hv : v = .fin n 0 (-149) := by
      show f32 (BitVec.ofNat 32 r.1) = _
      rw [hr]
      exact (fp32_zeroCode n).2
    rw [hq, hv, hr]
    refine ⟨(fp32_zeroCode n).1, fun _ => ⟨0, -149, rfl, by simp, fun y n' m' e' _ => ?_⟩, fun h => ?_⟩
    · rw [exactQ_zero, sub_zero, sub_zero, abs_zero]
      exact ⟨abs_nonneg _, fun h hne => absurd (abs_eq_zero.1 h.symm).symm hne⟩
    · norm_num at h
  · by_cases hov : Overflows .rne n m e
    · have hr : r = (fp32F.infCode n, fOverflow ||| fInexact) := fp32_round_overflow hm hov
      have hbig : (2 : ℚ) ^ 128 - 2 ^ 103 ≤ |q| := by rw [abs_exactQ]; exact (overflows_rne_iff hm n e).1 hov
      have hv : v = .inf n := by
        show f32 (BitVec.ofNat 32 r.1) = _
        rw [hr]
        exact (f32_infCode n).2
      exact ⟨by rw [hr]; exact (f32_infCode n).1, fun h => absurd hbig h.not_ge, fun _ => ⟨hv, by rw [hr]⟩⟩
    · have hsmall : |q| < (2 : ℚ) ^ 128 - 2 ^ 103 := by
        rw [abs_exactQ]; exact not_le.1 (mt (overflows_rne_iff hm n e).2 hov)
      obtain ⟨hlt, hpar, M, E, hv, hval⟩ := fp32_round_value hm hov (ulpRound_rne_le hm n e) (ulpRound_rne_normal hm n e)
      obtain ⟨-, hinx, -⟩ := fp32_round_finite hm hov
      have hME : exactQ n M E = exactQ n (ulpRound .rne n m e) (unitExp m e) := (exactQ_inj_iff ..).2 hval
      refine ⟨hlt, fun _ => ⟨M, E, hv, ?_, fun y n' m' e' hy => ?_⟩, fun h => absurd h hsmall.not_ge⟩
      · rw [hinx, hME, Ne, Ne, show q = exactQ n m e from rfl, exactQ_inj_iff, ← units_mul m e (unitExp m e),
          mul_left_inj' (two_zpow_pos _).ne']
      · obtain ⟨hm', he', -⟩ := f32_fin hy
        rw [hME, hpar]
        exact fp32_nearest hm n e hm' he'

end Sys2Proof.Numbers
end

section
/-! The FP32 operations: exact results, rounded once by rne; NaNs, zeros, minimum and maximum (R46, R47, R138). -/

namespace Sys2Proof.Numbers
open Sys2Proof Sys2Proof.Machine

/-! ## Exact sums and products -/

theorem signed_cast (n : Bool) (m : Nat) : ((signed n m : Int) : ℚ) = sgn n * m := by
  cases n <;> simp [signed, sgn]

/-- A signed magnitude brought to a lower exponent keeps its value. -/
theorem signed_aligned (n : Bool) (m : Nat) (e lo : Int) (h : lo ≤ e) :
    ((signed n (m * pow2 (e - lo)) : Int) : ℚ) * 2 ^ lo = exactQ n m e := by
  rw [signed_cast, Nat.cast_mul, pow2_cast (by omega), exactQ_eq, mul_assoc, mul_assoc, two_zpow_sub_mul]

theorem exactQ_of_int (x : Int) (e : Int) : exactQ (decide (x < 0)) x.natAbs e = x * 2 ^ e := by
  rw [exactQ_eq, ← mul_assoc, Nat.cast_natAbs, Int.cast_abs]
  congr 1
  rcases lt_or_ge x 0 with h | h
  · simp [sgn, h, abs_of_neg (show (x : ℚ) < 0 by exact_mod_cast h)]
  · simp [sgn, not_lt.2 h, abs_of_nonneg (show (0 : ℚ) ≤ x by exact_mod_cast h)]

/-- The sum of the aligned magnitudes. -/
def alignedSum (n : Bool) (m : Nat) (e : Int) (n' : Bool) (m' : Nat) (e' : Int) : Int :=
  signed n (m * pow2 (e - min e e')) + signed n' (m' * pow2 (e' - min e e'))

theorem alignedSum_value (n : Bool) (m : Nat) (e : Int) (n' : Bool) (m' : Nat) (e' : Int) :
    (alignedSum n m e n' m' e' : ℚ) * 2 ^ min e e' = exactQ n m e + exactQ n' m' e' := by
  rw [alignedSum, Int.cast_add, add_mul, signed_aligned _ _ _ _ (by omega), signed_aligned _ _ _ _ (by omega)]

theorem alignedSum_eq_zero_iff (n : Bool) (m : Nat) (e : Int) (n' : Bool) (m' : Nat) (e' : Int) :
    alignedSum n m e n' m' e' = 0 ↔ exactQ n m e + exactQ n' m' e' = 0 := by
  rw [← alignedSum_value, mul_eq_zero, or_iff_left (two_zpow_pos _).ne', Int.cast_eq_zero]

/-- An exact sum of 0 is +0 unless both operands are -0 (R47). -/
theorem addFin_zero {n : Bool} {m : Nat} {e : Int} {n' : Bool} {m' : Nat} {e' : Int} (h : exactQ n m e + exactQ n' m' e' = 0) :
    addFin n m e n' m' e' = .fin (n && n' && m == 0 && m' == 0) 0 (min e e') :=
  if_pos ((alignedSum_eq_zero_iff ..).2 h)

theorem addFin_ne_zero {n : Bool} {m : Nat} {e : Int} {n' : Bool} {m' : Nat} {e' : Int} (h : exactQ n m e + exactQ n' m' e' ≠ 0) :
    addFin n m e n' m' e' = .fin (alignedSum n m e n' m' e' < 0) (alignedSum n m e n' m' e').natAbs (min e e') :=
  if_neg (mt (alignedSum_eq_zero_iff ..).1 h)

theorem addFin_exact (n : Bool) (m : Nat) (e : Int) (n' : Bool) (m' : Nat) (e' : Int) :
    ∃ N M E, addFin n m e n' m' e' = .fin N M E ∧ exactQ N M E = exactQ n m e + exactQ n' m' e' := by
  by_cases h : exactQ n m e + exactQ n' m' e' = 0
  · exact ⟨_, _, _, addFin_zero h, by rw [h, exactQ_zero]⟩
  · exact ⟨_, _, _, addFin_ne_zero h, by rw [exactQ_of_int, alignedSum_value]⟩

theorem exactQ_not (n : Bool) (m : Nat) (e : Int) : exactQ (!n) m e = -exactQ n m e := by
  cases n <;> simp [exactQ]

theorem exactQ_mul (n : Bool) (m : Nat) (e : Int) (n' : Bool) (m' : Nat) (e' : Int) :
    exactQ (n != n') (m * m') (e + e') = exactQ n m e * exactQ n' m' e' := by
  rw [exactQ_eq, exactQ_eq, exactQ_eq, zpow_add₀ (by norm_num), Nat.cast_mul]
  cases n <;> cases n' <;> simp [sgn] <;> ring

/-! ## One rounding -/

/-- `r` is the value `q`, rounded once to FP32 by rne. -/
def RoundsOnce (r : Word × Flags) (q : ℚ) : Prop :=
  ∃ n m e, exactQ n m e = q ∧ r = (BitVec.ofNat 32 (fp32F.round .rne n m e false).1, (fp32F.round .rne n m e false).2)

theorem toF32_fin (n : Bool) (m : Nat) (e : Int) :
    toF32 (.fin n m e) 0 = (BitVec.ofNat 32 (fp32F.round .rne n m e false).1, (fp32F.round .rne n m e false).2) := by
  simp [toF32, FFmt.convert]

theorem toF32_nan (s : Bool) (fl : Flags) : toF32 (.nan s) fl = (canonNan, fl) := by
  simp [toF32, FFmt.convert, fp32F, canonNan]

theorem toF32_addFin (n : Bool) (m : Nat) (e : Int) (n' : Bool) (m' : Nat) (e' : Int) :
    RoundsOnce (toF32 (addFin n m e n' m' e') 0) (exactQ n m e + exactQ n' m' e') := by
  obtain ⟨N, M, E, h, hv⟩ := addFin_exact n m e n' m' e'
  exact ⟨N, M, E, hv, by rw [h, toF32_fin]⟩

section Finite
variable {a b c : Word} {n n' n'' : Bool} {m m' m'' : Nat} {e e' e'' : Int}

theorem fAdd_fin (ha : f32 a = .fin n m e) (hb : f32 b = .fin n' m' e') : fAdd a b = toF32 (addFin n m e n' m' e') 0 := by
  simp only [fAdd, ha, hb, addVal]

theorem fSub_fin (ha : f32 a = .fin n m e) (hb : f32 b = .fin n' m' e') : fSub a b = toF32 (addFin n m e (!n') m' e') 0 := by
  simp only [fSub, ha, hb, addVal, negVal]

theorem fMul_fin (ha : f32 a = .fin n m e) (hb : f32 b = .fin n' m' e') : fMul a b = toF32 (.fin (n != n') (m * m') (e + e')) 0 := by
  simp only [fMul, ha, hb, mulVal]

theorem fFma_fin (ha : f32 a = .fin n m e) (hb : f32 b = .fin n' m' e') (hc : f32 c = .fin n'' m'' e'') :
    fFma a b c = toF32 (addFin (n != n') (m * m') (e + e') n'' m'' e'') 0 := by
  simp only [fFma, ha, hb, hc, mulVal, addVal]
  rfl

theorem fAdd_rounds (ha : f32 a = .fin n m e) (hb : f32 b = .fin n' m' e') :
    RoundsOnce (fAdd a b) (exactQ n m e + exactQ n' m' e') := by
  rw [fAdd_fin ha hb]
  exact toF32_addFin ..

theorem fSub_rounds (ha : f32 a = .fin n m e) (hb : f32 b = .fin n' m' e') :
    RoundsOnce (fSub a b) (exactQ n m e - exactQ n' m' e') := by
  rw [fSub_fin ha hb, sub_eq_add_neg, ← exactQ_not]
  exact toF32_addFin ..

theorem fMul_rounds (ha : f32 a = .fin n m e) (hb : f32 b = .fin n' m' e') :
    RoundsOnce (fMul a b) (exactQ n m e * exactQ n' m' e') :=
  ⟨_, _, _, exactQ_mul .., by rw [fMul_fin ha hb, toF32_fin]⟩

theorem fFma_rounds (ha : f32 a = .fin n m e) (hb : f32 b = .fin n' m' e') (hc : f32 c = .fin n'' m'' e'') :
    RoundsOnce (fFma a b c) (exactQ n m e * exactQ n' m' e' + exactQ n'' m'' e'') := by
  rw [fFma_fin ha hb hc, ← exactQ_mul]
  exact toF32_addFin ..

theorem fAdd_zero_sum (ha : f32 a = .fin n m e) (hb : f32 b = .fin n' m' e') (h : exactQ n m e + exactQ n' m' e' = 0) :
    (fAdd a b).1 = if n = true ∧ m = 0 ∧ n' = true ∧ m' = 0 then 0x80000000 else 0 := by
  have hz : ∀ neg : Bool, BitVec.ofNat 32 (fp32F.encode neg 0 0) = if neg then (0x80000000 : Word) else 0 := by decide
  rw [fAdd_fin ha hb, addFin_zero h, toF32_fin, fp32_round_zero, hz]
  exact if_congr (by simp only [Bool.and_eq_true, beq_iff_eq]; tauto) rfl rfl

/-! ## Minimum and maximum -/

theorem valLt_fin (n : Bool) (m : Nat) (e : Int) (n' : Bool) (m' : Nat) (e' : Int) :
    valLt (.fin n m e) (.fin n' m' e') = true ↔ exactQ n m e < exactQ n' m' e' := by
  rw [valLt, decide_eq_true_eq, ← signed_aligned n m e (min e e') (by omega), ← signed_aligned n' m' e' (min e e') (by omega),
    mul_lt_mul_iff_left₀ (two_zpow_pos _), Int.cast_lt]

/-- The order in which minimum and maximum take two finite operands: by value, -0 below +0. -/
theorem fMinMax_fin (ha : f32 a = .fin n m e) (hb : f32 b = .fin n' m' e') (lesser : Bool) :
    (fMinMax lesser a b).1 =
      if (exactQ n m e < exactQ n' m' e' ∨ (¬ exactQ n' m' e' < exactQ n m e ∧ n = true ∧ n' = false) ↔ lesser = true) then a else b := by
  simp only [fMinMax, ha, hb, isNan, isNeg, Bool.or_self, Bool.false_eq_true, if_false]
  congr 1
  rw [← valLt_fin, ← valLt_fin, Bool.eq_iff_iff]
  simp only [Bool.or_eq_true, Bool.and_eq_true, Bool.not_eq_true', Bool.not_eq_true, and_assoc]

theorem fMinMax_lt (ha : f32 a = .fin n m e) (hb : f32 b = .fin n' m' e') (h : exactQ n m e < exactQ n' m' e') :
    (fMinMax true a b).1 = a ∧ (fMinMax false a b).1 = b := by
  simp [fMinMax_fin ha hb, h]

theorem fMinMax_gt (ha : f32 a = .fin n m e) (hb : f32 b = .fin n' m' e') (h : exactQ n m e > exactQ n' m' e') :
    (fMinMax true a b).1 = b ∧ (fMinMax false a b).1 = a := by
  simp [fMinMax_fin ha hb, gt_iff_lt.1 h, (gt_iff_lt.1 h).not_gt]

theorem fMinMax_zeros (ha : f32 a = .fin n m e) (hb : f32 b = .fin n' m' e') (hm : m = 0) (hm' : m' = 0) (hn : n = true)
    (hn' : n' = false) : (fMinMax true a b).1 = a ∧ (fMinMax false a b).1 = b := by
  simp [fMinMax_fin ha hb, hm, hm', hn, hn']

end Finite

/-! ## NaNs and infinities -/

theorem addVal_nan (v w : FVal) (h : (isNan v || isNan w) = true) : addVal v w = (.nan false, snanFlag [v, w]) := by
  cases v <;> cases w <;> simp_all [isNan, addVal]

theorem mulVal_nan (v w : FVal) (h : (isNan v || isNan w) = true) : mulVal v w = (.nan false, snanFlag [v, w]) := by
  cases v <;> cases w <;> simp_all [isNan, mulVal]

theorem snanFlag_pair (v w : FVal) : snanFlag [v, w] = if isSnan v = true ∨ isSnan w = true then fInvalid else 0 := by
  simp [snanFlag]

theorem isNan_negVal (v : FVal) : isNan (negVal v) = isNan v := by cases v <;> rfl
theorem isSnan_negVal (v : FVal) : isSnan (negVal v) = isSnan v := by cases v <;> rfl

/-- A NaN operand gives the canonical NaN, with invalid where an operand is a signalling one (R46). -/
theorem float_nan (a b : Word) (h : (isNan (f32 a) || isNan (f32 b)) = true) :
    let fl : Flags := if isSnan (f32 a) ∨ isSnan (f32 b) then fInvalid else 0
    fAdd a b = (canonNan, fl) ∧ fSub a b = (canonNan, fl) ∧ fMul a b = (canonNan, fl) ∧
    fMinMax true a b = (canonNan, fl) ∧ fMinMax false a b = (canonNan, fl) := by
  have hneg : (isNan (f32 a) || isNan (negVal (f32 b))) = true := by rwa [isNan_negVal]
  refine ⟨?_, ?_, ?_, ?_, ?_⟩
  · rw [fAdd, addVal_nan _ _ h, toF32_nan, snanFlag_pair]
  · rw [fSub, addVal_nan _ _ hneg, toF32_nan, snanFlag_pair, isSnan_negVal]
  · rw [fMul, mulVal_nan _ _ h, toF32_nan, snanFlag_pair]
  · rw [fMinMax, if_pos h, snanFlag_pair]
  · rw [fMinMax, if_pos h, snanFlag_pair]

/-- Infinity times zero is invalid, also under the addition of VFMA (R138). -/
theorem inf_mul_zero {a b : Word} (c : Word) {n n' : Bool} {m : Nat} {e : Int} (ha : f32 a = .inf n) (hb : f32 b = .fin n' m e)
    (hm : m = 0) : fMul a b = (canonNan, fInvalid) ∧ (fFma a b c).1 = canonNan ∧ (fFma a b c).2.getLsbD 0 = true := by
  have hp : mulVal (f32 a) (f32 b) = (.nan false, fInvalid) := by rw [ha, hb, mulVal, if_pos hm]
  have hf : fFma a b c = (canonNan, fInvalid ||| snanFlag [.nan false, f32 c]) := by
    rw [fFma, hp, addVal_nan _ _ rfl, toF32_nan]
  refine ⟨by rw [fMul, hp, toF32_nan], by rw [hf], ?_⟩
  rw [hf, BitVec.getLsbD_or]
  rfl

/-- Settles O16: exact sums and products of aligned magnitudes, rounded once. -/
theorem floatOperationsAreExactThenRounded : Obligations.FloatOperationsAreExactThenRounded := by
  intro a b c rounds
  refine ⟨fun n m e n' m' e' n'' m'' e'' ha hb hc => ⟨fAdd_rounds ha hb, fSub_rounds ha hb, fMul_rounds ha hb, fFma_rounds ha hb hc,
    fAdd_zero_sum ha hb, fMinMax_lt ha hb, fMinMax_gt ha hb, fMinMax_zeros ha hb⟩,
    float_nan a b, fun n ha m e n' hb hm => inf_mul_zero c ha hb hm⟩

end Sys2Proof.Numbers
end

section
/-! Conversions to integers, and from bf16 and fp16 (R52, R140). -/

namespace Sys2Proof.Numbers
open Sys2Proof Sys2Proof.Machine

/-! ## The integer that a mode chooses -/

/-- The integer that rounding with a mode gives. -/
def intRound (md : Rnd) (n : Bool) (m : Nat) (e : Int) : Int := signed n (roundAt md n m e false 0).q

theorem exactQ_units (n : Bool) (m : Nat) (e : Int) : exactQ n m e = sgn n * units m e 0 := by
  rw [exactQ_eq, units, sub_zero]

theorem intRound_false (md : Rnd) (m : Nat) (e : Int) : intRound md false m e = ((roundAt md false m e false 0).q : Int) := rfl
theorem intRound_true (md : Rnd) (m : Nat) (e : Int) : intRound md true m e = -((roundAt md true m e false 0).q : Int) := rfl

theorem intRound_rdn (n : Bool) (m : Nat) (e : Int) : intRound .rdn n m e = ⌊exactQ n m e⌋ := by
  have h := units_nonneg m e 0
  rw [exactQ_units]
  cases n
  · rw [intRound_false, roundAt_rdn, if_neg (by decide), sgn_false, one_mul, Int.natCast_floor_eq_floor h]
  · rw [intRound_true, roundAt_rdn, if_pos rfl, sgn_true, neg_one_mul, Int.floor_neg, Int.natCast_ceil_eq_ceil h]

theorem intRound_rup (n : Bool) (m : Nat) (e : Int) : intRound .rup n m e = ⌈exactQ n m e⌉ := by
  have h := units_nonneg m e 0
  rw [exactQ_units]
  cases n
  · rw [intRound_false, roundAt_rup, if_neg (by decide), sgn_false, one_mul, Int.natCast_ceil_eq_ceil h]
  · rw [intRound_true, roundAt_rup, if_pos rfl, sgn_true, neg_one_mul, Int.ceil_neg, Int.natCast_floor_eq_floor h]

theorem intRound_rtz (n : Bool) (m : Nat) (e : Int) :
    intRound .rtz n m e = if exactQ n m e < 0 then ⌈exactQ n m e⌉ else ⌊exactQ n m e⌋ := by
  have h := units_nonneg m e 0
  rw [exactQ_units]
  cases n
  · rw [intRound_false, roundAt_rtz, sgn_false, one_mul, if_neg h.not_gt, Int.natCast_floor_eq_floor h]
  · rw [intRound_true, roundAt_rtz, sgn_true, neg_one_mul, Int.ceil_neg, Int.floor_neg, Int.natCast_floor_eq_floor h]
    split
    · rfl
    · rw [le_antisymm (by linarith) h, Int.floor_zero, Int.ceil_zero]

/-- The integer differs from the value by what the magnitudes differ by. -/
theorem abs_intRound_sub (md : Rnd) (n : Bool) (m : Nat) (e : Int) :
    |(intRound md n m e : ℚ) - exactQ n m e| = |((roundAt md n m e false 0).q : ℚ) - units m e 0| := by
  rw [intRound, signed_cast, exactQ_units, ← mul_sub, abs_mul, abs_sgn, one_mul]

theorem intRound_eq_iff (md : Rnd) (n : Bool) (m : Nat) (e : Int) :
    (intRound md n m e : ℚ) = exactQ n m e ↔ (roundAt md n m e false 0).inexact ≠ true := by
  rw [Ne, roundAt_inexact, not_not, ← sub_eq_zero, ← abs_eq_zero, abs_intRound_sub, abs_eq_zero, sub_eq_zero]

theorem signed_emod_two (n : Bool) (q : Nat) (h : q % 2 = 0) : signed n q % 2 = 0 := by
  cases n <;> simp only [signed, if_true, Bool.false_eq_true, if_false] <;> omega

/-- rne gives an integer within half, the even one on a tie. -/
theorem intRound_rne (n : Bool) (m : Nat) (e : Int) :
    |(intRound .rne n m e : ℚ) - exactQ n m e| ≤ 1 / 2 ∧
    (|(intRound .rne n m e : ℚ) - exactQ n m e| = 1 / 2 → intRound .rne n m e % 2 = 0) := by
  rw [abs_intRound_sub]
  obtain ⟨hle, heven⟩ := roundAt_rne n m e 0
  exact ⟨hle, fun h => signed_emod_two n _ (heven h)⟩

theorem intRound_rne_near (n : Bool) (m : Nat) (e : Int) (z : Int) (h : |(z : ℚ) - exactQ n m e| < 1 / 2) : intRound .rne n m e = z := by
  have h1 := (intRound_rne n m e).1
  have h2 : |((intRound .rne n m e - z : Int) : ℚ)| < 1 := by
    rw [Int.cast_sub]
    calc _ ≤ |(intRound .rne n m e : ℚ) - exactQ n m e| + |exactQ n m e - z| := abs_sub_le _ _ _
      _ < 1 := by rw [abs_sub_comm _ (z : ℚ)]; linarith
  have h3 : |intRound .rne n m e - z| < 1 := by exact_mod_cast h2
  rw [Int.abs_lt_one_iff] at h3
  omega

theorem intRound_rne_tie (n : Bool) (m : Nat) (e : Int) (z : Int) (h : 2 * exactQ n m e = 2 * z + 1) :
    intRound .rne n m e = if z % 2 = 0 then z else z + 1 := by
  obtain ⟨hle, heven⟩ := intRound_rne n m e
  rw [show exactQ n m e = z + 1 / 2 by linarith] at hle heven
  generalize intRound .rne n m e = k at *
  obtain ⟨hl, hu⟩ := abs_le.1 hle
  have hk : k = z ∨ k = z + 1 := by
    have h1 : (z : ℚ) ≤ k := by linarith
    have h2 : (k : ℚ) ≤ (z + 1 : Int) := by push_cast; linarith
    have h1 := Int.cast_le.1 h1
    have h2 := Int.cast_le.1 h2
    omega
  have hev : k % 2 = 0 := by
    refine heven ?_
    rcases hk with rfl | rfl
    · rw [show (k : ℚ) - (k + 1 / 2) = -(1 / 2) by ring, abs_neg, abs_of_pos (by norm_num)]
    · push_cast
      rw [show (z : ℚ) + 1 - (z + 1 / 2) = 1 / 2 by ring, abs_of_pos (by norm_num)]
  split <;> omega

/-! ## Saturation -/

theorem convInt_fin (lo hi : Int) (md : Rnd) (n : Bool) (m : Nat) (e : Int) :
    convInt lo hi md (.fin n m e) =
      if intRound md n m e < lo then (lo, fInvalid) else if hi < intRound md n m e then (hi, fInvalid)
      else (intRound md n m e, if (intRound md n m e : ℚ) = exactQ n m e then 0 else fInexact) := by
  have hx : (if (roundAt md n m e false 0).inexact then fInexact else 0) =
      if (intRound md n m e : ℚ) = exactQ n m e then 0 else fInexact := by
    rw [← ite_not]
    exact if_congr (by rw [intRound_eq_iff]) rfl rfl
  rw [← hx]
  rfl

theorem vcvt_zero (md : Rnd) (x : Word) :
    vcvt 0 md x = (BitVec.ofInt 32 (convInt (-2 ^ 31) (2 ^ 31 - 1) md (f32 x)).1, (convInt (-2 ^ 31) (2 ^ 31 - 1) md (f32 x)).2) := rfl
theorem vcvt_one (md : Rnd) (x : Word) :
    vcvt 1 md x = (BitVec.ofInt 32 (convInt 0 (2 ^ 32 - 1) md (f32 x)).1, (convInt 0 (2 ^ 32 - 1) md (f32 x)).2) := rfl

/-- Conversion to a signed integer: the chosen one, or the end of the range with invalid. -/
theorem vcvt_signed {x : Word} {n : Bool} {m : Nat} {e : Int} (h : f32 x = .fin n m e) {md : Rnd} {z : Int} (hz : intRound md n m e = z) :
    (-2 ^ 31 ≤ z → z < 2 ^ 31 → (vcvt 0 md x).1.toInt = z ∧ (vcvt 0 md x).2 = if (z : ℚ) = exactQ n m e then 0 else fInexact) ∧
    (z < -2 ^ 31 → vcvt 0 md x = (0x80000000, fInvalid)) ∧ (2 ^ 31 ≤ z → vcvt 0 md x = (0x7FFFFFFF, fInvalid)) := by
  rw [vcvt_zero, h, convInt_fin, hz]
  refine ⟨fun hl hu => ?_, fun hl => ?_, fun hu => ?_⟩
  · rw [if_neg (by omega), if_neg (by omega)]
    exact ⟨by rw [BitVec.toInt_ofInt, Int.bmod_eq_of_le (by omega) (by omega)], rfl⟩
  · rw [if_pos hl]
    rfl
  · rw [if_neg (by omega), if_pos (by omega)]
    rfl

/-- Conversion to an unsigned integer. -/
theorem vcvt_unsigned {x : Word} {n : Bool} {m : Nat} {e : Int} (h : f32 x = .fin n m e) {md : Rnd} {z : Int} (hz : intRound md n m e = z) :
    (0 ≤ z → z < 2 ^ 32 → ((vcvt 1 md x).1.toNat : Int) = z ∧ (vcvt 1 md x).2 = if (z : ℚ) = exactQ n m e then 0 else fInexact) ∧
    (z < 0 → vcvt 1 md x = (0, fInvalid)) ∧ (2 ^ 32 ≤ z → vcvt 1 md x = (0xFFFFFFFF, fInvalid)) := by
  rw [vcvt_one, h, convInt_fin, hz]
  refine ⟨fun hl hu => ?_, fun hl => ?_, fun hu => ?_⟩
  · rw [if_neg (by omega), if_neg (by omega)]
    exact ⟨by rw [BitVec.toNat_ofInt]; omega, rfl⟩
  · rw [if_pos hl]
    rfl
  · rw [if_neg (by omega), if_pos (by omega)]
    rfl

/-! ## Exact conversions to FP32 -/

/-- A value that FP32 has is converted exactly, by every mode, and raises nothing. -/
theorem fp32_round_exact (md : Rnd) (n : Bool) {m : Nat} {e : Int} (hm : m < 2 ^ 24) (he : -149 ≤ e)
    (hmax : (m : ℚ) * 2 ^ e ≤ ((2 ^ 24 - 1 : Nat) : ℚ) * 2 ^ (104 : Int)) :
    let r := fp32F.round md n m e false
    ∃ m' e', f32 (BitVec.ofNat 32 r.1) = .fin n m' e' ∧ exactQ n m' e' = exactQ n m e ∧ r.2 = 0 := by
  intro r
  rcases eq_or_ne m 0 with rfl | h0
  · have hr : r = (fp32F.encode n 0 0, 0) := fp32_round_zero n md e
    rw [hr]
    exact ⟨0, -149, (fp32_zeroCode n).2, by simp, rfl⟩
  · have hlog : m.log2 < 24 := (Nat.log2_lt h0).2 hm
    have hE : unitExp m e ≤ e := by simp only [unitExp, ulpExp]; omega
    have hq : ulpRound md n m e = m * pow2 (e - unitExp m e) := by rw [ulpRound, roundAt, if_pos hE]
    have hu : (ulpRound md n m e : ℚ) = units m e (unitExp m e) := by
      rw [hq, Nat.cast_mul, pow2_cast (by omega), units]
    have hov : ¬ Overflows md n m e := by
      rw [Overflows, hu, units_mul]
      exact hmax.not_gt
    have hlt : ulpRound md n m e < 2 ^ 24 := by
      have := units_unitExp_lt h0 e
      rw [← hu] at this
      exact_mod_cast this
    have hn : unitExp m e = -149 ∨ 2 ^ 23 ≤ ulpRound md n m e := by
      refine (unitExp_normal h0 e).imp_right fun h => ?_
      rw [← hu] at h
      exact_mod_cast h
    obtain ⟨-, -, M, E, hv, hval⟩ := fp32_round_value h0 hov hlt.le hn
    exact ⟨M, E, hv, by rw [exactQ_inj_iff, hval, hu, units_mul], (fp32_round_finite h0 hov).2.2 hu⟩

/-- A magnitude of a precision and exponents no greater than FP32's lies in its range. -/
theorem le_fp32_max {m p : Nat} {e u : Int} (hm : m < 2 ^ p) (he : e ≤ u)
    (h : ((2 ^ p - 1 : Nat) : ℚ) * 2 ^ u ≤ ((2 ^ 24 - 1 : Nat) : ℚ) * 2 ^ (104 : Int)) :
    (m : ℚ) * 2 ^ e ≤ ((2 ^ 24 - 1 : Nat) : ℚ) * 2 ^ (104 : Int) :=
  le_trans (mul_le_mul (by exact_mod_cast Nat.le_sub_one_of_lt hm) (zpow_le_zpow_right₀ (by norm_num) he) (two_zpow_pos _).le
    (by positivity)) h

theorem snanFlag_fin (n : Bool) (m : Nat) (e : Int) : snanFlag [.fin n m e] = 0 := rfl

/-- A finite value of a narrower format is converted exactly, and raises nothing. -/
theorem fp32_convert_narrow (md : Rnd) {v : FVal} {n : Bool} {m p : Nat} {e u : Int} (hv : v = .fin n m e) (hm : m < 2 ^ p) (hp : p ≤ 24)
    (hl : -149 ≤ e) (hu : e ≤ u) (hmax : ((2 ^ p - 1 : Nat) : ℚ) * 2 ^ u ≤ ((2 ^ 24 - 1 : Nat) : ℚ) * 2 ^ (104 : Int)) :
    let r := fp32F.convert md v
    ∃ m' e', f32 (BitVec.ofNat 32 r.1) = .fin n m' e' ∧ exactQ n m' e' = exactQ n m e ∧ r.2 ||| snanFlag [v] = 0 := by
  subst hv
  obtain ⟨m', e', hf, hq, h0⟩ := fp32_round_exact md n (hm.trans_le (Nat.pow_le_pow_right (by norm_num) hp)) hl (le_fp32_max hm hu hmax)
  refine ⟨m', e', hf, hq, ?_⟩
  rw [FFmt.convert, h0, snanFlag_fin]
  rfl

theorem vcvt_bf16 (md : Rnd) (x : Word) {n : Bool} {m : Nat} {e : Int} (h : bf16F.decode (x.toNat % 65536) = .fin n m e) :
    ∃ m' e', f32 (vcvt 6 md x).1 = .fin n m' e' ∧ exactQ n m' e' = exactQ n m e ∧ (vcvt 6 md x).2 = 0 := by
  obtain ⟨hm, hl, hu⟩ := decode_fin rfl (by decide) h
  simp only [bf16F] at hm hl hu
  exact fp32_convert_narrow md (p := 8) (u := 120) h (by omega) (by norm_num) (by omega) (by omega) (by norm_num)

theorem vcvt_fp16 (md : Rnd) (x : Word) {n : Bool} {m : Nat} {e : Int} (h : fp16F.decode (x.toNat % 65536) = .fin n m e) :
    ∃ m' e', f32 (vcvt 7 md x).1 = .fin n m' e' ∧ exactQ n m' e' = exactQ n m e ∧ (vcvt 7 md x).2 = 0 := by
  obtain ⟨hm, hl, hu⟩ := decode_fin rfl (by decide) h
  simp only [fp16F] at hm hl hu
  exact fp32_convert_narrow md (p := 11) (u := 5) h (by omega) (by norm_num) (by omega) (by omega) (by norm_num)

theorem integerConversions_rule : ruleIntegerConversions := by
  intro x
  refine ⟨fun n m e hx => ?_, fun b md hx => ?_, fun md n m e => vcvt_bf16 md x, fun md n m e => vcvt_fp16 md x⟩
  · intro q chosen
    have chose : ∀ {md z}, intRound md n m e = z → chosen md z := fun hz => by
      obtain ⟨s1, s2, s3⟩ := vcvt_signed hx hz
      exact ⟨s1, s2, s3, vcvt_unsigned hx hz⟩
    exact ⟨chose (intRound_rdn n m e), chose (intRound_rup n m e), chose (intRound_rtz n m e),
      fun z hz => chose (intRound_rne_near n m e z hz), fun z hz => chose (intRound_rne_tie n m e z hz)⟩
  · rw [vcvt_zero, vcvt_one, hx]
    exact ⟨rfl, rfl⟩

end Sys2Proof.Numbers
end

section
/-! Vector results with flags and draws of the generator: VCVT, VQNT and VDQNT (R49, R51, R130, R140, R141). -/

namespace Sys2Proof.Numbers
open Sys2Proof Sys2Proof.Machine

theorem exec_vcvt (d a : Fin 128) (c : Fin 16) (r : Fin 8) (s : State) : exec (.vcvt d a c r) s = execVcvt d a c r s := rfl
theorem exec_vqnt (d a b : Fin 128) (s : State) : exec (.vqnt d a b) s = execVqnt d a b s := rfl
theorem exec_vdqnt (d a b : Fin 128) (s : State) : exec (.vdqnt d a b) s = execVdqnt d a b s := rfl

/-! ## Flags of the lanes of exec (R49) -/

/-! The empty set of flags is written `0`, not `0#5`. -/

theorem flags_zero_or (a : Flags) : 0 ||| a = a := BitVec.zero_or
theorem flags_or_zero (a : Flags) : a ||| 0 = a := BitVec.or_zero

/-- Flags gathered over a list, from any start. -/
theorem foldl_flags_start {α : Type} (xs : List α) (f : α → Flags) (a : Flags) :
    xs.foldl (fun x l => x ||| f l) a = a ||| xs.foldl (fun x l => x ||| f l) 0 := by
  induction xs generalizing a with
  | nil => simp
  | cons l r ih => rw [List.foldl_cons, List.foldl_cons, ih, ih (0 ||| f l), flags_zero_or, BitVec.or_assoc]

theorem foldl_flags_or {α : Type} (xs : List α) (f g : α → Flags) :
    xs.foldl (fun x l => x ||| (f l ||| g l)) 0 = xs.foldl (fun x l => x ||| f l) 0 ||| xs.foldl (fun x l => x ||| g l) 0 := by
  induction xs with
  | nil => simp
  | cons l r ih =>
    simp only [List.foldl_cons, flags_zero_or]
    rw [foldl_flags_start r _ (f l ||| g l), foldl_flags_start r _ (f l), foldl_flags_start r _ (g l), ih]
    ac_rfl

theorem execFlags_or (s : State) (f g : Nat → Flags) : execFlags s (fun l => f l ||| g l) = execFlags s f ||| execFlags s g :=
  foldl_flags_or _ f g

theorem execFlags_zero (s : State) : execFlags s (fun _ => 0) = 0 := by
  rw [execFlags]
  induction maskLanes s.csp.exec with
  | nil => rfl
  | cons l r ih => rw [List.foldl_cons, flags_or_zero, ih]

/-- A lane of a flag-raising vector result. -/
def activeLane (s : State) (f : Nat → Word × Flags) (l : Nat) : Word × Flags :=
  if l < 32 ∧ s.csp.exec.getLsbD l = true then f l else (0, 0)

/-- A flag-raising vector result writes the lanes of exec and raises their flags. -/
theorem wrVF_eq (s : State) (r : Nat) (f : Nat → Word × Flags) :
    s.wrVF r f = (s.wrV r fun l => (activeLane s f l).1).orFlags (execFlags s fun l => (f l).2) := by
  have hx : ∀ l, (lanes.map fun l => if s.csp.exec.getLsbD l then f l else (0, 0)).getD l (0, 0) = activeLane s f l := by
    intro l
    rw [activeLane, lanes, List.getD_eq_getElem?_getD, List.getElem?_map]
    by_cases hl : l < 32
    · simp [hl]
    · simp [hl]
  have hf : (lanes.map fun l => if s.csp.exec.getLsbD l then f l else (0, 0)).foldl (fun (a : Flags) p => a ||| p.2) 0 =
      execFlags s fun l => (f l).2 := by
    rw [List.foldl_map, execFlags, maskLanes, List.foldl_filter]
    congr 1
    funext a l
    by_cases h : s.csp.exec.getLsbD l = true
    · simp [h]
    · simp [h]
  simp only [State.wrVF, hx, hf]

/-! ## Results before the instruction goes on -/

/-- `t` is `s` with vector results written, and their flags raised: the instruction has not gone on yet. -/
structure Wrote (s t : State) (W : Dest → Prop) (val : Dest → DWord) (fl : Flags) : Prop where
  results : Results s t W val 4
  flags : t.cw.fxf = s.cw.fxf ||| fl
  poison : PoisonClears s t W
  ctr : t.cw.ctr = s.cw.ctr
  wave : WaveBut s t
  only : OnlyWave s t
  splits : t.cw.splits = s.cw.splits
  next : t.cw.nextIssue = s.cw.nextIssue
  cyc : t.cyc = s.cyc
  rows : t.cw.v.length = s.cw.v.length

theorem Wrote.nothing (s : State) (W : Dest → Prop) (hW : ∀ r, ¬ W r) (val : Dest → DWord) : Wrote s s W val 0 where
  results := ⟨fun d h => absurd h (hW d), fun _ _ _ _ _ => rfl, fun _ _ _ _ => rfl⟩
  flags := by simp
  poison := ⟨fun p => by simp [hW], fun k _ => by simp [hW], fun k => by simp [hW]⟩
  ctr := rfl
  wave := rfl
  only := OnlyWave.refl s
  splits := rfl
  next := rfl
  cyc := rfl
  rows := rfl

theorem Wrote.csp {s t : State} {W : Dest → Prop} {val : Dest → DWord} {fl : Flags} (h : Wrote s t W val fl) : t.csp = s.csp := by
  rw [State.csp_eq, State.csp_eq, h.splits, h.only.cur]

theorem WaveBut.trans {s t u : State} (h : WaveBut s t) (k : WaveBut t u) : WaveBut s u := by
  unfold WaveBut at *
  rw [← h, ← k]

/-- Results follow one another where the later ones are of other registers. -/
theorem Results.union {s t u : State} {W V U : Dest → Prop} {val val' : Dest → DWord} (h : Results s t W val 4) (k : Results t u V val' 4)
    (hc : t.cyc = s.cyc) (hU : ∀ d, U d ↔ W d ∨ V d) (hdisj : ∀ d, W d → ¬ V d) (hval : ∀ d, V d → val d = val' d) :
    Results s u U val 4 := by
  refine ⟨fun d hd c h4 => ?_, fun d hd c h0 h4 => ?_, fun d hd c h0 => ?_⟩
  · by_cases hv : V d
    · rw [k.result d hv c (by omega), hval d hv]
    · rw [k.kept d hv c (by omega)]
      exact h.result d (((hU d).1 hd).resolve_right hv) c h4
  · by_cases hv : V d
    · rw [k.early d hv c (by omega) (by omega)]
      exact h.kept d (fun hw => hdisj d hw hv) c h0
    · rw [k.kept d hv c (by omega)]
      exact h.early d (((hU d).1 hd).resolve_right hv) c h0 h4
  · rw [hU, not_or] at hd
    rw [k.kept d hd.2 c (by omega), h.kept d hd.1 c h0]

theorem PoisonClears.union {s t u : State} {W V U : Dest → Prop} (h : PoisonClears s t W) (k : PoisonClears t u V)
    (hU : ∀ d, U d ↔ W d ∨ V d) : PoisonClears s u U := by
  refine ⟨fun p => ?_, fun i hi => ?_, fun i => ?_⟩
  · rw [k.lanes, h.lanes, hU, not_or, and_assoc]
  · rw [k.scalars i hi, h.scalars i hi, hU, not_or, and_assoc]
  · rw [k.masks, h.masks, hU, not_or, and_assoc]

/-- One more vector result, of a register that has none yet. -/
theorem Wrote.wrVF {s t : State} {W U : Dest → Prop} {val : Dest → DWord} {fl : Flags} (h : Wrote s t W val fl) (r : Nat)
    (f : Nat → Word × Flags) (hr : r < s.cw.v.length) (hW : ∀ l, ¬ W (.v r l)) (hU : ∀ d, U d ↔ W d ∨ ExecLanes s r d)
    (hval : ∀ l, l < 32 → val (.v r l) = BitVec.ofNat 64 (f l).1.toNat) :
    Wrote s (t.wrVF r f) U val (fl ||| execFlags s fun l => (f l).2) := by
  have hsp := h.csp
  have hx : ExecLanes t r = ExecLanes s r := by unfold ExecLanes; rw [hsp]
  have hf : execFlags t (fun l => (f l).2) = execFlags s fun l => (f l).2 := by rw [execFlags, execFlags, hsp]
  have hres := t.wrV_results r (fun l => (activeLane t f l).1) (by rw [h.rows]; exact hr)
  rw [hx] at hres
  have hpo := t.wrV_poison r fun l => (activeLane t f l).1
  rw [hx] at hpo
  rw [wrVF_eq, hf]
  refine ⟨?_, ?_, ?_, ?_, ?_, ?_, ?_, ?_, ?_, ?_⟩
  · refine Results.union h.results (V := ExecLanes s r) (val' := laneOf fun l => (activeLane t f l).1.toNat) ?_ h.cyc hU ?_ ?_
    · have hreg : ∀ c d, ((t.wrV r fun l => (activeLane t f l).1).orFlags (execFlags s fun l => (f l).2)).regAt c d =
          (t.wrV r fun l => (activeLane t f l).1).regAt c d := fun c d =>
        State.regAt_congr (by simp [State.orFlags]) (by simp [State.orFlags]) (by simp [State.orFlags]) (by simp [State.orFlags]) c d
      exact ⟨fun d hd c hc => (hreg c d).trans (hres.result d hd c hc), fun d hd c hc h4 => (hreg c d).trans (hres.early d hd c hc h4),
        fun d hd c hc => (hreg c d).trans (hres.kept d hd c hc)⟩
    · rintro d hw ⟨l, -, -, rfl⟩
      exact hW l hw
    · rintro d ⟨l, hl, he, rfl⟩
      rw [hval l hl, laneOf, activeLane, if_pos ⟨hl, by rw [hsp]; exact he⟩]
  · simp [State.orFlags, State.wrV, State.wrVIn, h.flags, BitVec.or_assoc]
  · refine PoisonClears.union h.poison (V := ExecLanes s r) ⟨fun p => ?_, fun k hk => ?_, fun k => ?_⟩ hU
    · rw [← hpo.lanes]; simp [State.orFlags]
    · rw [← hpo.scalars k hk]; simp [State.orFlags]
    · rw [← hpo.masks]; simp [State.orFlags]
  · simp [State.orFlags, State.wrV, State.wrVIn, h.ctr]
  · refine WaveBut.trans h.wave ?_
    unfold WaveBut
    simp [State.orFlags, State.wrV, State.wrVIn, Wave.putRow]
  · exact h.only.trans (OnlyWave.trans (by unfold State.wrV State.wrVIn; exact OnlyWave.modW t _) (OnlyWave.modW _ _))
  · simp [State.orFlags, State.wrV, State.wrVIn, h.splits]
  · simp [State.orFlags, State.wrV, State.wrVIn, h.next]
  · simp [State.orFlags, State.wrV, State.wrVIn, h.cyc]
  · simp [State.orFlags, State.wrV, State.wrVIn, h.rows]

/-! ## Calls of the generator (R51, R153) -/

/-- The counter after `n` calls: its low half counts. -/
theorem counter_bump (c : BitVec 128) (n : Nat) :
    ((c >>> 64) <<< 64 ||| (c.setWidth 64 + BitVec.ofNat 64 n : DWord).setWidth 128 : BitVec 128) =
      BitVec.ofNat 128 (c.toNat / 2 ^ 64 * 2 ^ 64 + (c.toNat + n) % 2 ^ 64) := by
  have hc := c.isLt
  apply BitVec.eq_of_toNat_eq
  have hhigh : ((c >>> 64) <<< 64).toNat = (c.toNat / 2 ^ 64) <<< 64 := by
    rw [BitVec.toNat_shiftLeft, BitVec.toNat_ushiftRight, Nat.shiftRight_eq_div_pow, Nat.shiftLeft_eq]
    omega
  have hlow : ((c.setWidth 64 + BitVec.ofNat 64 n : DWord).setWidth 128).toNat = (c.toNat + n) % 2 ^ 64 := by
    rw [BitVec.toNat_setWidth, BitVec.toNat_add, BitVec.toNat_setWidth, BitVec.toNat_ofNat, ← Nat.add_mod]
    omega
  rw [BitVec.toNat_or, hhigh, hlow, ← Nat.shiftLeft_add_eq_or_of_lt (Nat.mod_lt _ (by norm_num)), Nat.shiftLeft_eq, BitVec.toNat_ofNat]
  omega

theorem laneBlock_zero (W : Wave) (l : Nat) : W.laneBlock l 0 = rngBlock (W.key.toList.getD l 0) (W.ctr.toList.getD l 0) := by
  rw [Wave.laneBlock, counter_bump, Nat.add_zero, Nat.div_add_mod', BitVec.ofNat_toNat, BitVec.setWidth_eq]

theorem Draws.bump {s t : State} (e : Word) (n : Nat) (h : t.cw.ctr = s.cw.ctr) : Draws s (t.modW fun W => W.bump e n) e n := by
  intro i hi
  rw [State.cw_modW, Wave.bump, Vector.toList_ofFn, List.getD_eq_getElem?_getD, List.getElem?_ofFn, dif_pos hi, h]
  simp only [Option.getD_some, counter_bump]

/-- The results stand, the lanes of exec make a call where the mode is srn, and the instruction goes on. -/
theorem Wrote.fixed {s t : State} {W : Dest → Prop} {val : Dest → DWord} {fl : Flags} (h : Wrote s t W val fl)
    (srn : Prop) [Decidable srn] :
    Fixed s (if srn then t.modW fun W => W.bump s.csp.exec 1 else t).retire W val 4 fl (if srn then 1 else 0) := by
  split
  · have hreg : ∀ c d, (t.modW fun W => W.bump s.csp.exec 1).regAt c d = t.regAt c d := fun c d =>
      State.regAt_congr (by simp [Wave.bump]) (by simp [Wave.bump]) (by simp [Wave.bump]) (by simp [Wave.bump]) c d
    refine Fixed.retire ⟨fun d hd c hc => ?_, fun d hd c hc h4 => ?_, fun d hd c hc => ?_⟩ (by simpa [Wave.bump] using h.flags) ?_
      (Draws.bump s.csp.exec 1 h.ctr) ?_ (h.only.trans (OnlyWave.modW t _)) (by simpa [Wave.bump] using h.splits)
      (by simpa [Wave.bump] using h.next) (by simpa using h.cyc)
    · exact (hreg c d).trans (h.results.result d hd c hc)
    · exact (hreg c d).trans (h.results.early d hd c hc h4)
    · exact (hreg c d).trans (h.results.kept d hd c hc)
    · exact ⟨fun p => by simpa [Wave.bump] using h.poison.lanes p, fun k hk => by simpa [Wave.bump] using h.poison.scalars k hk,
        fun k => by simpa [Wave.bump] using h.poison.masks k⟩
    · refine WaveBut.trans h.wave ?_
      unfold WaveBut
      simp [Wave.bump]
  · exact Fixed.retire h.results h.flags h.poison (Draws.none _ h.ctr) h.wave h.only h.splits h.next h.cyc

/-- An instruction with one vector result, which raises flags and may call the generator. -/
theorem vectorF_fixed (s : State) (r : Nat) (f : Nat → Word × Flags) (hr : r < s.cw.v.length) (srn : Prop) [Decidable srn] :
    Fixed s (if srn then (s.wrVF r f).modW fun W => W.bump s.csp.exec 1 else s.wrVF r f).retire (ExecLanes s r)
      (laneOf fun l => (f l).1.toNat) 4 (execFlags s fun l => (f l).2) (if srn then 1 else 0) := by
  have h := (Wrote.nothing s (fun _ => False) (fun _ => id) (laneOf fun l => (f l).1.toNat)).wrVF (U := ExecLanes s r) r f hr
    (fun _ => id) (fun d => by simp) (fun _ _ => rfl)
  rw [flags_zero_or] at h
  exact h.fixed srn

/-! ## VCVT (R140) -/

theorem vectorConversions_rule : ruleVectorConversions := by
  intro s d a c r hd hc hr word mode
  have hmode : ∀ l, (if r.val = 4 then rndOf 4 ((s.cw.laneBlock l 0).getD 0 0).toNat else rndOf r.val 0) = mode l := by
    intro l
    rw [laneBlock_zero]
    have : r.val = 0 ∨ r.val = 1 ∨ r.val = 2 ∨ r.val = 3 ∨ r.val = 4 := by omega
    rcases this with h | h | h | h | h <;> simp only [mode, h] <;> rfl
  refine ⟨_, exec_vcvt d a c r s, ?_⟩
  simp only [hmode]
  exact vectorF_fixed s d.val _ hd _

/-! ## VQNT and VDQNT (R141) -/

theorem rndCode_eq (s : State) : s.rndCode = s.csp.fmt.toNat / 2 ^ 12 % 8 := rfl

/-- A word rotated left by 16 is its halves exchanged. -/
theorem rotateLeft_16 (w : Word) : (w.rotateLeft 16).toNat = (w.toNat * 2 ^ 16) % 2 ^ 32 + w.toNat / 2 ^ 16 := by
  have hw := w.isLt
  rw [BitVec.toNat_rotateLeft, Nat.shiftLeft_eq, Nat.shiftRight_eq_div_pow,
    show (16 % 32 : Nat) = 16 from rfl, show (32 - 16 : Nat) = 16 from rfl]
  have hlt : w.toNat / 2 ^ 16 < 2 ^ 16 := by omega
  have hmul : (w.toNat * 2 ^ 16) % 2 ^ 32 = (w.toNat % 2 ^ 16) <<< 16 := by rw [Nat.shiftLeft_eq]; omega
  rw [hmul, Nat.shiftLeft_add_eq_or_of_lt hlt]

/-- The rounding mode of an element is that of the split's format, with the lane's draw under srn. -/
theorem elementMode_eq (s : State) (l j : Nat) (h : s.csp.fmt.toNat / 2 ^ 12 % 8 < 5) :
    rndOf s.rndCode (drawWord (if s.rndCode = 4 then s.cw.laneBlock l 0 else []) j) = formatMode s l j := by
  rw [rndCode_eq, formatMode]
  generalize s.csp.fmt.toNat / 2 ^ 12 % 8 = c at *
  have : c = 0 ∨ c = 1 ∨ c = 2 ∨ c = 3 ∨ c = 4 := by omega
  rcases this with rfl | rfl | rfl | rfl | rfl
  · rfl
  · rfl
  · rfl
  · rfl
  · simp only [rndOf, if_true, laneBlock_zero, drawWord, elementDraw]
    congr 1
    by_cases hj : j < 4
    · rw [if_pos hj, if_neg (by omega)]
    · rw [if_neg hj, if_pos (by omega), rotateLeft_16]

theorem scaled_eq (v : FVal) (e : Nat) (sign : Int) : scaled v e sign = byScale v e sign := by
  unfold scaled byScale scaleVal
  split
  · rfl
  · cases v <;> rfl

theorem fld_low_byte (x : Nat) : fld x 0 8 = x % 256 := by simp [fld]

theorem snanFlag_single (v : FVal) : snanFlag [v] = if isSnan v = true then fInvalid else 0 := by simp [snanFlag]

/-- Packed fields and their flags, gathered together, are the fields gathered and the flags gathered. -/
theorem foldl_packed (P : Nat → Nat × Flags) (S : Nat → Flags) (w : Nat) (js : List Nat) (n : Nat) (fl : Flags) :
    js.foldl (fun (acc : Word × Flags) j => (acc.1 ||| BitVec.ofNat 32 ((P j).1 * 2 ^ (j * w)), acc.2 ||| (P j).2 ||| S j))
        (BitVec.ofNat 32 n, fl) =
      (BitVec.ofNat 32 (js.foldl (fun x j => x ||| (P j).1 * 2 ^ (j * w)) n), js.foldl (fun f j => f ||| (P j).2 ||| S j) fl) := by
  induction js generalizing n fl with
  | nil => rfl
  | cons j r ih => rw [List.foldl_cons, List.foldl_cons, List.foldl_cons, ← ih, BitVec.ofNat_or]

/-- The j-th element that VQNT packs in lane l, converted. -/
def quantised (s : State) (a b l j : Nat) : Nat × Flags :=
  convertOut s.ofmt (formatMode s l j) (byScale (f32 (s.rdVL (a + j) l)) ((s.rdVL b l).toNat % 256) (-1))

/-- What VQNT computes in lane l. -/
def packedLane (s : State) (a b l : Nat) : Word × Flags :=
  (BitVec.ofNat 32 ((List.range (32 / outWidth s.ofmt)).foldl (fun x j => x ||| (quantised s a b l j).1 * 2 ^ (j * outWidth s.ofmt)) 0),
   (List.range (32 / outWidth s.ofmt)).foldl (fun f j =>
     f ||| (quantised s a b l j).2 ||| (if isSnan (f32 (s.rdVL (a + j) l)) then fInvalid else 0)) 0)

theorem execVqnt_packs (d a b : Fin 128) (s : State) (hrc : s.csp.fmt.toNat / 2 ^ 12 % 8 < 5)
    (h : ¬ (outWidth s.ofmt = 32 ∨ s.alloc < a.val + 32 / outWidth s.ofmt)) :
    execVqnt d a b s = .next
      (if s.rndCode = 4 then (s.wrVF d.val (packedLane s a.val b.val)).modW fun W => W.bump s.csp.exec 1
       else s.wrVF d.val (packedLane s a.val b.val)).retire := by
  rw [execVqnt]
  simp only [if_neg h]
  refine congrArg (fun f => Host.Outcome.next (if s.rndCode = 4 then (s.wrVF d.val f).modW fun W => W.bump s.csp.exec 1
    else s.wrVF d.val f).retire) (funext fun l => ?_)
  rw [packedLane, ← foldl_packed (quantised s a.val b.val l)]
  refine List.foldl_ext _ _ _ fun acc j hj => ?_
  rw [List.mem_range] at hj
  have hx : ((List.range (32 / outWidth s.ofmt)).map fun j => s.rdV (a.val + j)).getD j zeroRow = s.rdV (a.val + j) := by
    rw [List.getD_eq_getElem?_getD, List.getElem?_map, List.getElem?_range hj]
    rfl
  rw [elementMode_eq s l j hrc, scaled_eq, snanFlag_single, hx, fld_low_byte]
  rfl

/-- The j-th element that VDQNT unpacks in lane l, converted to FP32. -/
def dequantised (s : State) (a b l j : Nat) : Nat × Flags :=
  fp32F.convert (formatMode s l j)
    (byScale (outVal s.ofmt ((s.rdVL a l).toNat / 2 ^ (j * outWidth s.ofmt) % 2 ^ outWidth s.ofmt)) ((s.rdVL b l).toNat % 256) 1)

/-- Invalid, where the element that VDQNT unpacks is a signalling NaN. -/
def dequantSnan (s : State) (a l j : Nat) : Flags :=
  if isSnan (outVal s.ofmt ((s.rdVL a l).toNat / 2 ^ (j * outWidth s.ofmt) % 2 ^ outWidth s.ofmt)) then fInvalid else 0

/-- What VDQNT computes of element j in lane l. -/
def unpackedLane (s : State) (a b j l : Nat) : Word × Flags :=
  (BitVec.ofNat 32 (dequantised s a b l j).1, (dequantised s a b l j).2 ||| dequantSnan s a l j)

theorem execVdqnt_unpacks (d a b : Fin 128) (s : State) (hrc : s.csp.fmt.toNat / 2 ^ 12 % 8 < 5)
    (h : ¬ (outWidth s.ofmt = 32 ∨ s.alloc < d.val + 32 / outWidth s.ofmt)) :
    let t := (List.range (32 / outWidth s.ofmt)).foldl (fun t j => t.wrVF (d.val + j) (unpackedLane s a.val b.val j)) s
    execVdqnt d a b s = .next (if s.rndCode = 4 then t.modW fun W => W.bump s.csp.exec 1 else t).retire := by
  rw [execVdqnt]
  simp only [if_neg h]
  refine congrArg (fun t : State => Host.Outcome.next (if s.rndCode = 4 then t.modW fun W => W.bump s.csp.exec 1 else t).retire)
    (List.foldl_ext _ _ _ fun t j _ => congrArg (t.wrVF (d.val + j)) (funext fun l => ?_))
  rw [elementMode_eq s l j hrc, scaled_eq, snanFlag_single, fld_low_byte]
  rfl

/-- The lanes of the first `n` registers that VDQNT writes. -/
def GroupLanes (s : State) (d n : Nat) (r : Dest) : Prop := ∃ j, j < n ∧ ExecLanes s (d + j) r

/-- What VDQNT leaves in a lane of its registers. -/
def unpackedValue (s : State) (d a b : Nat) (r : Dest) : DWord :=
  match r with
  | .v x l => BitVec.ofNat 64 ((dequantised s a b l (x - d)).1 % 2 ^ 32)
  | .s _ => 0
  | .m _ => 0
  | .h _ => 0

theorem groupLanes_succ (s : State) (d n : Nat) (r : Dest) : GroupLanes s d (n + 1) r ↔ GroupLanes s d n r ∨ ExecLanes s (d + n) r := by
  simp only [GroupLanes, Nat.lt_succ_iff_lt_or_eq, or_and_right, exists_or, exists_eq_left]

/-- VDQNT's registers, written one after another. -/
theorem unpacked_wrote (s : State) (d a b n : Nat) (h : d + n ≤ s.cw.v.length) :
    Wrote s ((List.range n).foldl (fun t j => t.wrVF (d + j) (unpackedLane s a b j)) s) (GroupLanes s d n) (unpackedValue s d a b)
      (execFlags s fun l => (List.range n).foldl (fun f j => f ||| (dequantised s a b l j).2 ||| dequantSnan s a l j) 0) := by
  induction n with
  | zero =>
    rw [show (execFlags s fun l => (List.range 0).foldl (fun f j => f ||| (dequantised s a b l j).2 ||| dequantSnan s a l j) 0) = 0 from
      execFlags_zero s]
    exact Wrote.nothing s _ (fun r ⟨j, hj, _⟩ => absurd hj (Nat.not_lt_zero j)) _
  | succ n ih =>
    simp only [List.range_succ, List.foldl_append, List.foldl_cons, List.foldl_nil, BitVec.or_assoc]
    rw [execFlags_or s (fun l => (List.range n).foldl (fun f j => f ||| ((dequantised s a b l j).2 ||| dequantSnan s a l j)) 0)]
    simp only [BitVec.or_assoc] at ih
    refine (ih (by omega)).wrVF (d + n) (unpackedLane s a b n) (by omega) ?_ (groupLanes_succ s d n) fun l _ => ?_
    · rintro l ⟨j, hj, l', -, -, e⟩
      simp only [Dest.v.injEq] at e
      omega
    · rw [unpackedValue, unpackedLane, Nat.add_sub_cancel_left, BitVec.toNat_ofNat]

theorem scaledQuantising_rule : ruleScaledQuantising := by
  intro s d a b o w k draws packs unpacks hrc ho
  refine ⟨fun hw ha hd => ?_, fun hw hd => ?_, fun h => ?_, fun h => ?_⟩
  · have hn : ¬ (outWidth s.ofmt = 32 ∨ s.alloc < a.val + 32 / outWidth s.ofmt) := not_or.2 ⟨hw.ne, ha.not_gt⟩
    refine ⟨_, (exec_vqnt d a b s).trans (execVqnt_packs d a b s hrc hn), ?_⟩
    have h := vectorF_fixed s d.val (packedLane s a.val b.val) hd (s.rndCode = 4)
    simp only [packedLane, BitVec.toNat_ofNat] at h
    exact h
  · have hn : ¬ (outWidth s.ofmt = 32 ∨ s.alloc < d.val + 32 / outWidth s.ofmt) := not_or.2 ⟨hw.ne, hd.not_gt⟩
    exact ⟨_, (exec_vdqnt d a b s).trans (execVdqnt_unpacks d a b s hrc hn),
      (unpacked_wrote s d.val a.val b.val k hd).fixed (s.rndCode = 4)⟩
  · rw [exec_vqnt, execVqnt]
    exact congrArg Host.Outcome.next (if_pos h)
  · rw [exec_vdqnt, execVdqnt]
    exact congrArg Host.Outcome.next (if_pos h)

/-- Settles O18: the integer that a mode chooses is the rounded magnitude with its sign; a conversion writes its results register
by register, and then makes the lanes' calls. -/
theorem conversionsBetweenFormats : Obligations.ConversionsBetweenFormats :=
  ⟨integerConversions_rule, vectorConversions_rule, scaledQuantising_rule⟩

end Sys2Proof.Numbers
end

section
/-! Lists by position: dense and sparse tables, pieces, columns and sums, each as a list over a range. -/

namespace Sys2Proof.Numbers
open Sys2Proof Sys2Proof.Machine

section Lists
variable {α β : Type}

/-! ## Lists over a range -/

theorem getD_map_range (f : Nat → α) (n i : Nat) (d : α) : ((List.range n).map f).getD i d = if i < n then f i else d := by
  rw [List.getD_eq_getElem?_getD, List.getElem?_map]
  by_cases h : i < n
  · rw [List.getElem?_range h, if_pos h]
    rfl
  · rw [List.getElem?_eq_none (by simpa using h), if_neg h]
    rfl

/-- A list is what it holds by position. -/
theorem eq_map_range (xs : List α) (d : α) {n : Nat} (h : xs.length = n) : xs = (List.range n).map fun i => xs.getD i d := by
  apply List.ext_getElem
  · simp [h]
  · intro i h1 h2
    simp [List.getD_eq_getElem?_getD, List.getElem?_eq_getElem h1]

theorem zipIdx_map_range (f : Nat → α) (n : Nat) : ((List.range n).map f).zipIdx = (List.range n).map fun i => (f i, i) := by
  apply List.ext_getElem
  · simp
  · intro i h1 h2
    simp

/-- Rows one after another: the entry at `k * i + j` is entry `j` of row `i`. -/
theorem flatten_map_range (f : Nat → Nat → α) (k n : Nat) (hk : 0 < k) :
    ((List.range n).map fun i => (List.range k).map (f i)).flatten = (List.range (k * n)).map fun q => f (q / k) (q % k) := by
  induction n with
  | zero => simp
  | succ n ih =>
    rw [List.range_succ, List.map_append, List.flatten_append, ih, Nat.mul_succ, List.range_add, List.map_append]
    congr 1
    simp only [List.map_cons, List.map_nil, List.flatten_cons, List.flatten_nil, List.append_nil, List.map_map]
    refine List.map_congr_left fun j hj => ?_
    rw [List.mem_range] at hj
    simp [Nat.mul_add_div hk, Nat.div_eq_of_lt hj, Nat.mod_eq_of_lt hj]

theorem chunks_eq (k n : Nat) (xs : List α) (d : α) (h : k * n ≤ xs.length) :
    chunks k n xs = (List.range n).map fun i => (List.range k).map fun j => xs.getD (k * i + j) d := by
  induction n generalizing xs with
  | zero => rfl
  | succ n ih =>
    rw [Nat.mul_succ] at h
    have hk : k ≤ xs.length := by omega
    rw [chunks, ih (xs.drop k) (by rw [List.length_drop]; omega), List.range_succ_eq_map, List.map_cons, List.map_map]
    congr 1
    · rw [eq_map_range (xs.take k) d (n := k) (by simp [hk])]
      refine List.map_congr_left fun j hj => ?_
      rw [List.mem_range] at hj
      simp [List.getD_eq_getElem?_getD, hj]
    · refine List.map_congr_left fun i _ => List.map_congr_left fun j _ => ?_
      simp only [List.getD_eq_getElem?_getD, List.getElem?_drop]
      congr 2
      simp only [Nat.succ_eq_add_one, Nat.mul_add]
      omega

theorem columns_map_range (f : α → Nat → β) (n : Nat) (xs : List α) :
    columns n (xs.map fun x => (List.range n).map (f x)) = (List.range n).map fun j => xs.map fun x => f x j := by
  induction xs with
  | nil => simp [columns]
  | cons x r ih =>
    rw [List.map_cons, columns, ih, List.zipWith_map_left, List.zipWith_map_right, List.zipWith_self]
    rfl

/-! ## Sums -/

theorem foldl_add (xs : List α) (f : α → Int) (a : Int) : xs.foldl (fun n p => n + f p) a = a + (xs.map f).sum := by
  induction xs generalizing a with
  | nil => simp
  | cons x r ih => rw [List.foldl_cons, ih, List.map_cons, List.sum_cons, add_assoc]

theorem sum_map_range (f : Nat → Int) (n : Nat) : ((List.range n).map f).sum = ∑ i ∈ Finset.range n, f i := by
  induction n with
  | zero => rfl
  | succ n ih => rw [List.range_succ, List.map_append, List.sum_append, ih, Finset.sum_range_succ]; simp

theorem foldl_add_map_range (g : Nat → α) (f : α → Int) (n : Nat) :
    ((List.range n).map g).foldl (fun a p => a + f p) 0 = ∑ i ∈ Finset.range n, f (g i) := by
  rw [foldl_add, List.map_map, sum_map_range, zero_add]
  rfl

end Lists

/-! ## Tables (R203) -/

section Tables
variable {α : Type}

theorem dense_length (d : α) (n k : Nat) (t : Tbl α) : (Tbl.dense d n k t).length = n := by
  induction n generalizing k t with
  | zero => cases t <;> rfl
  | succ n ih =>
    match t with
    | [] => simp [Tbl.dense, ih]
    | (j, x) :: r =>
      simp only [Tbl.dense]
      split <;> simp [ih]

/-- A table whose next key lies above `k` has nothing at `k`. -/
theorem dense_skip (d : α) (n k : Nat) (t : Tbl α) (h : ∀ p ∈ t, p.1 ≠ k) : Tbl.dense d (n + 1) k t = d :: Tbl.dense d n (k + 1) t := by
  match t with
  | [] => rfl
  | (j, x) :: r =>
    rw [Tbl.dense, if_neg (h (j, x) (by simp))]

theorem dense_zipIdx (xs : List Int) (k : Nat) :
    Tbl.dense 0 xs.length k (((xs.zipIdx k).filter fun p => p.1 != 0).map fun p => (p.2, p.1)) = xs := by
  induction xs generalizing k with
  | nil => rfl
  | cons x r ih =>
    have hk : ∀ p ∈ ((r.zipIdx (k + 1)).filter fun p => p.1 != 0).map fun p => (p.2, p.1), p.1 ≠ k := by
      intro p hp
      obtain ⟨q, hq, rfl⟩ := List.mem_map.1 hp
      have := List.le_snd_of_mem_zipIdx (List.mem_filter.1 hq).1
      show q.2 ≠ k
      omega
    rw [List.zipIdx_cons, List.filter_cons]
    by_cases hx : x = 0
    · rw [if_neg (by simp [hx]), List.length_cons, dense_skip _ _ _ _ hk, ih, hx]
    · rw [if_pos (by simpa using hx), List.map_cons, List.length_cons, Tbl.dense, if_pos rfl, ih]

/-- What a list's nonzero values give back. -/
theorem dense_sparse (xs : List Int) (n : Nat) (h : xs.length = n) : Tbl.dense 0 n 0 (sparse xs) = xs := by
  subst h
  exact dense_zipIdx xs 0

end Tables

end Sys2Proof.Numbers
end

section
/-! A multiply-accumulate of the exact class: its words, its marks and its reflection entries (R56, R202, R203, R206, R207). -/

namespace Sys2Proof.Numbers
open Sys2Proof Sys2Proof.Machine

/-! ## Formats of the exact class (R55) -/

/-- A format of the exact class that is no log format. -/
def ExactFmt (c : Nat) : Prop := c < 16 ∧ isLog c = false ∧ isWideFmt c = false

theorem exactFmt_of_pairClass {a b : Nat} (h : pairClass a b = some .exact) (hl : isLog a = false) (ha : a < 16) (hb : b < 16) :
    ExactFmt a ∧ ExactFmt b := by
  unfold pairClass at h
  have hlb : isLog b = false := by
    by_contra hc
    rw [if_pos (.inr (by simpa using hc))] at h
    split at h
    · subst_vars; exact hc hl
    · cases h
  rw [if_neg (by simp [hl, hlb])] at h
  split at h
  · cases h
  · rename_i hw
    simp only [not_or, Bool.not_eq_true] at hw
    exact ⟨⟨ha, hl, hw.1⟩, ⟨hb, hlb, hw.2⟩⟩

theorem decode_not_inf {f : FFmt} (h : f.hasInf = false) (c : Nat) : isInf (f.decode c) = false := by
  simp only [FFmt.decode, h, Bool.and_false, Bool.false_eq_true, if_false]
  split
  · rfl
  · split <;> rfl

theorem decode_exp_ge {f : FFmt} {c : Nat} {n : Bool} {m : Nat} {e : Int} (h : f.decode c = .fin n m e) : f.qmin ≤ e := by
  simp only [FFmt.decode] at h
  split at h
  · split at h <;> cases h
  · split at h
    · cases h
    · split at h <;> simp only [FVal.fin.injEq] at h <;> omega

/-- An element of the exact class is an integer, or a value of a small format without infinities. -/
theorem opVal_exact {c : Nat} (h : ExactFmt c) (x : Nat) :
    (∃ n m, opVal c x = .fin n m 0) ∨ ∃ f y, f.hasInf = false ∧ -16 ≤ f.qmin ∧ opVal c x = FFmt.decode f y := by
  obtain ⟨h16, hl, hw⟩ := h
  simp only [isLog, isWideFmt, Bool.or_eq_false_iff, beq_eq_false_iff_ne] at hl hw
  have hc : c < 7 ∨ c = 7 ∨ c = 9 ∨ c = 10 ∨ c = 11 := by omega
  rcases hc with hi | rfl | rfl | rfl | rfl
  · left
    interval_cases c <;> exact ⟨_, _, rfl⟩
  · exact .inr ⟨e4m3F, x % 256, rfl, by decide, rfl⟩
  · exact .inr ⟨e2m1F, x % 16, rfl, by decide, rfl⟩
  · exact .inr ⟨e2m3F, x % 64, rfl, by decide, rfl⟩
  · exact .inr ⟨e3m2F, x % 64, rfl, by decide, rfl⟩

theorem opVal_not_inf {c : Nat} (h : ExactFmt c) (x : Nat) : isInf (opVal c x) = false := by
  obtain ⟨n, m, hv⟩ | ⟨f, y, hi, -, hv⟩ := opVal_exact h x <;> rw [hv]
  · rfl
  · exact decode_not_inf hi y

/-- Every element of the exact class is a multiple of 2^-16. -/
theorem opVal_exp_ge {c : Nat} (h : ExactFmt c) {x : Nat} {n : Bool} {m : Nat} {e : Int} (hv : opVal c x = .fin n m e) : -16 ≤ e := by
  obtain ⟨n', m', hx⟩ | ⟨f, y, -, hq, hx⟩ := opVal_exact h x <;> rw [hx] at hv
  · simp only [FVal.fin.injEq] at hv
    omega
  · exact hq.trans (decode_exp_ge hv)

/-- The integer multiple of 2^-16 that an element of the exact class is. -/
theorem fixed_of_value {c : Nat} (h : ExactFmt c) {x : Nat} {n : Bool} {p : Nat} {q k : Int} (hv : opVal c x = .fin n p q)
    (hk : exactQ n p q = (k : ℚ) / 2 ^ 16) : fixed 16 (opVal c x) = k := by
  have hq := opVal_exp_ge h hv
  have hp : ((p * 2 ^ (q + 16).toNat : Nat) : ℚ) = p * 2 ^ (q + 16) := by rw [Nat.cast_mul]; exact congrArg _ (pow2_cast (by omega))
  rw [hv]
  apply Int.cast_injective (α := ℚ)
  rw [fixed, signed_cast, Nat.cast_ofNat, hp, zpow_add₀ (by norm_num), ← mul_assoc, ← mul_assoc, mul_assoc (sgn n), ← exactQ_eq, hk]
  norm_num

/-! ## The operands of a multiply-accumulate -/

theorem spN_cases (n : Nat) : spN n = 8 ∨ spN n = 16 := by unfold spN; split <;> simp

theorem slotK_cases (b : BSlot) :
    b.spn = 0 ∧ b.k = 128 ∨ b.spn ≠ 0 ∧ spN b.spn = 8 ∧ b.k = 512 ∨ b.spn ≠ 0 ∧ spN b.spn = 16 ∧ b.k = 256 := by
  unfold BSlot.k
  by_cases h : b.spn = 0
  · exact .inl ⟨h, if_pos h⟩
  · right
    rw [if_neg h]
    rcases spN_cases b.spn with h8 | h8
    · exact .inl ⟨h, h8, by rw [h8]⟩
    · exact .inr ⟨h, h8, by rw [h8]⟩

/-- The element of a row that the stored element (k, j) of a slot multiplies (R202). -/
def slotPick (b : BSlot) (k j : Nat) : Nat :=
  if b.spn = 0 then k else 32 * (k / spN b.spn) + b.index.getD (128 * k + j) 0 % 32

theorem slotPick_lt (b : BSlot) {k : Nat} (j : Nat) (hk : k < 128) : slotPick b k j < b.k := by
  have hm : b.index.getD (128 * k + j) 0 % 32 < 32 := Nat.mod_lt _ (by norm_num)
  rw [slotPick]
  rcases slotK_cases b with ⟨h, hK⟩ | ⟨h, h8, hK⟩ | ⟨h, h8, hK⟩
  · rw [if_pos h]; omega
  · rw [if_neg h, h8]; omega
  · rw [if_neg h, h8]; omega

/-- A stored element of a slot, as a value. -/
def slotVal (b : BSlot) (k j : Nat) : FVal := opVal b.fmt (b.elems.getD (128 * k + j) 0)

theorem getD_padded {α : Type} (xs : List α) (n i : Nat) (d : α) : (xs ++ List.replicate n d).getD i d = xs.getD i d := by
  simp only [List.getD_eq_getElem?_getD, List.getElem?_append, List.getElem?_replicate]
  by_cases h : i < xs.length
  · rw [if_pos h]
  · rw [if_neg h, List.getElem?_eq_none (by omega)]
    split <;> rfl

/-- The columns of a slot. -/
theorem slot_cols (b : BSlot) :
    b.cols = (List.range 128).map fun j => (List.range 128).map fun k => (slotVal b k j, slotPick b k j) := by
  have hv : ∀ n, (((b.elems ++ List.replicate (16384 - b.elems.length) 0).map fun c => opVal b.fmt c).getD n (opVal b.fmt 0)) =
      opVal b.fmt (b.elems.getD n 0) := fun n => by
    rw [← getD_padded b.elems (16384 - b.elems.length) n 0]
    simp only [List.getD_eq_getElem?_getD, List.getElem?_map]
    cases (b.elems ++ List.replicate (16384 - b.elems.length) 0)[n]? <;> rfl
  have hi : ∀ n, (b.index ++ List.replicate (16384 - b.index.length) 0).toArray.getD n 0 = b.index.getD n 0 := fun n => by
    rw [← getD_padded b.index (16384 - b.index.length) n 0]
    simp
  rw [BSlot.cols]
  simp only [hi]
  rw [chunks_eq 128 128 _ (opVal b.fmt 0) (by rw [List.length_map, List.length_append, List.length_replicate]; omega), zipIdx_map_range]
  simp only [List.map_map, Function.comp_def, zipIdx_map_range, hv]
  exact columns_map_range (fun k j => (slotVal b k j, slotPick b k j)) 128 (List.range 128)

/-- Row `i` of the row buffer, as the multiply-accumulate reads it. -/
def aRow (m : MxState) (b : BSlot) (af seg i : Nat) : ARow := mkARow af b.k 16 ((m.row i).drop (128 * seg))

/-- The code of element `k` of row `i` in segment `seg` (R39). -/
def rowCode (m : MxState) (af seg i k : Nat) : Nat :=
  leNat ((m.row i).drop (128 * seg)) / 2 ^ (k * opWidth af) % 2 ^ opWidth af

theorem aRow_nan (m : MxState) (b : BSlot) (af seg i : Nat) :
    (aRow m b af seg i).nan = true ↔ ∃ k, k < b.k ∧ isNan (opVal af (rowCode m af seg i k)) = true := by
  simp [aRow, mkARow, elemsOf, rowCode, fld]

theorem aRow_inf {m : MxState} {b : BSlot} {af : Nat} (h : ExactFmt af) (seg i : Nat) : (aRow m b af seg i).inf = false := by
  simp [aRow, mkARow, opVal_not_inf h]

/-- Element `k` of row `i` in units of 2^-16; 0 past the last one. -/
def rowInt (m : MxState) (b : BSlot) (af seg i k : Nat) : Int :=
  if k < b.k then fixed 16 (opVal af (rowCode m af seg i k)) else 0

theorem aRow_ints (m : MxState) (b : BSlot) (af seg i k : Nat) : (aRow m b af seg i).ints.getD k 0 = rowInt m b af seg i k := by
  have h : (aRow m b af seg i).ints.getD k 0 =
      ((List.range b.k).map fun k => fixed 16 (opVal af (rowCode m af seg i k))).getD k 0 := by
    simp [aRow, mkARow, elemsOf, rowCode, fld, Function.comp_def]
  rw [h, getD_map_range, rowInt]

/-- The exact product sum of row `i` and column `j`, in units of 2^-32. -/
def productSum (m : MxState) (b : BSlot) (af seg i j : Nat) : Int :=
  ∑ k ∈ Finset.range 128, rowInt m b af seg i (slotPick b k j) * fixed 16 (slotVal b k j)

/-- Column `j` of a slot, as the multiply-accumulate reads it. -/
def bCol (b : BSlot) (j : Nat) : BCol := mkBCol 16 ((List.range 128).map fun k => (slotVal b k j, slotPick b k j))

theorem bCol_nan (b : BSlot) (j : Nat) : (bCol b j).nan = true ↔ ∃ k, k < 128 ∧ isNan (slotVal b k j) = true := by
  simp [bCol, mkBCol]

theorem bCol_inf {b : BSlot} (h : ExactFmt b.fmt) (j : Nat) : (bCol b j).inf = false := by
  simp [bCol, mkBCol, slotVal, opVal_not_inf h]

/-- Row by column, where no element is a NaN (R57, R58). -/
theorem dotOf_exact {m : MxState} {b : BSlot} {af : Nat} (ha : ExactFmt af) (hb : ExactFmt b.fmt) (seg i j : Nat)
    (hn : ((aRow m b af seg i).nan || (bCol b j).nan) = false) :
    dotOf 16 (aRow m b af seg i) (bCol b j) = ⟨productSum m b af seg i j, false, none⟩ := by
  have hi : (bCol b j).ints = (List.range 128).map fun k => (fixed 16 (slotVal b k j), slotPick b k j) := by
    simp only [bCol, mkBCol, List.map_map, Function.comp_def]
  have hs : (bCol b j).ints.foldl (fun n e => n + (aRow m b af seg i).ints.getD e.2 0 * e.1) 0 = productSum m b af seg i j := by
    simp only [aRow_ints]
    rw [hi, foldl_add_map_range, productSum]
  rw [dotOf, if_neg (by rw [hn]; simp), if_neg (by simp [aRow_inf ha, bCol_inf hb]), hs]

theorem dotOf_nan {m : MxState} {b : BSlot} {af : Nat} (seg i j : Nat)
    (hn : ((aRow m b af seg i).nan || (bCol b j).nan) = true) : (dotOf 16 (aRow m b af seg i) (bCol b j)).nan = true := by
  rw [dotOf, if_pos hn]

end Sys2Proof.Numbers
end

section
/-! What a multiply-accumulate of the exact class leaves: words, marks and reflection entries (R56, R206, R207). -/

namespace Sys2Proof.Numbers
open Sys2Proof Sys2Proof.Machine

/-! ## The words and their marks -/

/-- The words of a tile, row by row. -/
theorem tile_rows (x : Tile) :
    chunks 128 32 (Tbl.dense 0 4096 0 x.words) = (List.range 32).map fun i => (List.range 128).map fun j => tileWord x (128 * i + j) :=
  chunks_eq 128 32 _ 0 (by rw [dense_length])

/-- Words and sums paired row by row, in the rows of `p`; the other rows by their words alone. -/
theorem update_rows (W : Nat → Nat → Int) (S : Nat → Nat → Dot) (p : Nat → Bool) (F : Nat → Nat → Int → Dot → Upd)
    (G : Nat → Nat → Int → Upd) :
    (((List.range 32).map fun i => (List.range 128).map (W i)).zip
        ((List.range 32).map fun i => if p i then (List.range 128).map (S i) else [])).zipIdx.map
      (fun r => if p r.2 then (r.1.1.zip r.1.2).zipIdx.map fun q => F r.2 q.2 q.1.1 q.1.2
        else r.1.1.zipIdx.map fun q => G r.2 q.2 q.1) =
    (List.range 32).map fun i => (List.range 128).map fun j => if p i then F i j (W i j) (S i j) else G i j (W i j) := by
  rw [List.zip_map', zipIdx_map_range, List.map_map]
  refine List.map_congr_left fun i _ => ?_
  by_cases h : p i = true
  · simp only [Function.comp_def, h, if_true, List.zip_map', zipIdx_map_range, List.map_map]
  · simp only [Function.comp_def, h, if_false, zipIdx_map_range, List.map_map, Bool.false_eq_true]

/-- The positions of a list whose entries are marked. -/
theorem mem_marks (f : Upd → Bool) (g : Nat → Upd) (k n : Nat) :
    n ∈ ((((List.range k).map g).zipIdx.filter fun p => f p.1).map Prod.snd) ↔ n < k ∧ f (g n) = true := by
  rw [zipIdx_map_range]
  simp

/-- Entries of a table changed one by one. -/
theorem entry_changed (t : Tbl Int) (g : Int × Nat → Int) {n i : Nat} (hi : i < n) :
    (Tbl.dense 0 n 0 (sparse ((Tbl.dense 0 n 0 t).zipIdx.map g))).getD i 0 = g ((Tbl.dense 0 n 0 t).getD i 0, i) := by
  rw [dense_sparse _ _ (by rw [List.length_map, List.length_zipIdx, dense_length])]
  conv_lhs => rw [eq_map_range (Tbl.dense 0 n 0 t) 0 (dense_length _ _ _ _)]
  rw [zipIdx_map_range, List.map_map, getD_map_range, if_pos hi]
  rfl

/-- A sum over the rows that `p` keeps. -/
theorem foldl_add_filter {α : Type} (g : Nat → α) (p : Nat → Bool) (f : α → Int) (n : Nat) :
    ((((List.range n).map g).zipIdx.filter fun r => p r.2).foldl (fun a r => a + f r.1) 0) =
      ∑ i ∈ Finset.range n, if p i then f (g i) else 0 := by
  rw [zipIdx_map_range, List.foldl_filter]
  have h : ∀ (a : Int) (r : α × Nat), (if p r.2 = true then a + f r.1 else a) = a + if p r.2 then f r.1 else 0 := fun a r => by
    cases p r.2 <;> simp
  simp only [h]
  exact foldl_add_map_range (fun i => (g i, i)) (fun r => if p r.2 then f r.1 else 0) n

section Exact
variable (x : Tile) (m : MxState) (b : BSlot) (af seg : Nat) (e : Word) (free : Nat → Int)

/-- The update of word (i, j). -/
def macUpd (i j : Nat) : Upd :=
  if e.getLsbD i then
    updExact (tileWord x (128 * i + j)) (x.sat.contains (128 * i + j)) (x.nans.contains (128 * i + j))
      (dotOf 16 (aRow m b af seg i) (bCol b j)) (free (128 * i + j))
  else ⟨tileWord x (128 * i + j), x.sat.contains (128 * i + j), x.nans.contains (128 * i + j), false⟩

/-- The updates of the words, row by row. -/
def macRows : List (List Upd) := (List.range 32).map fun i => (List.range 128).map (macUpd x m b af seg e free i)

theorem macRows_flatten :
    (macRows x m b af seg e free).flatten = (List.range 4096).map fun q => macUpd x m b af seg e free (q / 128) (q % 128) :=
  flatten_map_range _ 128 32 (by norm_num)

/-- The product sums of the rows of exec. -/
theorem mac_sums :
    (((List.range 32).map fun i => mkARow af b.k 16 ((m.row i).drop (128 * seg))).zipIdx.map fun r =>
      if e.getLsbD r.2 then (b.cols.map (mkBCol 16)).map fun c => dotOf 16 r.1 c else []) =
    (List.range 32).map fun i => if e.getLsbD i then (List.range 128).map fun j => dotOf 16 (aRow m b af seg i) (bCol b j) else [] := by
  rw [slot_cols, zipIdx_map_range, List.map_map, List.map_map]
  simp only [List.map_map, Function.comp_def]
  rfl

variable (hp : pairClass af b.fmt = some .exact) (hl : isLog af = false)
include hp hl

/-- The words and the marks that a multiply-accumulate leaves, by its updates. -/
theorem mac_updates :
    let flat := (macRows x m b af seg e free).flatten
    let z := x.mac m b af seg e free
    z.words = sparse (flat.map Upd.word) ∧ z.sat = (flat.zipIdx.filter fun p => p.1.sat).map Prod.snd ∧
    z.nans = (flat.zipIdx.filter fun p => p.1.nan).map Prod.snd := by
  have hu := update_rows (fun i j => tileWord x (128 * i + j)) (fun i j => dotOf 16 (aRow m b af seg i) (bCol b j)) (fun i => e.getLsbD i)
    (fun i j w d => updExact w (x.sat.contains (128 * i + j)) (x.nans.contains (128 * i + j)) d (free (128 * i + j)))
    (fun i j w => ⟨w, x.sat.contains (128 * i + j), x.nans.contains (128 * i + j), false⟩)
  simp only [Tile.mac, hp, hl, Option.getD_some, Bool.false_eq_true, if_false, show (TileClass.exact == TileClass.wide) = false from rfl]
  rw [tile_rows, mac_sums, hu, List.map_flatten]
  exact ⟨rfl, rfl, rfl⟩

theorem tileWord_mac {n : Nat} (hn : n < 4096) :
    tileWord (x.mac m b af seg e free) n = (macUpd x m b af seg e free (n / 128) (n % 128)).word := by
  obtain ⟨hw, -, -⟩ := mac_updates x m b af seg e free hp hl
  rw [tileWord, hw, macRows_flatten, List.map_map, dense_sparse _ _ (by rw [List.length_map, List.length_range]), getD_map_range, if_pos hn]
  rfl

theorem mem_mac_sat (n : Nat) :
    n ∈ (x.mac m b af seg e free).sat ↔ n < 4096 ∧ (macUpd x m b af seg e free (n / 128) (n % 128)).sat = true := by
  obtain ⟨-, hs, -⟩ := mac_updates x m b af seg e free hp hl
  rw [hs, macRows_flatten]
  exact mem_marks Upd.sat _ 4096 n

theorem mem_mac_nans (n : Nat) :
    n ∈ (x.mac m b af seg e free).nans ↔ n < 4096 ∧ (macUpd x m b af seg e free (n / 128) (n % 128)).nan = true := by
  obtain ⟨-, -, hs⟩ := mac_updates x m b af seg e free hp hl
  rw [hs, macRows_flatten]
  exact mem_marks Upd.nan _ 4096 n

/-! ## The reflection entries -/

omit hp hl in
theorem aRow_ints_toList (i : Nat) : (aRow m b af seg i).ints.toList = (List.range b.k).map fun q => rowInt m b af seg i q := by
  rw [eq_map_range (aRow m b af seg i).ints.toList 0 (n := b.k) (by simp [aRow, mkARow, elemsOf])]
  refine List.map_congr_left fun q _ => ?_
  rw [← aRow_ints]
  simp

/-- Entry `i` of the row reflection after the update: the row times the reflection column is added in the rows of exec (R207). -/
theorem mac_rho (hr : b.refl.length = b.k) {i : Nat} (hi : i < 32) :
    (Tbl.dense 0 32 0 (x.mac m b af seg e free).rho).getD i 0 = (Tbl.dense 0 32 0 x.rho).getD i 0 +
      if e.getLsbD i then ∑ q ∈ Finset.range b.k, rowInt m b af seg i q * b.refl.getD q 0 else 0 := by
  simp only [Tile.mac, hp, hl, Option.getD_some, Bool.false_eq_true, if_false, show (TileClass.exact == TileClass.wide) = false from rfl]
  rw [entry_changed _ _ hi, getD_map_range, if_pos hi, show mkARow af b.k 16 ((m.row i).drop (128 * seg)) = aRow m b af seg i from rfl,
    aRow_ints_toList, hr, Nat.sub_self, List.replicate_zero, List.append_nil]
  cases e.getLsbD i
  · simp
  · conv_lhs => rw [eq_map_range b.refl 0 hr, List.zip_map']
    rw [if_neg (by simp), if_pos rfl, foldl_add_map_range]

omit hp hl in
/-- The sums of the rows of exec, by column (R207). -/
theorem column_sums (q : Nat) :
    ((List.range b.k).map fun q => (((List.range 32).map fun i => mkARow af b.k 16 ((m.row i).drop (128 * seg))).zipIdx.filter
      fun r => e.getLsbD r.2).foldl (fun n r => n + r.1.ints.getD q 0) 0).toArray.getD q 0 =
    if q < b.k then ∑ i ∈ Finset.range 32, if e.getLsbD i then rowInt m b af seg i q else 0 else 0 := by
  rw [Array.getD_eq_getD_getElem?, List.getElem?_toArray, ← List.getD_eq_getElem?_getD, getD_map_range]
  refine if_congr Iff.rfl ?_ rfl
  refine (foldl_add_filter _ (fun i => e.getLsbD i) (fun r : ARow => r.ints.getD q 0) 32).trans ?_
  exact Finset.sum_congr rfl fun i _ => if_congr Iff.rfl (aRow_ints m b af seg i q) rfl

/-- Entry `j` of the column reflection after the update: the column sums of the rows of exec, times the column, are added (R207). -/
theorem mac_kappa {j : Nat} (hj : j < 128) :
    (Tbl.dense 0 128 0 (x.mac m b af seg e free).kappa).getD j 0 = (Tbl.dense 0 128 0 x.kappa).getD j 0 +
      ∑ k ∈ Finset.range 128, (∑ i ∈ Finset.range 32, if e.getLsbD i then rowInt m b af seg i (slotPick b k j) else 0) *
        fixed 16 (slotVal b k j) := by
  have hints : (mkBCol 16 ((List.range 128).map fun k => (slotVal b k j, slotPick b k j))).ints =
      (List.range 128).map fun k => (fixed 16 (slotVal b k j), slotPick b k j) := by
    simp only [mkBCol, List.map_map, Function.comp_def]
  simp only [Tile.mac, hp, hl, Option.getD_some, Bool.false_eq_true, if_false, show (TileClass.exact == TileClass.wide) = false from rfl]
  rw [entry_changed _ _ hj]
  simp only [column_sums]
  rw [slot_cols, List.map_map, getD_map_range, if_pos hj, Function.comp_apply, hints, foldl_add_map_range]
  congr 1
  refine Finset.sum_congr rfl fun k hk => ?_
  rw [if_pos (slotPick_lt b j (Finset.mem_range.1 hk))]

end Exact

end Sys2Proof.Numbers
end

section
/-! Reflections go on matching their tile, and find a single changed word (R203, R207, R208). -/

namespace Sys2Proof.Numbers
open Sys2Proof Sys2Proof.Machine

/-! ## The reflection column (R203) -/

theorem addAt_getD (a : Array Int) {k : Nat} (hk : k < a.size) (v : Int) (q : Nat) :
    (addAt a k v).getD q 0 = a.getD q 0 + if q = k then v else 0 := by
  simp only [addAt, Array.getD_eq_getD_getElem?, Array.getElem?_setIfInBounds]
  by_cases h : k = q
  · subst h
    simp [hk]
  · simp [h, Ne.symm h]

/-- Entries added to an array of sums, weighted by `f`, add their own weighted values. -/
theorem foldl_addAt (f : Nat → Int) (n : Nat) (es : List (FVal × Nat)) (a : Array Int) (ha : a.size = n) (he : ∀ p ∈ es, p.2 < n) :
    let r := es.foldl (fun a p => addAt a p.2 (fixed 16 p.1)) a
    r.size = n ∧ ∑ q ∈ Finset.range n, f q * r.getD q 0 =
      ∑ q ∈ Finset.range n, f q * a.getD q 0 + (es.map fun p => f p.2 * fixed 16 p.1).sum := by
  induction es generalizing a with
  | nil => exact ⟨ha, by simp⟩
  | cons p r ih =>
    have hp : p.2 < n := he p (by simp)
    obtain ⟨hs, hsum⟩ := ih (addAt a p.2 (fixed 16 p.1)) (by simpa [addAt] using ha) fun q hq => he q (by simp [hq])
    refine ⟨hs, ?_⟩
    rw [List.foldl_cons, hsum, List.map_cons, List.sum_cons, ← add_assoc]
    simp only [addAt_getD a (ha ▸ hp), mul_add, Finset.sum_add_distrib, mul_ite, mul_zero,
      Finset.sum_ite_eq', Finset.mem_range, hp, if_true]

theorem reflection_exact (b : BSlot) (hb : ExactFmt b.fmt) :
    b.reflection = (b.cols.flatten.foldl (fun a p => addAt a p.2 (fixed 16 p.1)) (Array.replicate b.k 0)).toList := by
  simp only [BSlot.reflection, hb.2.1, hb.2.2, Bool.false_eq_true, if_false, List.foldl_flatten]

/-- The reflection column, weighted: every stored element counts with the weight of the row element it multiplies. -/
theorem reflection_weighted (b : BSlot) (hb : ExactFmt b.fmt) (f : Nat → Int) :
    b.reflection.length = b.k ∧ ∑ q ∈ Finset.range b.k, f q * b.reflection.getD q 0 =
      ∑ j ∈ Finset.range 128, ∑ k ∈ Finset.range 128, f (slotPick b k j) * fixed 16 (slotVal b k j) := by
  have hes : ∀ p ∈ b.cols.flatten, p.2 < b.k := by
    rw [slot_cols]
    intro p hp
    obtain ⟨c, hc, hp⟩ := List.mem_flatten.1 hp
    obtain ⟨j, -, rfl⟩ := List.mem_map.1 hc
    obtain ⟨k, hk, rfl⟩ := List.mem_map.1 hp
    exact slotPick_lt b j (List.mem_range.1 hk)
  obtain ⟨hs, hsum⟩ := foldl_addAt f b.k b.cols.flatten (Array.replicate b.k 0) (by simp) hes
  have h0 : ∀ q, (Array.replicate b.k (0 : Int)).getD q 0 = 0 := fun q => by
    rw [Array.getD_eq_getD_getElem?, Array.getElem?_replicate]
    split <;> rfl
  have hval : (b.cols.flatten.map fun p => f p.2 * fixed 16 p.1).sum =
      ∑ j ∈ Finset.range 128, ∑ k ∈ Finset.range 128, f (slotPick b k j) * fixed 16 (slotVal b k j) := by
    rw [slot_cols, List.map_flatten, List.sum_flatten]
    simp only [List.map_map, Function.comp_def, sum_map_range]
  rw [reflection_exact b hb]
  refine ⟨by rw [Array.length_toList, hs], ?_⟩
  simp only [h0, mul_zero, Finset.sum_const_zero, zero_add, hval] at hsum
  rw [← hsum]
  exact Finset.sum_congr rfl fun q _ => by simp [Array.getD_eq_getD_getElem?]

/-! ## Words after an update -/

theorem updExact_unmarked {w : Int} {d : Dot} {free : Int} (hs : (updExact w false false d free).sat = false)
    (hn : (updExact w false false d free).nan = false) : d.nan = false ∧ (updExact w false false d free).word = w + d.sum := by
  unfold updExact at *
  cases hd : d.nan
  · simp only [hd, Bool.false_eq_true, if_false, ne_eq, decide_not, Bool.not_eq_false', decide_eq_true_eq] at hs ⊢
    exact ⟨trivial, hs.symm⟩
  · simp [hd] at hn

section Exact
variable {x : Tile} {m : MxState} {b : BSlot} {af seg : Nat} {e : Word} {free : Nat → Int}
variable (hp : pairClass af b.fmt = some .exact) (hl : isLog af = false)
include hp hl

/-- A word of a row outside exec keeps its value. -/
theorem mac_word_kept {n : Nat} (hn : n < 4096) (he : e.getLsbD (n / 128) = false) :
    tileWord (x.mac m b af seg e free) n = tileWord x n := by
  rw [tileWord_mac x m b af seg e free hp hl hn, macUpd, if_neg (by simp [he]), Nat.div_add_mod]

/-- A word of a row of exec, where no element of the row and of the column is a NaN: the product sum is added, saturating (R56). -/
theorem mac_word {i j : Nat} (hi : i < 32) (hj : j < 128) (ha : ExactFmt af) (hb : ExactFmt b.fmt) (he : e.getLsbD i = true)
    (hn : ((aRow m b af seg i).nan || (bCol b j).nan) = false) (hsat : 128 * i + j ∉ x.sat) :
    let exact := tileWord x (128 * i + j) + productSum m b af seg i j
    tileWord (x.mac m b af seg e free) (128 * i + j) = clampRaw exact ∧
    (128 * i + j ∈ (x.mac m b af seg e free).sat ↔ exact ≠ clampRaw exact) := by
  have hq : (128 * i + j) / 128 = i ∧ (128 * i + j) % 128 = j := ⟨by omega, by omega⟩
  rw [tileWord_mac x m b af seg e free hp hl (by omega), mem_mac_sat x m b af seg e free hp hl, hq.1, hq.2, macUpd, if_pos he,
    dotOf_exact ha hb seg i j hn, updExact, if_neg (by simpa using hsat), if_neg (by simp)]
  exact ⟨rfl, by simp; omega⟩

/-- With no word marked, every word of a row of exec has its product sum added, and the others keep their value. -/
theorem mac_word_unmarked (ha : ExactFmt af) (hb : ExactFmt b.fmt) (hxs : x.sat = []) (hxn : x.nans = [])
    (hzs : (x.mac m b af seg e free).sat = []) (hzn : (x.mac m b af seg e free).nans = []) {i j : Nat} (hi : i < 32) (hj : j < 128) :
    tileWord (x.mac m b af seg e free) (128 * i + j) =
      tileWord x (128 * i + j) + if e.getLsbD i then productSum m b af seg i j else 0 := by
  have hq : (128 * i + j) / 128 = i ∧ (128 * i + j) % 128 = j := ⟨by omega, by omega⟩
  have hs := mt (mem_mac_sat x m b af seg e free hp hl (128 * i + j)).2 (by simp [hzs])
  have hn := mt (mem_mac_nans x m b af seg e free hp hl (128 * i + j)).2 (by simp [hzn])
  cases he : e.getLsbD i
  · rw [mac_word_kept hp hl (by omega) (by rw [hq.1]; exact he)]
    simp
  · rw [hq.1, hq.2, macUpd, if_pos he, hxs, hxn, List.contains_nil, not_and, Bool.not_eq_true] at hs hn
    obtain ⟨hd, hw⟩ := updExact_unmarked (hs (by omega)) (hn (by omega))
    rw [tileWord_mac x m b af seg e free hp hl (by omega), hq.1, hq.2, macUpd, if_pos he, hxs, hxn, List.contains_nil, hw, if_pos rfl]
    have hnn : ((aRow m b af seg i).nan || (bCol b j).nan) = false := by
      by_contra hc
      rw [dotOf_nan seg i j (Bool.eq_true_of_not_eq_false hc)] at hd
      cases hd
    rw [dotOf_exact ha hb seg i j hnn]

/-- The reflection entries go on matching the words (R207). -/
theorem mac_balanced (ha : ExactFmt af) (hb : ExactFmt b.fmt) (hr : b.refl = b.reflection) (hzs : (x.mac m b af seg e free).sat = [])
    (hzn : (x.mac m b af seg e free).nans = []) (hx : BalancedTile x) : BalancedTile (x.mac m b af seg e free) := by
  obtain ⟨hdam, hxs, hxn, hrho, hkap⟩ := hx
  have hw := fun {i j : Nat} (hi : i < 32) (hj : j < 128) => mac_word_unmarked (e := e) (free := free) hp hl ha hb hxs hxn hzs hzn hi hj
  refine ⟨hdam, hzs, hzn, fun i hi => ?_, fun j hj => ?_⟩
  · obtain ⟨hlen, hsum⟩ := reflection_weighted b hb (rowInt m b af seg i)
    rw [mac_rho x m b af seg e free hp hl (by rw [hr, hlen]) hi, hrho i hi, hr, hsum, sum_map_range, sum_map_range,
      Finset.sum_congr rfl fun j hj => hw hi (Finset.mem_range.1 hj), Finset.sum_add_distrib]
    congr 1
    cases e.getLsbD i
    · simp
    · simp only [if_true, productSum]
  · rw [mac_kappa x m b af seg e free hp hl hj, hkap j hj, sum_map_range, sum_map_range,
      Finset.sum_congr rfl fun i hi => hw (Finset.mem_range.1 hi) hj, Finset.sum_add_distrib]
    congr 1
    simp only [Finset.sum_mul, productSum]
    rw [Finset.sum_comm]
    refine Finset.sum_congr rfl fun i _ => ?_
    cases e.getLsbD i <;> simp

end Exact

/-! ## The check (R208) -/

/-- What the row entry `i` differs by from the sum of its words. -/
def rowOff (x : Tile) (i : Nat) : Int := (Tbl.dense 0 32 0 x.rho).getD i 0 - ∑ j ∈ Finset.range 128, tileWord x (128 * i + j)

/-- What the column entry `j` differs by from the sum of its words. -/
def colOff (x : Tile) (j : Nat) : Int := (Tbl.dense 0 128 0 x.kappa).getD j 0 - ∑ i ∈ Finset.range 32, tileWord x (128 * i + j)

theorem row_differences (x : Tile) (i : Nat) :
    (((chunks 128 32 (Tbl.dense 0 4096 0 x.words)).zip (Tbl.dense 0 32 0 x.rho)).map fun p =>
      p.2 - p.1.foldl (fun n w => n + w) 0).getD i 0 =
      if i < 32 then rowOff x i else 0 := by
  conv_lhs => rw [tile_rows, eq_map_range (Tbl.dense 0 32 0 x.rho) 0 (dense_length _ _ _ _), List.zip_map', List.map_map, getD_map_range]
  refine if_congr Iff.rfl ?_ rfl
  rw [Function.comp_apply, foldl_add_map_range _ fun w => w]
  rfl

theorem column_differences (x : Tile) (j : Nat) :
    (((columns 128 (chunks 128 32 (Tbl.dense 0 4096 0 x.words))).zip (Tbl.dense 0 128 0 x.kappa)).map fun p =>
      p.2 - p.1.foldl (fun n w => n + w) 0).getD j 0 = if j < 128 then colOff x j else 0 := by
  conv_lhs =>
    rw [tile_rows, columns_map_range (fun i j => tileWord x (128 * i + j)),
      eq_map_range (Tbl.dense 0 128 0 x.kappa) 0 (dense_length _ _ _ _), List.zip_map', List.map_map, getD_map_range]
  refine if_congr Iff.rfl ?_ rfl
  rw [Function.comp_apply, foldl_add_map_range _ fun w => w]
  rfl

theorem tile_rows_getD (x : Tile) {i j : Nat} (hi : i < 32) (hj : j < 128) :
    ((chunks 128 32 (Tbl.dense 0 4096 0 x.words)).getD i []).getD j 0 = tileWord x (128 * i + j) := by
  rw [tile_rows, getD_map_range, if_pos hi, getD_map_range, if_pos hj]

/-- The rows, or the columns, whose difference is not 0. -/
def offPositions (f : Nat → Int) (n : Nat) : List Nat := (List.range n).filter fun i => (if i < n then f i else 0) != 0

theorem offPositions_none {f : Nat → Int} {n : Nat} (h : ∀ i, i < n → f i = 0) : offPositions f n = [] := by
  rw [offPositions, List.filter_eq_nil_iff]
  intro i hi
  rw [List.mem_range] at hi
  simp [h i hi]

theorem offPositions_one {f : Nat → Int} {n k : Nat} (hk : k < n) (h : ∀ i, i < n → (f i ≠ 0 ↔ i = k)) : offPositions f n = [k] := by
  rw [← List.perm_singleton, offPositions, List.perm_ext_iff_of_nodup (List.nodup_range.filter _) (List.nodup_singleton k)]
  intro i
  rw [List.mem_filter, List.mem_range, List.mem_singleton]
  constructor
  · rintro ⟨hi, hf⟩
    exact (h i hi).1 (by simpa [hi] using hf)
  · rintro rfl
    exact ⟨hk, by simpa [hk] using (h i hk).2 rfl⟩

section Check
variable {x : Tile} (hd : x.damaged = false) (hc : x.cls = .exact) (hs : x.sat = []) (hn : x.nans = [])
include hd hc hs hn

/-- A tile of the exact class with no word marked passes where no row and no column is off. -/
theorem check_passes (hr : offPositions (rowOff x) 32 = []) (hk : offPositions (colOff x) 128 = []) : x.check = {} := by
  rw [offPositions] at hr hk
  simp only [Tile.check, hd, hc, Tile.excluded, hs, hn, Bool.false_eq_true, if_false,
    show (TileClass.exact == TileClass.wide) = false from rfl, List.append_nil, List.any_nil, List.filter_false,
    List.contains_nil, Bool.not_false, Bool.true_and, row_differences, column_differences,
    hr, hk, reduceCtorEq]

/-- Where one row and one column are off by the same, the word of both is corrected by it. -/
theorem check_corrects {i j : Nat} (hi : i < 32) (hj : j < 128) (hr : offPositions (rowOff x) 32 = [i])
    (hk : offPositions (colOff x) 128 = [j]) (h : rowOff x i = colOff x j) :
    x.check.ok = true ∧ x.check.fix = some (i, j, clampRaw (tileWord x (128 * i + j) + rowOff x i)) := by
  rw [offPositions] at hr hk
  simp only [Tile.check, hd, hc, Tile.excluded, hs, hn, Bool.false_eq_true, if_false,
    show (TileClass.exact == TileClass.wide) = false from rfl, List.append_nil, List.any_nil, List.filter_false,
    List.contains_nil, Bool.not_false, Bool.true_and, row_differences, column_differences,
    hr, hk, reduceCtorEq, hi, hj, if_true, h, BEq.rfl, tile_rows_getD]
  exact ⟨trivial, trivial⟩

end Check

/-! ## A matching tile, and one in which a word was changed -/

theorem balanced_rowOff {x : Tile} (h : BalancedTile x) {i : Nat} (hi : i < 32) : rowOff x i = 0 := by
  obtain ⟨-, -, -, hrho, -⟩ := h
  rw [rowOff, hrho i hi, sum_map_range, sub_self]

theorem balanced_colOff {x : Tile} (h : BalancedTile x) {j : Nat} (hj : j < 128) : colOff x j = 0 := by
  obtain ⟨-, -, -, -, hkap⟩ := h
  rw [colOff, hkap j hj, sum_map_range, sub_self]

section Changed
variable {x y : Tile} {n : Nat} {d : Int} (hx : BalancedTile x) (hy : y = { x with words := y.words }) (hn : n < 4096)
  (hw : ∀ k, k < 4096 → tileWord y k = tileWord x k + if k = n then d else 0)
include hx hy hn hw

omit hn in
theorem changed_rowOff {i : Nat} (hi : i < 32) : rowOff y i = if i = n / 128 then -d else 0 := by
  have h0 := balanced_rowOff hx hi
  have hrho : y.rho = x.rho := by rw [hy]
  have hsum : ∑ j ∈ Finset.range 128, (if 128 * i + j = n then d else 0) = if i = n / 128 then d else 0 := by
    split
    case isTrue h =>
      rw [Finset.sum_eq_single (n % 128) (fun j hj hne => if_neg (by omega)) (fun hm => absurd (Finset.mem_range.2 (by omega)) hm),
        if_pos (by omega)]
    case isFalse h =>
      exact Finset.sum_eq_zero fun j hj => if_neg (by have := Finset.mem_range.1 hj; omega)
  rw [rowOff, hrho, Finset.sum_congr rfl fun j hj => hw (128 * i + j) (by have := Finset.mem_range.1 hj; omega),
    Finset.sum_add_distrib, hsum, ← sub_sub]
  rw [rowOff] at h0
  rw [h0]
  split <;> simp

theorem changed_colOff {j : Nat} (hj : j < 128) : colOff y j = if j = n % 128 then -d else 0 := by
  have h0 := balanced_colOff hx hj
  have hkap : y.kappa = x.kappa := by rw [hy]
  have hsum : ∑ i ∈ Finset.range 32, (if 128 * i + j = n then d else 0) = if j = n % 128 then d else 0 := by
    split
    case isTrue h =>
      rw [Finset.sum_eq_single (n / 128) (fun i hi hne => if_neg (by omega)) (fun hm => absurd (Finset.mem_range.2 (by omega)) hm),
        if_pos (by omega)]
    case isFalse h =>
      exact Finset.sum_eq_zero fun i hi => if_neg (by omega)
  rw [colOff, hkap, Finset.sum_congr rfl fun i hi => hw (128 * i + j) (by have := Finset.mem_range.1 hi; omega),
    Finset.sum_add_distrib, hsum, ← sub_sub]
  rw [colOff] at h0
  rw [h0]
  split <;> simp

/-- A single changed word is found and corrected (R208). -/
theorem changed_word_corrected (hc : x.cls = .exact) (hd0 : d ≠ 0) (hlo : -2 ^ 79 ≤ tileWord x n) (hhi : tileWord x n < 2 ^ 79) :
    y.check.ok = true ∧ y.check.fix = some (n / 128, n % 128, tileWord x n) := by
  have hrow := fun {i} (hi : i < 32) => changed_rowOff hx hy hw hi
  have hcol := fun {j} (hj : j < 128) => changed_colOff hx hy hn hw hj
  have hi : n / 128 < 32 := by omega
  have hj : n % 128 < 128 := Nat.mod_lt _ (by norm_num)
  obtain ⟨hdam, hxs, hxn, -, -⟩ := hx
  have hr : offPositions (rowOff y) 32 = [n / 128] := offPositions_one hi fun i h => by rw [hrow h]; simp [hd0]
  have hk : offPositions (colOff y) 128 = [n % 128] := offPositions_one hj fun j h => by rw [hcol h]; simp [hd0]
  obtain ⟨hok, hfix⟩ := check_corrects (x := y) (by rw [hy]; exact hdam) (by rw [hy]; exact hc) (by rw [hy]; exact hxs)
    (by rw [hy]; exact hxn) hi hj hr hk (by rw [hrow hi, hcol hj, if_pos rfl, if_pos rfl])
  refine ⟨hok, ?_⟩
  rw [hfix, hrow hi, if_pos rfl, Nat.div_add_mod, hw n hn, if_pos rfl, add_neg_cancel_right]
  congr 3
  simp only [clampRaw, rawMin, rawMax]
  omega

end Changed

/-! ## Elements given by their values -/

/-- A value is a multiple of 2^-16. -/
def IsMultiple (v : FVal) (c : Int) : Prop := ∃ n p q, v = .fin n p q ∧ exactQ n p q = (c : ℚ) / 2 ^ 16

theorem not_nan_of_isMultiple {v : FVal} {c : Int} (h : IsMultiple v c) : isNan v = false := by
  obtain ⟨n, p, q, rfl, -⟩ := h
  rfl

theorem fixed_of_isMultiple {f c : Nat} {k : Int} (hf : ExactFmt f) (h : IsMultiple (opVal f c) k) : fixed 16 (opVal f c) = k := by
  obtain ⟨n, p, q, hv, hq⟩ := h
  exact fixed_of_value hf hv hq

theorem rowInt_of_isMultiple {m : MxState} {b : BSlot} {af seg i k : Nat} {c : Int} (hf : ExactFmt af)
    (h : IsMultiple (opVal af (rowCode m af seg i k)) c) (hk : k < b.k) : rowInt m b af seg i k = c := by
  rw [rowInt, if_pos hk, fixed_of_isMultiple hf h]

theorem nan_free {m : MxState} {b : BSlot} {af seg i j : Nat} {A B : Nat → Int}
    (hA : ∀ k, k < b.k → IsMultiple (opVal af (rowCode m af seg i k)) (A k)) (hB : ∀ k, k < 128 → IsMultiple (slotVal b k j) (B k)) :
    ((aRow m b af seg i).nan || (bCol b j).nan) = false := by
  rw [Bool.or_eq_false_iff, Bool.eq_false_iff, Bool.eq_false_iff, Ne, Ne, aRow_nan, bCol_nan]
  refine ⟨fun ⟨k, hk, h⟩ => ?_, fun ⟨k, hk, h⟩ => ?_⟩
  · rw [not_nan_of_isMultiple (hA k hk)] at h
    cases h
  · rw [not_nan_of_isMultiple (hB k hk)] at h
    cases h

/-- A sum leaves its range where clamping changes it (R56). -/
theorem ne_clampRaw_iff (n : Int) : n ≠ clampRaw n ↔ n < -2 ^ 79 ∨ 2 ^ 79 - 1 < n := by
  simp only [clampRaw, rawMin, rawMax]
  omega

/-! ## The statement -/

/-- Settles O36: the weights of the reflection column make each row's sum of products, and their transposes each column's; a changed
word puts one row and one column off by the same. -/
theorem reflectionsGuardTheTile : Obligations.ReflectionsGuardTheTile := by
  intro x y m b af seg e free z w aCode is N pick
  refine ⟨fun hp hl haf hbf => ?_, fun hx hc => ?_, fun n d hx hc hn hd hlo hhi hy hw => changed_word_corrected hx hy hn hw hc hd hlo hhi⟩
  · obtain ⟨ha, hb⟩ := exactFmt_of_pairClass hp hl haf hbf
    refine ⟨fun i j A B hi hj _ he hA hB hsat _ => ?_, fun n hn he => mac_word_kept hp hl hn he,
      fun hr hzs hzn hx => mac_balanced hp hl ha hb hr hzs hzn hx⟩
    obtain ⟨hword, hmark⟩ := mac_word (free := free) hp hl hi hj ha hb he (nan_free hA hB) hsat
    have hsum : productSum m b af seg i j = ((List.range 128).map fun k => A (pick k j) * B k).sum := by
      rw [sum_map_range]
      exact Finset.sum_congr rfl fun k hk => by
        have hk := Finset.mem_range.1 hk
        rw [rowInt_of_isMultiple ha (hA _ (slotPick_lt b j hk)) (slotPick_lt b j hk),
          show fixed 16 (slotVal b k j) = B k from fixed_of_isMultiple hb (hB k hk)]
        rfl
    rw [hsum] at hword hmark
    exact ⟨hword, hmark.trans (ne_clampRaw_iff _)⟩
  · obtain ⟨hdam, hxs, hxn, -, -⟩ := id hx
    exact check_passes hdam hc hxs hxn (offPositions_none fun i hi => balanced_rowOff hx hi)
      (offPositions_none fun j hj => balanced_colOff hx hj)

end Sys2Proof.Numbers
end

section
/-! CTX.NEW, CTX.SW and CTX.END (R66): a final scalar clears its register's poison mark, which the statement holds fixed. -/

namespace Sys2Proof.Contexts
open Sys2Proof Sys2Proof.Machine

theorem exec_ctxSw (d a : Fin 64) (x : Fin 8) (s : State) : exec (.ctxSw d a x) s = execCtxSw d a x s := rfl

/-- CTX.SW of a number past 63 writes -3 and goes on (R66). -/
theorem execCtxSw_past63 {s : State} (d a : Fin 64) (x : Fin 8) (hp : (s.ctx s.cctx).priv = true) (h : 63 < (s.rdS a.val).toNat) :
    execCtxSw d a x s = .next (s.closeRegion.setFinal d.val (-3)).retire := by
  simp [execCtxSw, State.privileged, hp, State.ctxBad, h]

/-- A final scalar loses its poison mark (R15). -/
theorem setFinal_retire_sPoison (s : State) (d : Nat) (v : Int) (hd : d ≠ 0) :
    (s.setFinal d v).retire.cw.sPoison = s.cw.sPoison.filter fun k => k != d := by
  simp [State.setFinal, Wave.finalS, Wave.putS, hd]

theorem closeRegion_sPoison (s : State) : s.closeRegion.cw.sPoison = s.cw.sPoison := by simp [State.closeRegion]

/-- What EndsFinal says of a wave's poison marks: they stay as they were. -/
theorem sPoison_of_endsFinal {s t : State} {d : Nat} {v : DWord} (h : EndsFinal s t d v) : t.cw.sPoison = s.cw.sPoison := by
  obtain ⟨-, -, -, hw⟩ := h
  have h := congrArg Wave.sPoison hw
  exact h

/-- A privileged wave with 64 in s1 and a poison mark on s5. -/
def markedDestination : State :=
  { ctxs := [(0, { priv := true })]
    groups := [(0, { waves := [(0, { s := (Vector.replicate 64 0).set 1 64, sPoison := [5] })] })] }

/-- Refutes O46: CTX.SW with destination s5 writes -3 there and so clears the mark of s5 (R15), but EndsFinal asks that the wave's
poison marks stay as they were. -/
theorem not_contextsAreRun : ¬ Obligations.ContextsAreRun := by
  unfold Obligations.ContextsAreRun
  intro h
  have hpriv : (markedDestination.ctx markedDestination.cctx).priv = true := by decide
  have hp : 63 < (markedDestination.rdS 1).toNat := by decide
  obtain ⟨-, -, -, hbad, -⟩ := h markedDestination 5 1 0 0 0 0 0 0 0 0 0 0 ⟨0, 0, 0, 0, false, false, false, false⟩
  obtain ⟨t, hexec, hends, -⟩ := (hbad hpriv (.ctxSw 5 1 0) (by simp)).1 hp
  rw [exec_ctxSw, execCtxSw_past63 5 1 0 hpriv hp] at hexec
  obtain rfl := Host.Outcome.next.inj hexec
  have hmarks := sPoison_of_endsFinal hends
  rw [show (5 : Fin 64).val = 5 from rfl, setFinal_retire_sPoison _ 5 (-3) (by decide), closeRegion_sPoison] at hmarks
  exact absurd hmarks (by decide)

end Sys2Proof.Contexts
end

section
/-! Tables and folds, and the frames of the reads and writes that the ends of groups and kernels make: of stored errors, of notices, of
the journal. -/

namespace Sys2Proof.Contexts
open Sys2Proof Sys2Proof.Machine

/-! ## Tables -/

section Tables
variable {α : Type}

theorem mem_of_get? {t : Tbl α} {k : Nat} {v : α} (h : Tbl.get? t k = some v) : (k, v) ∈ t := by
  induction t with
  | nil => cases h
  | cons e r ih =>
    obtain ⟨j, x⟩ := e
    rw [Tbl.get?] at h
    split at h
    · cases h
      subst_vars
      exact List.mem_cons_self
    · exact List.mem_cons_of_mem _ (ih h)

theorem mem_set {t : Tbl α} {k : Nat} {v : α} {e : Nat × α} (h : e ∈ Tbl.set t k v) : e = (k, v) ∨ e ∈ t := by
  induction t with
  | nil => exact .inl (List.mem_singleton.1 h)
  | cons f r ih =>
    obtain ⟨j, x⟩ := f
    rw [Tbl.set] at h
    split at h
    · exact List.mem_cons.1 h
    · split at h
      · exact (List.mem_cons.1 h).imp_right (List.mem_cons_of_mem _)
      · rcases List.mem_cons.1 h with rfl | h
        · exact .inr List.mem_cons_self
        · exact (ih h).imp_right (List.mem_cons_of_mem _)

theorem getD_of_get? {t : Tbl α} {k : Nat} {v d : α} (h : Tbl.get? t k = some v) : Tbl.getD t k d = v := by
  simp [Tbl.getD, h]

/-- What is read and is not the default stands in the table. -/
theorem get?_of_getD_ne {t : Tbl α} {k : Nat} {d : α} (h : Tbl.getD t k d ≠ d) : Tbl.get? t k = some (Tbl.getD t k d) := by
  cases hk : Tbl.get? t k with
  | none => exact absurd (by simp [Tbl.getD, hk]) h
  | some v => rw [getD_of_get? hk]

/-- A change of every entry that keeps the default changes what is read. -/
theorem getD_mapVals (t : Tbl α) (f : α → α) (k : Nat) {d : α} (hd : f d = d) :
    Tbl.getD (Tbl.mapVals t f) k d = f (Tbl.getD t k d) := by
  rw [Tbl.getD, Tbl.getD, Tbl.get?_mapVals]
  cases Tbl.get? t k with
  | none => exact hd.symm
  | some v => rfl

theorem mapVals_mapVals (t : Tbl α) (f g : α → α) : Tbl.mapVals (Tbl.mapVals t f) g = Tbl.mapVals t fun x => g (f x) := by
  simp [Tbl.mapVals]

end Tables

/-! ## Folds -/

/-- What one step of a fold establishes and every other keeps holds after it. -/
theorem foldl_reaches {σ α : Type} (f : σ → α → σ) (P Q : σ → Prop) {l : List α} {a : α} (ha : a ∈ l)
    (hP : ∀ t b, b ∈ l → P t → P (f t b)) (hQ : ∀ t b, b ∈ l → P t → Q t → Q (f t b)) (hreach : ∀ t, P t → Q (f t a))
    {s : σ} (hs : P s) : Q (l.foldl f s) := by
  induction l generalizing s with
  | nil => cases ha
  | cons b r ih =>
    have hPr : ∀ t c, c ∈ r → P t → P (f t c) := fun t c hc => hP t c (List.mem_cons_of_mem _ hc)
    have hQr : ∀ t c, c ∈ r → P t → Q t → Q (f t c) := fun t c hc => hQ t c (List.mem_cons_of_mem _ hc)
    have hb : P (f s b) := hP s b List.mem_cons_self hs
    rcases List.mem_cons.1 ha with rfl | ha
    · have : P (r.foldl f (f s a)) ∧ Q (r.foldl f (f s a)) :=
        List.foldlRecOn (motive := fun t => P t ∧ Q t) r f ⟨hb, hreach s hs⟩
          fun t ht c hc => ⟨hPr t c hc ht.1, hQr t c hc ht.1 ht.2⟩
      exact this.2
    · exact ih ha hPr hQr hb

/-! ## Memory and the Lamplighter's records -/

/-- Only the memory machine and the Lamplighter's records may differ. -/
def MemLamp (s t : State) : Prop := { t with memory := s.memory, lamp := s.lamp } = s

theorem MemLamp.refl (s : State) : MemLamp s s := rfl

theorem MemLamp.trans {s t u : State} (h : MemLamp s t) (k : MemLamp t u) : MemLamp s u := by
  calc { u with memory := s.memory, lamp := s.lamp }
      = { ({ u with memory := t.memory, lamp := t.lamp } : State) with memory := s.memory, lamp := s.lamp } := rfl
    _ = { t with memory := s.memory, lamp := s.lamp } := by rw [show ({ u with memory := t.memory, lamp := t.lamp } : State) = t from k]
    _ = s := by rw [show ({ t with memory := s.memory, lamp := s.lamp } : State) = s from h]

theorem MemLamp.foldl {α : Type} (f : State → α → State) (l : List α) (hf : ∀ t a, MemLamp t (f t a)) (s : State) :
    MemLamp s (l.foldl f s) :=
  List.foldlRecOn (motive := MemLamp s) l f (MemLamp.refl s) fun t ht a _ => ht.trans (hf t a)

section
variable {s t : State} (h : MemLamp s t)
include h

theorem MemLamp.host : t.host = s.host := by have := congrArg State.host h; exact this
theorem MemLamp.time : t.time = s.time := by have := congrArg State.time h; exact this
theorem MemLamp.ctxs : t.ctxs = s.ctxs := by have := congrArg State.ctxs h; exact this
theorem MemLamp.disp : t.disp = s.disp := by have := congrArg State.disp h; exact this
theorem MemLamp.groups : t.groups = s.groups := by have := congrArg State.groups h; exact this
theorem MemLamp.cores : t.cores = s.cores := by have := congrArg State.cores h; exact this
theorem MemLamp.cur : t.cur = s.cur := by have := congrArg State.cur h; exact this
theorem MemLamp.ctx (c : Nat) : t.ctx c = s.ctx c := by rw [State.ctx, h.ctxs]; rfl

end

theorem flicker_memLamp (s : State) (u weight : Nat) : MemLamp s (s.flicker u weight) := by
  unfold State.flicker
  dsimp only
  split <;> rfl

theorem correction_memLamp (s : State) (line weight : Nat) : MemLamp s (s.correction line weight) := by
  unfold State.correction
  split
  · exact flicker_memLamp s _ _
  · rfl

theorem modMem_memLamp (s : State) (f : Memory → Memory) : MemLamp s (s.modMem f) := rfl

theorem touchLine_memLamp (s : State) (line : Nat) : MemLamp s (s.touchLine line) := by
  unfold State.touchLine
  split
  · rfl
  · exact (modMem_memLamp s _).trans (correction_memLamp _ _ _)
  · exact (modMem_memLamp s _).trans (correction_memLamp _ _ _)
  · rfl

theorem walkTouch_memLamp (s : State) (c va : Nat) : MemLamp s (s.walkTouch c va) := by
  unfold State.walkTouch
  split
  · rfl
  · exact MemLamp.foldl _ _ (fun t a => touchLine_memLamp t _) s

theorem applyCells_memLamp (s : State) (cells : List (Nat × Byte)) : MemLamp s (s.applyCells cells) := by
  refine MemLamp.trans (MemLamp.foldl _ _ (fun t l => ?_) s) (modMem_memLamp _ _)
  split
  · rfl
  · exact touchLine_memLamp t l

theorem note_memLamp (s : State) (g w : Nat) (p : GWrite → Bool) : MemLamp s (s.note g w p) := rfl

/-- A notice changes memory, and of its context the ring's indices and counts (R60). -/
theorem postNotice_cases (s : State) (c kind unit detail : Nat) : ∃ u x, MemLamp s u ∧
    s.postNotice c kind unit detail = u.setCtx c x ∧
    { x with wr := (s.ctx c).wr, unread := (s.ctx c).unread, lost := (s.ctx c).lost } = s.ctx c := by
  unfold State.postNotice
  dsimp only
  split
  · exact ⟨s, _, MemLamp.refl s, rfl, rfl⟩
  · split
    · exact ⟨_, _, walkTouch_memLamp s _ _, rfl, rfl⟩
    · split
      · exact ⟨_, _, walkTouch_memLamp s _ _, rfl, rfl⟩
      · have hm := fun cells => (walkTouch_memLamp s c ((s.ctx c).notices + 16 * (s.ctx c).wr)).trans (applyCells_memLamp _ cells)
        exact ⟨_, _, hm _, rfl, by rw [(hm _).ctx]⟩

end Sys2Proof.Contexts
end

section
/-! What the ends of groups, kernels and contexts leave as it stood (R61, R83, R84): one relation, which each operation that they are made
of satisfies. -/

namespace Sys2Proof.Contexts
open Sys2Proof Sys2Proof.Machine

/-! ## The relation -/

/-- An install or a suspension still has to complete the journal entry of a command. -/
def Awaits (s : State) (j : Nat) : Prop := (∃ y, y ∈ s.disp.installs ∧ y.jseq = j) ∨ ∃ e, e ∈ s.ctxs ∧ j ∈ e.2.jsusp

/-- A journal entry set complete (R80). -/
def entryDone (e : JEntry) : JEntry := { e with st := 2, code := 0 }

/-- A group keeps its kernel, and its place unless it ends unsaved. -/
structure GroupKept (x y : Group) : Prop where
  kernel : y.kernel = x.kernel
  standing : (y.place = x.place ∧ y.failed = x.failed) ∨ (y.place = .ended ∧ y.failed = true)

/-- A kernel keeps all but its image, its mailboxes and its pass from a state that can fail to failing. -/
structure KernelKept (x y : Kernel) : Prop where
  ctx : y.ctx = x.ctx
  queue : y.queue = x.queue
  exited : y.exited = x.exited
  standing : (y.st = x.st ∧ y.code = x.code ∧ y.noGroups = x.noGroups) ∨ (x.st.canFail = true ∧ y.st = .failing ∧ y.noGroups = true)

/-- Nothing comes back to life, and the host's part is left alone but for journal entries that an install or a suspension completes. -/
structure Keeps (s t : State) : Prop where
  host : { t.host with ring := s.host.ring } = s.host
  time : t.time = s.time
  awaits : ∀ j, Awaits t j → Awaits s j
  ring : ∀ i e, Tbl.get? s.host.ring i = some e → ∃ e', Tbl.get? t.host.ring i = some e' ∧ (e' = e ∨ Awaits s e.seq ∧ e' = entryDone e)
  ctxs : ∀ c, (t.ctx c).st = (s.ctx c).st
  kernels : ∀ k, KernelKept (s.kernel k) (t.kernel k)
  groups : ∀ h H, Tbl.get? s.groups h = some H → ∃ H', Tbl.get? t.groups h = some H' ∧ GroupKept H H'

theorem GroupKept.refl (x : Group) : GroupKept x x := ⟨rfl, .inl ⟨rfl, rfl⟩⟩

theorem GroupKept.trans {x y z : Group} (h : GroupKept x y) (k : GroupKept y z) : GroupKept x z := by
  refine ⟨k.kernel.trans h.kernel, ?_⟩
  rcases k.standing with ⟨kp, kf⟩ | k
  · rw [kp, kf]
    exact h.standing
  · exact .inr k

/-- A group that has ended unsaved stays so. -/
theorem GroupKept.stopped {x y : Group} (h : GroupKept x y) (hx : x.place = .ended ∧ x.failed = true) :
    y.place = .ended ∧ y.failed = true := by
  rcases h.standing with ⟨hp, hf⟩ | h
  · exact ⟨hp.trans hx.1, hf.trans hx.2⟩
  · exact h

theorem KernelKept.refl (x : Kernel) : KernelKept x x := ⟨rfl, rfl, rfl, .inl ⟨rfl, rfl, rfl⟩⟩

theorem KernelKept.trans {x y z : Kernel} (h : KernelKept x y) (k : KernelKept y z) : KernelKept x z := by
  refine ⟨k.ctx.trans h.ctx, k.queue.trans h.queue, k.exited.trans h.exited, ?_⟩
  rcases h.standing with ⟨hs, hc, hn⟩ | ⟨hf, hs, hn⟩ <;> rcases k.standing with ⟨ks, kc, kn⟩ | ⟨kf, ks, kn⟩
  · exact .inl ⟨ks.trans hs, kc.trans hc, kn.trans hn⟩
  · exact .inr ⟨hs ▸ kf, ks, kn⟩
  · exact .inr ⟨hf, ks.trans hs, kn.trans hn⟩
  · rw [hs] at kf
    cases kf

/-- A kernel that can no longer fail keeps its state and its code. -/
theorem KernelKept.still {x y : Kernel} (h : KernelKept x y) (hx : x.st.canFail = false) :
    y.st = x.st ∧ y.code = x.code ∧ y.noGroups = x.noGroups :=
  h.standing.resolve_right fun k => by simp [hx] at k

/-- A state that differs in nothing that Keeps looks at. -/
theorem Keeps.of_fields {s t : State} (host : t.host = s.host) (time : t.time = s.time) (ctxs : t.ctxs = s.ctxs)
    (kernels : t.disp.kernels = s.disp.kernels) (installs : t.disp.installs = s.disp.installs) (groups : t.groups = s.groups) :
    Keeps s t where
  host := by rw [host]
  time := time
  awaits j h := by rwa [Awaits, installs, ctxs] at h
  ring i e h := ⟨e, by rw [host, h], .inl rfl⟩
  ctxs c := by rw [State.ctx, State.ctx, ctxs]
  kernels k := by rw [State.kernel, State.kernel, kernels]; exact KernelKept.refl _
  groups h H hH := ⟨H, by rw [groups, hH], GroupKept.refl H⟩

theorem Keeps.refl (s : State) : Keeps s s := Keeps.of_fields rfl rfl rfl rfl rfl rfl

theorem Keeps.trans {s t u : State} (h : Keeps s t) (k : Keeps t u) : Keeps s u where
  host := by
    calc { u.host with ring := s.host.ring } = { ({ u.host with ring := t.host.ring } : HostIf) with ring := s.host.ring } := rfl
      _ = { t.host with ring := s.host.ring } := by rw [k.host]
      _ = s.host := h.host
  time := k.time.trans h.time
  awaits j hj := h.awaits j (k.awaits j hj)
  ring i e he := by
    obtain ⟨e₁, he₁, h₁⟩ := h.ring i e he
    obtain ⟨e₂, he₂, h₂⟩ := k.ring i e₁ he₁
    refine ⟨e₂, he₂, ?_⟩
    rcases h₁ with rfl | ⟨hw, rfl⟩
    · exact h₂.imp_right fun ⟨hw, h₂⟩ => ⟨h.awaits _ hw, h₂⟩
    · exact .inr ⟨hw, h₂.elim id fun ⟨_, h⟩ => h⟩
  ctxs c := (k.ctxs c).trans (h.ctxs c)
  kernels n := (h.kernels n).trans (k.kernels n)
  groups n H hH := by
    obtain ⟨H₁, hH₁, h₁⟩ := h.groups n H hH
    obtain ⟨H₂, hH₂, h₂⟩ := k.groups n H₁ hH₁
    exact ⟨H₂, hH₂, h₁.trans h₂⟩

theorem Keeps.foldl {α : Type} (f : State → α → State) (l : List α) (hf : ∀ t a, Keeps t (f t a)) (s : State) :
    Keeps s (l.foldl f s) :=
  List.foldlRecOn (motive := Keeps s) l f (Keeps.refl s) fun t ht a _ => ht.trans (hf t a)

theorem MemLamp.keeps {s t : State} (h : MemLamp s t) : Keeps s t :=
  Keeps.of_fields h.host h.time h.ctxs (by rw [h.disp]) (by rw [h.disp]) h.groups

/-! ## Updates of one object -/

theorem setGroup_keeps (s : State) (g : Nat) (x : Group) (hx : GroupKept (s.group g) x) : Keeps s (s.setGroup g x) where
  host := rfl
  time := rfl
  awaits _ h := h
  ring _ e h := ⟨e, h, .inl rfl⟩
  ctxs _ := rfl
  kernels _ := KernelKept.refl _
  groups h H hH := by
    rw [State.setGroup_groups, Tbl.get?_set]
    split
    · subst_vars
      refine ⟨x, rfl, ?_⟩
      rwa [State.group, getD_of_get? hH] at hx
    · exact ⟨H, hH, GroupKept.refl H⟩

theorem modGroup_keeps (s : State) (g : Nat) (f : Group → Group) (hf : ∀ x, GroupKept x (f x)) : Keeps s (s.modGroup g f) :=
  setGroup_keeps s g _ (hf _)

/-- A change of every group. -/
theorem mapGroups_keeps (s : State) (f : Group → Group) (hf : ∀ x, GroupKept x (f x)) :
    Keeps s { s with groups := Tbl.mapVals s.groups f } where
  host := rfl
  time := rfl
  awaits _ h := h
  ring _ e h := ⟨e, h, .inl rfl⟩
  ctxs _ := rfl
  kernels _ := KernelKept.refl _
  groups h H hH := ⟨f H, by rw [Tbl.get?_mapVals, hH]; rfl, hf H⟩

theorem modCore_keeps (s : State) (u : Nat) (f : Core → Core) : Keeps s (s.modCore u f) := Keeps.of_fields rfl rfl rfl rfl rfl rfl

/-- A context's entry in which no suspension begins awaits no more. -/
theorem awaits_of_setCtx {s : State} {c : Nat} {x : Context} {j : Nat} (hj : ∀ j, j ∈ x.jsusp → j ∈ (s.ctx c).jsusp)
    (h : Awaits (s.setCtx c x) j) : Awaits s j := by
  refine h.imp_right fun ⟨e, he, hje⟩ => ?_
  rcases mem_set he with rfl | he
  · have hne : s.ctx c ≠ {} := fun h0 => by simpa [h0] using hj j hje
    exact ⟨(c, s.ctx c), mem_of_get? (get?_of_getD_ne hne), hj j hje⟩
  · exact ⟨e, he, hje⟩

/-- A context's entry whose state stays, and in which no suspension begins. -/
theorem setCtx_keeps (s : State) (c : Nat) (x : Context) (hst : x.st = (s.ctx c).st) (hj : ∀ j, j ∈ x.jsusp → j ∈ (s.ctx c).jsusp) :
    Keeps s (s.setCtx c x) where
  host := rfl
  time := rfl
  awaits _ h := awaits_of_setCtx hj h
  ring _ e h := ⟨e, h, .inl rfl⟩
  ctxs d := by
    by_cases hd : d = c
    · rw [hd, State.ctx_setCtx, hst]
    · rw [State.ctx_setCtx_of_ne _ _ hd]
  kernels _ := KernelKept.refl _
  groups h H hH := ⟨H, hH, GroupKept.refl H⟩

theorem setKernel_keeps (s : State) (k : Nat) (x : Kernel) (hx : KernelKept (s.kernel k) x) : Keeps s (s.setKernel k x) where
  host := rfl
  time := rfl
  awaits _ h := h
  ring _ e h := ⟨e, h, .inl rfl⟩
  ctxs _ := rfl
  kernels n := by
    by_cases hn : n = k
    · rw [hn, State.kernel_setKernel]
      exact hx
    · rw [State.kernel_setKernel_of_ne _ _ hn]
      exact KernelKept.refl _
  groups h H hH := ⟨H, hH, GroupKept.refl H⟩

theorem modQueue_keeps (s : State) (q : Nat) (f : Queue → Queue) : Keeps s (s.modQueue q f) := Keeps.of_fields rfl rfl rfl rfl rfl rfl

theorem setSlice_keeps (s : State) (k d : Nat) (x : DieSlice) : Keeps s (s.setSlice k d x) := Keeps.of_fields rfl rfl rfl rfl rfl rfl

/-! ## The journal (R80) -/

/-- An entry's advance changes at most the ring, and there at most the entry that bears the number (R80). -/
theorem jset_cases (s : State) (seq st code : Nat) : s.jset seq st code = s ∨
    ∃ e, Tbl.get? s.host.ring ((seq - 1) % 32768) = some e ∧ e.seq = seq ∧ s.jset seq st code =
      { s with host := { s.host with ring := Tbl.set s.host.ring ((seq - 1) % 32768) { e with st := st, code := code } } } := by
  unfold State.jset
  split
  · split
    · next e he h => exact .inr ⟨e, he, h.1, rfl⟩
    · exact .inl rfl
  · exact .inl rfl

/-- Of a state only the journal's ring differs. -/
def RingOnly (s t : State) : Prop := { t with host := { t.host with ring := s.host.ring } } = s

theorem RingOnly.eq {s t : State} (h : RingOnly s t) : t = { s with host := { s.host with ring := t.host.ring } } := by
  conv_rhs => rw [← show ({ t with host := { t.host with ring := s.host.ring } } : State) = s from h]

theorem jset_ringOnly (s : State) (seq st code : Nat) : RingOnly s (s.jset seq st code) := by
  rcases jset_cases s seq st code with h | ⟨e, -, -, h⟩ <;> rw [h] <;> rfl

theorem RingOnly.trans {s t u : State} (h : RingOnly s t) (k : RingOnly t u) : RingOnly s u := by
  calc { u with host := { u.host with ring := s.host.ring } }
      = { ({ u with host := { u.host with ring := t.host.ring } } : State) with host :=
          { ({ u with host := { u.host with ring := t.host.ring } } : State).host with ring := s.host.ring } } := rfl
    _ = { t with host := { t.host with ring := s.host.ring } } := by
        rw [show ({ u with host := { u.host with ring := t.host.ring } } : State) = t from k]
    _ = s := by rw [show ({ t with host := { t.host with ring := s.host.ring } } : State) = s from h]

theorem jsets_ringOnly (s : State) (js : List Nat) : RingOnly s (js.foldl (fun t j => t.jset j 2 0) s) :=
  List.foldlRecOn (motive := RingOnly s) js _ rfl fun t ht j _ => ht.trans (jset_ringOnly t j 2 0)

/-- An install or a suspension that the state awaits completes its entry. -/
theorem Keeps.jset {s t : State} (h : Keeps s t) {j : Nat} (hj : Awaits s j) : Keeps s (t.jset j 2 0) := by
  rcases jset_cases t j 2 0 with h' | ⟨e₀, he₀, hseq, h'⟩
  · rwa [h']
  · rw [h']
    refine { h with ring := fun i e he => ?_ }
    obtain ⟨e₁, he₁, h₁⟩ := h.ring i e he
    rw [Tbl.get?_set]
    split
    · subst_vars
      rw [he₁] at he₀
      obtain rfl := Option.some.inj he₀
      refine ⟨_, rfl, .inr ?_⟩
      rcases h₁ with rfl | ⟨hw, rfl⟩
      · exact ⟨hj, rfl⟩
      · exact ⟨hw, rfl⟩
    · exact ⟨e₁, he₁, h₁⟩

/-- A suspension that is complete completes its commands' entries (R67). -/
theorem settleSuspend_keeps (s : State) (c : Nat) : Keeps s (s.settleSuspend c) := by
  unfold State.settleSuspend
  split
  · exact Keeps.refl s
  · split
    · exact Keeps.refl s
    · next js hjs _ =>
      have hne : s.ctx c ≠ {} := fun h0 => by rw [h0] at hjs; exact hjs rfl
      have hstart : Keeps s (s.modCtx c fun x => { x with jsusp := [] }) := setCtx_keeps s c _ rfl fun j hj => by simp at hj
      exact List.foldlRecOn (motive := Keeps s) _ _ hstart fun t ht j hj =>
        ht.jset (.inr ⟨(c, s.ctx c), mem_of_get? (get?_of_getD_ne hne), hj⟩)

/-! ## Installs (R94) -/

/-- A kernel takes the image of a complete install for its own. -/
def Kernel.takeImage (x : Install) (k : Kernel) : Kernel :=
  if k.install = some x.id then
    { k with img := k.newImg.getD k.img, newImg := none, install := none, pkt := { k.pkt with code := x.img.base + x.img.desc } }
  else k

/-- The waves of a group run their kernel's own image again. -/
def Group.takeImage (x : Install) (g : Group) : Group :=
  { g with waves := Tbl.mapVals g.waves fun w => if w.adopted = some x.id then { w with adopted := none } else w }

/-- An install that is complete. -/
def installed (t : State) (x : Install) : State :=
  { t with
    disp := { t.disp with
      installs := t.disp.installs.map fun y => if y.id = x.id then { y with complete := true } else y
      kernels := Tbl.mapVals t.disp.kernels (Kernel.takeImage x) }
    groups := Tbl.mapVals t.groups (Group.takeImage x) }

theorem settleInstalls_eq (s : State) :
    s.settleInstalls = (s.disp.installs.filter fun x => !x.complete && s.installDone x).foldl
      (fun t x => (installed t x).jset x.jseq 2 0) s := rfl

/-- Where every install is complete already, none becomes complete. -/
theorem settleInstalls_of_complete (s : State) (h : ∀ x, x ∈ s.disp.installs → x.complete = true ∨ s.installDone x = false) :
    s.settleInstalls = s := by
  rw [settleInstalls_eq, List.filter_eq_nil_iff.2, List.foldl_nil]
  intro x hx
  rcases h x hx with hc | hd
  · simp [hc]
  · simp [hd]

theorem installed_keeps (t : State) (x : Install) : Keeps t (installed t x) where
  host := rfl
  time := rfl
  awaits j h := by
    refine h.imp_left fun ⟨y, hy, hyj⟩ => ?_
    obtain ⟨z, hz, rfl⟩ := List.mem_map.1 hy
    refine ⟨z, hz, ?_⟩
    rw [← hyj]
    split <;> rfl
  ring _ e h := ⟨e, h, .inl rfl⟩
  ctxs _ := rfl
  kernels k := by
    have hk : (installed t x).kernel k = Kernel.takeImage x (t.kernel k) := getD_mapVals t.disp.kernels (Kernel.takeImage x) k rfl
    rw [hk, Kernel.takeImage]
    split
    · exact ⟨rfl, rfl, rfl, .inl ⟨rfl, rfl, rfl⟩⟩
    · exact KernelKept.refl _
  groups n H hH := ⟨Group.takeImage x H, by rw [installed, Tbl.get?_mapVals, hH]; rfl, ⟨rfl, .inl ⟨rfl, rfl⟩⟩⟩

theorem settleInstalls_keeps (s : State) : Keeps s s.settleInstalls := by
  rw [settleInstalls_eq]
  exact List.foldlRecOn (motive := Keeps s) _ _ (Keeps.refl s) fun t ht x hx =>
    (ht.trans (installed_keeps t x)).jset (.inl ⟨x, (List.mem_filter.1 hx).1, rfl⟩)

end Sys2Proof.Contexts
end

section
/-! Groups that stop and kernels that fail (R83, R84): what they leave as it stood, and what they end. -/

namespace Sys2Proof.Contexts
open Sys2Proof Sys2Proof.Machine

/-! ## Notices, barriers, die slices -/

theorem postNotice_keeps (s : State) (c kind unit detail : Nat) : Keeps s (s.postNotice c kind unit detail) := by
  obtain ⟨u, x, hu, heq, hx⟩ := postNotice_cases s c kind unit detail
  have hst := congrArg Context.st hx
  have hj := congrArg Context.jsusp hx
  rw [heq]
  exact hu.keeps.trans (setCtx_keeps u c x (by rw [hu.ctx]; exact hst) fun j h => by rw [hu.ctx, ← hj]; exact h)

/-- A notice leaves kernels, queues and groups alone. -/
theorem postNotice_disp (s : State) (c kind unit detail : Nat) : (s.postNotice c kind unit detail).disp = s.disp := by
  obtain ⟨u, x, hu, heq, -⟩ := postNotice_cases s c kind unit detail
  rw [heq, State.setCtx_disp, hu.disp]

theorem postNotice_groups (s : State) (c kind unit detail : Nat) : (s.postNotice c kind unit detail).groups = s.groups := by
  obtain ⟨u, x, hu, heq, -⟩ := postNotice_cases s c kind unit detail
  rw [heq, State.setCtx_groups, hu.groups]

theorem postNotice_cur (s : State) (c kind unit detail : Nat) : (s.postNotice c kind unit detail).cur = s.cur := by
  obtain ⟨u, x, hu, heq, -⟩ := postNotice_cases s c kind unit detail
  rw [heq, State.setCtx_cur, hu.cur]

theorem postNotice_time (s : State) (c kind unit detail : Nat) : (s.postNotice c kind unit detail).time = s.time := by
  obtain ⟨u, x, hu, heq, -⟩ := postNotice_cases s c kind unit detail
  rw [heq, State.setCtx_time, hu.time]

theorem postNotice_host (s : State) (c kind unit detail : Nat) : (s.postNotice c kind unit detail).host = s.host := by
  obtain ⟨u, x, hu, heq, -⟩ := postNotice_cases s c kind unit detail
  rw [heq, State.setCtx_host, hu.host]

/-- A notice whose detail is open is a notice with some detail, and takes the number of a free value. -/
theorem openNotice_eq (s : State) (c kind unit : Nat) : ∃ detail,
    s.openNotice c kind unit = ({ s with freeNo := s.freeNo + 1 } : State).postNotice c kind unit detail := ⟨_, rfl⟩

theorem openNotice_groups (s : State) (c kind unit : Nat) : (s.openNotice c kind unit).groups = s.groups := by
  obtain ⟨detail, h⟩ := openNotice_eq s c kind unit
  rw [h, postNotice_groups]

theorem openNotice_cur (s : State) (c kind unit : Nat) : (s.openNotice c kind unit).cur = s.cur := by
  obtain ⟨detail, h⟩ := openNotice_eq s c kind unit
  rw [h, postNotice_cur]

theorem openNotice_time (s : State) (c kind unit : Nat) : (s.openNotice c kind unit).time = s.time := by
  obtain ⟨detail, h⟩ := openNotice_eq s c kind unit
  rw [h, postNotice_time]

theorem postCancelled_keeps (s : State) (g op u : Nat) (d : Option Nat) : Keeps s (s.postCancelled g op u d) := by
  unfold State.postCancelled
  split
  · exact Keeps.refl s
  · split
    · exact (modMem_memLamp s _).keeps
    · exact postNotice_keeps s _ _ _ _

theorem postDrops_keeps (s : State) (g : Nat) : Keeps s (s.postDrops g) :=
  Keeps.foldl _ _ (fun t d => postCancelled_keeps t g _ _ _) s

theorem fqDrop_keeps (s : State) (p : Waiter → Bool) : Keeps s (s.fqDrop p) where
  host := rfl
  time := rfl
  awaits j h := by
    refine h.imp_right fun ⟨e, he, hj⟩ => ?_
    obtain ⟨e', he', rfl⟩ := List.mem_map.1 he
    exact ⟨e', he', hj⟩
  ring _ e h := ⟨e, h, .inl rfl⟩
  ctxs c := by
    rw [State.ctx, State.fqDrop, getD_mapVals _ _ _ rfl]
    rfl
  kernels _ := KernelKept.refl _
  groups _ H hH := ⟨H, hH, GroupKept.refl H⟩

theorem acquire_keeps (s : State) (g w scope : Nat) : Keeps s (s.acquire g w scope) := by
  unfold State.acquire
  have h := (note_memLamp s g w (s.acquired g scope)).keeps
  dsimp only
  split
  · exact h.trans (modCore_keeps _ _ _)
  · exact h

theorem unblockDbar_keeps (s : State) (g : Nat) : Keeps s (s.unblockDbar g) := by
  refine Keeps.trans ?_ (Keeps.foldl _ _ (fun t (w : Nat × Wave) => acquire_keeps t g w.1 3) _)
  refine Keeps.trans ?_ (modCore_keeps _ _ _)
  exact modGroup_keeps s g _ fun _ => ⟨rfl, .inl ⟨rfl, rfl⟩⟩

theorem checkSlice_keeps (s : State) (k d : Nat) : Keeps s (s.checkSlice k d) := by
  unfold State.checkSlice
  dsimp only
  split
  · exact (setSlice_keeps s k d _).trans (Keeps.foldl _ _ unblockDbar_keeps _)
  · exact Keeps.refl s

theorem leaveSlice_keeps (s : State) (g : Nat) : Keeps s (s.leaveSlice g) :=
  (setSlice_keeps s _ _ _).trans (checkSlice_keeps _ _ _)

theorem leaveBar_kept (x : Group) (b w : Nat) (k : Word) : GroupKept x (x.leaveBar b w k) := by
  unfold Group.leaveBar Group.checkBar
  dsimp only
  split <;> exact ⟨rfl, .inl ⟨rfl, rfl⟩⟩

theorem leaveAll_kept (x : Group) (w : Nat) (k : Word) : GroupKept x (x.leaveAll w k) := by
  refine List.foldlRecOn (motive := GroupKept x) _ _ (GroupKept.refl x) fun y hy b _ => ?_
  split
  · exact hy
  · exact hy.trans (leaveBar_kept y b w k)

/-! ## A group stops (R84) -/

/-- A group has ended unsaved. -/
def HasStopped (s : State) (g : Nat) : Prop := ∃ G, Tbl.get? s.groups g = some G ∧ G.place = .ended ∧ G.failed = true

theorem HasStopped.keeps {s t : State} {g : Nat} (h : HasStopped s g) (k : Keeps s t) : HasStopped t g := by
  obtain ⟨G, hG, hp, hf⟩ := h
  obtain ⟨G', hG', hk⟩ := k.groups g G hG
  exact ⟨G', hG', hk.stopped ⟨hp, hf⟩⟩

theorem HasStopped.place {s : State} {g : Nat} (h : HasStopped s g) : (s.group g).place = .ended := by
  obtain ⟨G, hG, hp, -⟩ := h
  rwa [State.group, getD_of_get? hG]

theorem HasStopped.failed {s : State} {g : Nat} (h : HasStopped s g) : (s.group g).failed = true := by
  obtain ⟨G, hG, -, hf⟩ := h
  rwa [State.group, getD_of_get? hG]

/-- A group is marked ended and failed in a state that has kept all, and the installs and suspensions that wait for it are settled. -/
theorem stopGroup_cases (s : State) (g : Nat) : ∃ t f c, Keeps s t ∧
    (∀ x, (f x).kernel = x.kernel ∧ (f x).place = .ended ∧ (f x).failed = true) ∧
    s.stopGroup g = State.settleSuspend (State.settleInstalls (t.modGroup g f)) c := by
  refine ⟨_, _, _, ?_, fun x => ?_, rfl⟩
  · refine Keeps.trans ?_ (modCore_keeps _ _ _)
    refine Keeps.trans (t := ((((s.postDrops g).modGroup g _).fqDrop _).leaveSlice g)) ?_ (Keeps.of_fields rfl rfl rfl rfl rfl rfl)
    refine Keeps.trans ?_ (leaveSlice_keeps _ g)
    refine Keeps.trans ?_ (fqDrop_keeps _ _)
    refine (postDrops_keeps s g).trans (modGroup_keeps _ g _ fun x => ?_)
    exact List.foldlRecOn (motive := GroupKept x) _ _ (GroupKept.refl x) fun y hy w _ => hy.trans (leaveAll_kept y _ _)
  · exact ⟨rfl, rfl, rfl⟩

theorem stopGroup_keeps (s : State) (g : Nat) : Keeps s (s.stopGroup g) := by
  obtain ⟨t, f, c, ht, hf, heq⟩ := stopGroup_cases s g
  rw [heq]
  exact ((ht.trans (modGroup_keeps t g f fun x => ⟨(hf x).1, .inr (hf x).2⟩)).trans (settleInstalls_keeps _)).trans (settleSuspend_keeps _ _)

theorem stopGroup_stops (s : State) (g : Nat) : HasStopped (s.stopGroup g) g := by
  obtain ⟨t, f, c, ht, hf, heq⟩ := stopGroup_cases s g
  rw [heq]
  refine HasStopped.keeps (s := t.modGroup g f) ?_ ((settleInstalls_keeps _).trans (settleSuspend_keeps _ _))
  exact ⟨f (t.group g), by simp [State.modGroup], (hf _).2⟩

theorem stopKernel_keeps (s : State) (k : Nat) : Keeps s (s.stopKernel k) := by
  refine Keeps.foldl _ _ (fun t e => ?_) s
  split
  · exact stopGroup_keeps t _
  · exact Keeps.refl t

theorem isEnded_iff (G : Group) : G.isEnded = true ↔ G.place = .ended := by
  cases h : G.place <;> simp [Group.isEnded, h]

/-- Each group of the kernel that had not ended has stopped. -/
theorem stopKernel_stops (s : State) (k h : Nat) (H : Group) (hH : Tbl.get? s.groups h = some H) (hk : H.kernel = k)
    (hp : H.place ≠ .ended) : HasStopped (s.stopKernel k) h := by
  have hcond : H.kernel = k ∧ (!H.isEnded) = true := ⟨hk, by simpa [← isEnded_iff] using hp⟩
  have hstep : ∀ (t : State) (e : Nat × Group), Keeps t (if e.2.kernel = k ∧ (!e.2.isEnded) = true then t.stopGroup e.1 else t) := by
    intro t e
    split
    · exact stopGroup_keeps t _
    · exact Keeps.refl t
  refine foldl_reaches _ (fun _ => True) (fun t => HasStopped t h) (mem_of_get? hH) (fun _ _ _ _ => trivial)
    (fun t e _ _ ht => ht.keeps (hstep t e)) (fun t _ => ?_) trivial
  rw [if_pos hcond]
  exact stopGroup_stops t h

/-! ## A kernel fails (R83) -/

theorem withdrawMail_keeps (s : State) (k : Nat) : Keeps s (s.withdrawMail k) := by
  refine mapGroups_keeps s _ fun x => ?_
  split <;> exact ⟨rfl, .inl ⟨rfl, rfl⟩⟩

theorem settlePass_keeps (s : State) (q : Nat) : Keeps s (s.settlePass q) := by
  unfold State.settlePass
  split
  · exact Keeps.refl s
  · exact modQueue_keeps s q _

/-- A kernel as it becomes failing. -/
def failing (code : Nat) (x : Kernel) : Kernel := { x with st := .failing, code := code, noGroups := true, mbx := [] }

/-- A kernel becomes failing, leaves its queue, and installs may be complete. -/
theorem failKernel_cases (s : State) (k code : Nat) (h : (s.kernel k).st.canFail = true) : ∃ f,
    s.failKernel k code = (((((s.withdrawMail k).modKernel k (failing code)).modQueue (s.kernel k).queue f).settlePass
      (s.kernel k).queue).settleInstalls) := by
  rw [State.failKernel, if_pos h]
  exact ⟨_, rfl⟩

theorem failing_keeps (s : State) (k code : Nat) (h : (s.kernel k).st.canFail = true) : Keeps s (s.modKernel k (failing code)) :=
  setKernel_keeps s k _ ⟨rfl, rfl, rfl, .inr ⟨h, rfl, rfl⟩⟩

theorem failKernel_keeps (s : State) (k code : Nat) : Keeps s (s.failKernel k code) := by
  by_cases h : (s.kernel k).st.canFail = true
  · obtain ⟨f, heq⟩ := failKernel_cases s k code h
    rw [heq]
    exact ((((withdrawMail_keeps s k).trans (failing_keeps _ k code h)).trans (modQueue_keeps _ _ _)).trans
      (settlePass_keeps _ _)).trans (settleInstalls_keeps _)
  · rw [State.failKernel, if_neg h]
    exact Keeps.refl s

/-- The kernel is failing with this code, and no further group of it is placed. -/
structure IsFailing (K : Kernel) (code : Nat) : Prop where
  st : K.st = .failing
  code : K.code = code
  noGroups : K.noGroups = true

theorem IsFailing.keeps {s t : State} {k code : Nat} (h : IsFailing (s.kernel k) code) (hk : Keeps s t) : IsFailing (t.kernel k) code := by
  obtain ⟨hs, hc, hn⟩ := (hk.kernels k).still (by rw [h.st]; rfl)
  exact ⟨hs.trans h.st, hc.trans h.code, hn.trans h.noGroups⟩

theorem failKernel_fails (s : State) (k code : Nat) (h : (s.kernel k).st.canFail = true) :
    IsFailing ((s.failKernel k code).kernel k) code := by
  obtain ⟨f, heq⟩ := failKernel_cases s k code h
  have hfail : IsFailing (((s.withdrawMail k).modKernel k (failing code)).kernel k) code := by
    rw [State.modKernel, State.kernel_setKernel]
    exact ⟨rfl, rfl, rfl⟩
  rw [heq]
  exact hfail.keeps (((modQueue_keeps _ _ _).trans (settlePass_keeps _ _)).trans (settleInstalls_keeps _))

/-- EXIT.K on a kernel that can fail (R67, R83): it is failing with the code, and its groups have stopped. -/
theorem exitKernel_fails (s : State) (k code : Nat) (hk : Tbl.has s.disp.kernels k = true) (h : (s.kernel k).st.canFail = true) :
    IsFailing ((s.exitKernel k code).kernel k) code ∧
    ∀ g G, Tbl.get? s.groups g = some G → G.kernel = k → G.place ≠ .ended → HasStopped (s.exitKernel k code) g := by
  have hfinal : ¬ ((s.kernel k).st = .complete ∨ (s.kernel k).st = .failed) := by
    rintro (h' | h') <;> rw [h'] at h <;> cases h
  have heq : s.exitKernel k code = ((s.postNotice (s.kernel k).ctx code 0xFFFF (k % 2 ^ 32)).failKernel k code).stopKernel k := by
    simp [State.exitKernel, hk, hfinal, h]
  have hnotice := postNotice_disp s (s.kernel k).ctx code 0xFFFF (k % 2 ^ 32)
  have hgroups := postNotice_groups s (s.kernel k).ctx code 0xFFFF (k % 2 ^ 32)
  rw [heq]
  generalize s.postNotice (s.kernel k).ctx code 0xFFFF (k % 2 ^ 32) = t at *
  rw [show s.kernel k = t.kernel k by rw [State.kernel, ← hnotice]; rfl] at h
  refine ⟨(failKernel_fails t k code h).keeps (stopKernel_keeps _ k), fun g G hG hGk hGp => ?_⟩
  obtain ⟨G', hG', hkept⟩ := (failKernel_keeps t k code).groups g G (by rw [hgroups, hG])
  rcases hkept.standing with ⟨hp, -⟩ | hstopped
  · exact stopKernel_stops _ k g G' hG' (hkept.kernel.trans hGk) (by rwa [hp])
  · exact HasStopped.keeps ⟨G', hG', hstopped⟩ (stopKernel_keeps _ k)

end Sys2Proof.Contexts
end

section
/-! Kernels that complete and fail, EXIT.K, HALT, pre-emption and the end of a context (R61, R67, R78, R79, R83-R87, R273). -/

namespace Sys2Proof.Contexts
open Sys2Proof Sys2Proof.Machine

/-! ## The instructions' meanings -/

theorem exec_groupBitmapSet (g : Nat) (s : State) : exec (.groupBitmapSet g) s = execGroupBitmapSet g s := rfl
theorem exec_kernelComplete (k : Nat) (s : State) : exec (.kernelComplete k) s = execKernelComplete k s := rfl
theorem exec_kernelFailed (k : Nat) (s : State) : exec (.kernelFailed k) s = execKernelFailed k s := rfl
theorem exec_exitK (a : Fin 64) (e : Fin 256) (s : State) : exec (.exitK a e) s = execExitK a e s := rfl
theorem exec_halt (s : State) : exec .halt s = execHalt s := rfl
theorem exec_preemptionPoint (g : Nat) (s : State) : exec (.preemptionPoint g) s = execPreemptionPoint g s := rfl
theorem exec_contextFree (c : Nat) (s : State) : exec (.contextFree c) s = execContextFree c s := rfl

/-! ## Bitmap bits (R78) -/

/-- A group's entry that keeps its scratchpad changes no byte. -/
theorem sameBytes_of_groups {s t : State} (hm : t.memory = s.memory) (hg : ∀ g, (t.group g).scratch = (s.group g).scratch) : SameBytes s t :=
  ⟨fun a => by rw [State.byteAt, State.byteAt, hm], fun g a => by rw [State.scratchRead, State.scratchRead, hg]⟩

theorem setGroup_scratch (s : State) (g : Nat) (x : Group) (hx : x.scratch = (s.group g).scratch) (h : Nat) :
    ((s.setGroup g x).group h).scratch = (s.group h).scratch := by
  by_cases hh : h = g
  · rw [hh, State.group_setGroup, hx]
  · rw [State.group_setGroup_of_ne _ _ hh]

theorem sameBytes_of_eq {s t : State} (hm : t.memory = s.memory) (hg : t.groups = s.groups) : SameBytes s t :=
  sameBytes_of_groups hm fun g => by rw [State.group, State.group, hg]

theorem groupBitmapSet_sets (s : State) (g : Nat) (hend : (s.group g).isEnded = true) (hfail : (s.group g).failed = false)
    (hbit : (s.group g).bit = false) (htr : (s.kernel (s.group g).kernel).tracked = true)
    (hw : ∀ w, w ∈ s.memory.writes → w.group = g → w.engine = true ∨ w.performedAt 4 = true) :
    ∃ t, exec (.groupBitmapSet g) s = .next t ∧ t.group g = { s.group g with bit := true } ∧
      t.kernel (s.group g).kernel =
        { s.kernel (s.group g).kernel with bits := (s.kernel (s.group g).kernel).bits ++ [(s.group g).lin] } ∧
      (∀ h, h ≠ g → t.group h = s.group h) ∧ SameBytes s t := by
  have hwrites : (s.memory.writes.all fun w => w.group != g || w.engine || w.performedAt 4) = true := by
    refine List.all_eq_true.2 fun w hmem => ?_
    by_cases hg : w.group = g
    · rcases hw w hmem hg with h | h <;> simp [h]
    · simp [hg]
  have hne : ∀ h, h ≠ g → (s.modGroup g fun y => { y with bit := true }).group h = s.group h :=
    fun h hh => State.group_setGroup_of_ne s _ hh
  refine ⟨(s.modGroup g fun y => { y with bit := true }).modKernel (s.group g).kernel fun k => { k with bits := k.bits ++ [(s.group g).lin] },
    ?_, ?_, ?_, ?_, ?_⟩
  · rw [exec_groupBitmapSet, execGroupBitmapSet]
    simp [hend, hfail, hbit, htr, hwrites]
  · exact s.group_setGroup g _
  · exact State.kernel_setKernel _ _ _
  · exact hne
  · exact sameBytes_of_groups rfl (setGroup_scratch s g _ rfl)

/-! ## Completion and failure (R83) -/

/-- Of kernels only the bytes of the bitmap pool they hold may differ, and no other part of the machine. -/
structure PoolOnly (s t : State) : Prop where
  rest : { t with disp := { t.disp with kernels := s.disp.kernels, pool := s.disp.pool } } = s
  kernels : ∀ k, ∃ n, t.kernel k = { s.kernel k with poolBytes := n }

theorem freeBitmaps_poolOnly (s : State) : PoolOnly s s.freeBitmaps := by
  refine List.foldlRecOn (motive := PoolOnly s) _ _ ⟨rfl, fun k => ⟨_, rfl⟩⟩ fun t ht e _ => ?_
  split
  · exact ht
  · refine ⟨ht.rest, fun k => ?_⟩
    obtain ⟨n, hn⟩ := ht.kernels k
    change ∃ n, (t.modKernel e.1 fun k => { k with poolBytes := 0 }).kernel k = _
    by_cases hk : k = e.1
    · subst hk
      exact ⟨0, by rw [State.modKernel, State.kernel_setKernel, hn]⟩
    · exact ⟨n, by rw [State.modKernel, State.kernel_setKernel_of_ne _ _ hk, hn]⟩

section
variable {s t : State} (h : PoolOnly s t)
include h

theorem PoolOnly.groups : t.groups = s.groups := by have := congrArg State.groups h.rest; exact this
theorem PoolOnly.memory : t.memory = s.memory := by have := congrArg State.memory h.rest; exact this
theorem PoolOnly.installs : t.disp.installs = s.disp.installs := by have := congrArg (fun u => u.disp.installs) h.rest; exact this

end

theorem settleInstalls_of_nil (s : State) (h : s.disp.installs = []) : s.settleInstalls = s :=
  settleInstalls_of_complete s fun x hx => by simp [h] at hx

section
variable {s t : State} (h : RingOnly s t)
include h

theorem RingOnly.groups : t.groups = s.groups := by have := congrArg State.groups h; exact this
theorem RingOnly.memory : t.memory = s.memory := by have := congrArg State.memory h; exact this
theorem RingOnly.disp : t.disp = s.disp := by have := congrArg State.disp h; exact this
theorem RingOnly.ctxs : t.ctxs = s.ctxs := by have := congrArg State.ctxs h; exact this
theorem RingOnly.cores : t.cores = s.cores := by have := congrArg State.cores h; exact this

end

/-- A kernel in a final state, without its mailboxes, and its journal entry with it (R80, R83). -/
def finalKernel (s : State) (k : Nat) (st : KSt) (entry code : Nat) : State :=
  (s.modKernel k fun x => { x with st := st, mbx := [] }).jset (s.kernel k).jseq entry code

theorem finalKernel_ringOnly (s : State) (k : Nat) (st : KSt) (entry code : Nat) :
    RingOnly (s.modKernel k fun x => { x with st := st, mbx := [] }) (finalKernel s k st entry code) := jset_ringOnly _ _ _ _

theorem finalKernel_kernel (s : State) (k : Nat) (st : KSt) (entry code : Nat) :
    (finalKernel s k st entry code).kernel k = { s.kernel k with st := st, mbx := [] } := by
  rw [State.kernel, (finalKernel_ringOnly s k st entry code).disp]
  exact State.kernel_setKernel s k _

theorem finalKernel_installs (s : State) (k : Nat) (st : KSt) (entry code : Nat) :
    (finalKernel s k st entry code).disp.installs = s.disp.installs := by
  rw [(finalKernel_ringOnly s k st entry code).disp]
  rfl

/-- KERNEL_COMPLETE completes a quiet kernel that retires (R73, R83). -/
theorem kernelComplete_completes (s : State) (k : Nat) (hst : (s.kernel k).st = .retiring) (hq : s.kernelQuiet k = true)
    (hi : s.disp.installs = []) : ∃ t, exec (.kernelComplete k) s = .next t ∧
      (∃ n, t.kernel k = { s.kernel k with st := .complete, poolBytes := n, mbx := [] }) ∧ t.groups = s.groups ∧ SameBytes s t := by
  have hring := finalKernel_ringOnly s k .complete 2 0
  have hpool := freeBitmaps_poolOnly (finalKernel s k .complete 2 0)
  have hgroups := hpool.groups.trans hring.groups
  have hnil : (finalKernel s k .complete 2 0).freeBitmaps.disp.installs = [] := by rw [hpool.installs, finalKernel_installs, hi]
  refine ⟨(finalKernel s k .complete 2 0).freeBitmaps, ?_, ?_, hgroups, sameBytes_of_eq (hpool.memory.trans hring.memory) hgroups⟩
  · rw [exec_kernelComplete, execKernelComplete]
    simp only [hst, hq]
    exact congrArg Host.Outcome.next (settleInstalls_of_nil _ hnil)
  · obtain ⟨n, hn⟩ := hpool.kernels k
    exact ⟨n, by rw [hn, finalKernel_kernel]⟩

theorem kernelComplete_waits (s : State) (k : Nat) (hq : s.kernelQuiet k = false) : exec (.kernelComplete k) s = .next s := by
  rw [exec_kernelComplete, execKernelComplete]
  simp [hq]

/-- Without installs a failing kernel is the only one that changes. -/
theorem failKernel_kernel (s : State) (k code : Nat) (hi : s.disp.installs = []) (h : (s.kernel k).st.canFail = true) :
    (s.failKernel k code).disp.installs = [] ∧
    ∀ n, (s.failKernel k code).kernel n = if n = k then failing code (s.kernel k) else s.kernel n := by
  obtain ⟨f, heq⟩ := failKernel_cases s k code h
  have hpass : ∀ (t : State) (q : Nat), (t.settlePass q).disp.installs = t.disp.installs ∧ (t.settlePass q).disp.kernels = t.disp.kernels := by
    intro t q
    unfold State.settlePass
    split <;> exact ⟨rfl, rfl⟩
  have hinst : ((((s.withdrawMail k).modKernel k (failing code)).modQueue (s.kernel k).queue f).settlePass
      (s.kernel k).queue).disp.installs = [] := by rw [(hpass _ _).1]; exact hi
  rw [heq, settleInstalls_of_nil _ hinst]
  refine ⟨hinst, fun n => ?_⟩
  rw [State.kernel, (hpass _ _).2]
  change ((s.withdrawMail k).modKernel k (failing code)).kernel n = _
  split
  · subst_vars
    exact State.kernel_setKernel _ _ _
  · exact State.kernel_setKernel_of_ne _ _ ‹_›

/-- A kernel that depends on another fails with its code, unless it can no longer fail (R79). -/
theorem passFail_kernel (s : State) (n dep : Nat) (hi : s.disp.installs = []) : (s.passFail n dep).disp.installs = [] ∧
    ∀ m, (s.passFail n dep).kernel m =
      if m = n ∧ (s.kernel n).st.canFail = true then failing (s.kernel dep).code (s.kernel n) else s.kernel m := by
  by_cases h : (s.kernel n).st.canFail = true
  · have hdisp : ∀ t : State, t.disp = s.disp → (t.failKernel n (s.kernel dep).code).disp.installs = [] ∧
        ∀ m, (t.failKernel n (s.kernel dep).code).kernel m = if m = n then failing (s.kernel dep).code (s.kernel n) else s.kernel m := by
      intro t ht
      have hk : ∀ m, t.kernel m = s.kernel m := fun m => by rw [State.kernel, ht]; rfl
      have := failKernel_kernel t n (s.kernel dep).code (by rw [ht, hi]) (by rw [hk, h])
      simpa only [hk] using this
    simp only [State.passFail, h, if_true, and_true]
    split
    · exact hdisp s rfl
    · exact hdisp _ (postNotice_disp s _ _ _ _)
  · simp [State.passFail, h, hi]

/-- What holds while the failure of kernel `k` spreads from state `s`: it is failed itself, and any other kernel is as it was or failing. -/
structure Spreading (s : State) (k : Nat) (t : State) : Prop where
  installs : t.disp.installs = []
  source : t.kernel k = s.kernel k
  others : ∀ n, t.kernel n = s.kernel n ∨ IsFailing (t.kernel n) (s.kernel k).code

theorem Spreading.passFail {s t : State} {k : Nat} (hf : (s.kernel k).st = .failed) (h : Spreading s k t) (n : Nat) :
    Spreading s k (t.passFail n k) := by
  obtain ⟨hi, hk⟩ := passFail_kernel t n k h.installs
  refine ⟨hi, ?_, fun m => ?_⟩
  · rw [hk, if_neg, h.source]
    rintro ⟨rfl, hc⟩
    rw [h.source, hf] at hc
    cases hc
  · rw [hk]
    split
    · exact .inr ⟨rfl, by rw [← h.source]; rfl, rfl⟩
    · exact h.others m

/-- Each kernel that can fail and depends on a failed one is failing with its code (R79). -/
theorem failDependants_fails (s : State) (k : Nat) (hi : s.disp.installs = []) (hf : (s.kernel k).st = .failed) :
    Spreading s k (s.failDependants k) ∧ ∀ n N, Tbl.get? s.disp.kernels n = some N → N.st.canFail = true →
      (N.pred = some k ∨ N.pkt.hasProducer = true ∧ N.pkt.producer = k ∧ N.prodDone = false) →
      IsFailing ((s.failDependants k).kernel n) (s.kernel k).code := by
  have hstart : Spreading s k s := ⟨hi, rfl, fun _ => .inl rfl⟩
  refine ⟨List.foldlRecOn (motive := Spreading s k) _ _ hstart fun t ht e _ => ht.passFail hf e.1, fun n N hN hcan hdep => ?_⟩
  have hmem : (n, N) ∈ s.disp.kernels.filter fun e =>
      e.2.pred == some k || (e.2.pkt.hasProducer && e.2.pkt.producer == k && !e.2.prodDone) := by
    refine List.mem_filter.2 ⟨mem_of_get? hN, ?_⟩
    rcases hdep with h | ⟨h₁, h₂, h₃⟩
    · simp [h]
    · simp [h₁, h₂, h₃]
  refine foldl_reaches _ (Spreading s k) (fun t => IsFailing (t.kernel n) (s.kernel k).code) hmem
    (fun t e _ ht => ht.passFail hf e.1) (fun t e _ ht hn => ?_) (fun t ht => ?_) hstart
  · rw [(passFail_kernel t e.1 k ht.installs).2, if_neg]
    · exact hn
    · rintro ⟨rfl, hc⟩
      rw [hn.st] at hc
      cases hc
  · rw [(passFail_kernel t n k ht.installs).2]
    rcases ht.others n with h | h
    · have hN' : t.kernel n = N := h.trans (by rw [State.kernel, getD_of_get? hN])
      rw [if_pos ⟨rfl, by rw [hN', hcan]⟩, ← ht.source]
      exact ⟨rfl, rfl, rfl⟩
    · rw [if_neg]
      · exact h
      · rintro ⟨-, hc⟩
        rw [h.st] at hc
        cases hc

/-- KERNEL_FAILED (R79, R83). -/
theorem kernelFailed_fails (s : State) (k : Nat) (hst : (s.kernel k).st = .failing)
    (hend : ∀ y, y ∈ s.groupsOf k → y.2.isEnded = true) (hidle : s.enginesIdle k = true) (hi : s.disp.installs = []) :
    ∃ t, exec (.kernelFailed k) s = .next t ∧ (t.kernel k).st = .failed ∧ (t.kernel k).code = (s.kernel k).code ∧ (t.kernel k).mbx = [] ∧
      ∀ n N, n ≠ k → Tbl.get? s.disp.kernels n = some N → N.st.canFail = true →
        (N.pred = some k ∨ N.pkt.hasProducer = true ∧ N.pkt.producer = k ∧ N.prodDone = false) →
        (t.kernel n).st = .failing ∧ (t.kernel n).code = (s.kernel k).code ∧ (t.kernel n).noGroups = true := by
  have hk := finalKernel_kernel s k .failed 3 (s.kernel k).code
  obtain ⟨hspread, hdeps⟩ := failDependants_fails (finalKernel s k .failed 3 (s.kernel k).code) k
    (by rw [finalKernel_installs, hi]) (by rw [hk])
  have hpool := freeBitmaps_poolOnly ((finalKernel s k .failed 3 (s.kernel k).code).failDependants k)
  have hnil := hpool.installs.trans hspread.installs
  obtain ⟨m, hm⟩ := hpool.kernels k
  rw [hspread.source, hk] at hm
  refine ⟨((finalKernel s k .failed 3 (s.kernel k).code).failDependants k).freeBitmaps, ?_, by rw [hm], by rw [hm], by rw [hm],
    fun n N hn hN hcan hdep => ?_⟩
  · rw [exec_kernelFailed, execKernelFailed]
    simp only [hst, List.all_eq_true.2 hend, hidle]
    exact congrArg Host.Outcome.next (settleInstalls_of_nil _ hnil)
  · obtain ⟨m, hm⟩ := hpool.kernels n
    have hN' : Tbl.get? (finalKernel s k .failed 3 (s.kernel k).code).disp.kernels n = some N := by
      rw [(finalKernel_ringOnly s k .failed 3 (s.kernel k).code).disp]
      exact (Tbl.get?_set_of_ne _ _ hn).trans hN
    have hfail := hdeps n N hN' hcan hdep
    rw [hm]
    exact ⟨hfail.st, hfail.code.trans (by rw [hk]), hfail.noGroups⟩

end Sys2Proof.Contexts
end

section
/-! EXIT.K, HALT and pre-emption (R67, R85-R87, R273). -/

namespace Sys2Proof.Contexts
open Sys2Proof Sys2Proof.Machine

/-! ## EXIT.K (R67, R273) -/

theorem closeRegion_cw (s : State) :
    s.closeRegion.cw = { s.cw with region := { s.cw.region with isOpen := false, restarts := 0, written := [] } } := by
  rw [State.closeRegion, State.cw_modW]

theorem closeRegion_csp (s : State) : s.closeRegion.csp = s.csp := State.csp_modW s _ rfl

theorem closeRegion_cyc (s : State) : s.closeRegion.cyc = s.cyc := State.cyc_modW s _

theorem closeRegion_retire_only (s : State) : OnlyWave s s.closeRegion.retire := (OnlyWave.modW s _).trans (State.retire_only _)

/-- A committing instruction that issues and goes on. -/
theorem closeRegion_retire_cw (s : State) : s.closeRegion.retire.cw = { s.cw with
    region := { s.cw.region with isOpen := false, restarts := 0, written := [] }
    nextIssue := max s.cw.nextIssue (s.cyc + 1 + s.cur.stall)
    splits := Tbl.set s.cw.splits s.cur.sl (s.csp.past s.cur.len) } := by
  rw [State.retire_cw, closeRegion_cw, closeRegion_csp, closeRegion_cyc]
  rfl

theorem issued_of_cw {s t : State} (hcur : t.cur = s.cur) (hs : t.cw.splits = Tbl.set s.cw.splits s.cur.sl (s.csp.past s.cur.len))
    (hn : t.cw.nextIssue = max s.cw.nextIssue (s.cyc + 1 + s.cur.stall)) : Issued s t := by
  refine ⟨?_, fun k hk => ?_, hn⟩
  · rw [State.csp_eq, hs, hcur, Tbl.getD_set_self]
  · rw [hs, Tbl.get?_set_of_ne _ _ hk]

/-- The wave after a committing instruction that goes on: it has issued, no register reads differently, its region is closed. -/
theorem committed_of_cw {s t : State} (hcur : t.cur = s.cur) (hcw : t.cw = s.closeRegion.retire.cw) :
    Issued s t ∧ RegsStill s t ∧ t.cw.region.isOpen = false := by
  rw [closeRegion_retire_cw] at hcw
  exact ⟨issued_of_cw hcur (by rw [hcw]) (by rw [hcw]),
    fun d c _ => State.regAt_congr (by rw [hcw]) (by rw [hcw]) (by rw [hcw]) (by rw [hcw]) c d, by rw [hcw]⟩

theorem modW_keeps (s : State) (f : Wave → Wave) : Keeps s (s.modW f) := setGroup_keeps s _ _ ⟨rfl, .inl ⟨rfl, rfl⟩⟩

theorem closeRegion_retire_keeps (s : State) : Keeps s s.closeRegion.retire := by
  have hregion : Keeps s s.closeRegion := modW_keeps s _
  have hstall : Keeps s.closeRegion s.closeRegion.applyStall := modW_keeps _ _
  have hpast : Keeps s.closeRegion.applyStall s.closeRegion.retire := by
    rw [State.retire, State.modSp_eq]
    exact modW_keeps _ _
  exact (hregion.trans hstall).trans hpast

theorem exitKernel_keeps (s : State) (k code : Nat) : Keeps s (s.exitKernel k code) := by
  unfold State.exitKernel
  split
  · exact Keeps.refl s
  · dsimp only
    split
    · exact Keeps.refl s
    · refine Keeps.trans ?_ (stopKernel_keeps _ k)
      split
      · exact (postNotice_keeps s _ _ _ _).trans (failKernel_keeps _ _ _)
      · exact Keeps.refl s

theorem exec_exitK_priv (s : State) (a : Fin 64) (e : Fin 256) (hp : (s.ctx s.cctx).priv = true) :
    exec (.exitK a e) s = .next (s.closeRegion.retire.exitKernel (s.rdS a.val).toNat e.val) := by
  rw [exec_exitK, execExitK, State.privileged, if_pos hp]

theorem privileged_refuses (s : State) (hp : (s.ctx s.cctx).priv = false) (a : Fin 64) (e : Fin 256) :
    exec (.exitK a e) s = .next (s.raise cProt) ∧ exec .halt s = .next (s.raise cProt) := by
  rw [exec_exitK, exec_halt, execExitK, execHalt, State.privileged, State.privileged]
  simp [hp]

theorem exitK_fails (s : State) (a : Fin 64) (e : Fin 256) (hp : (s.ctx s.cctx).priv = true)
    (hk : Tbl.has s.disp.kernels (s.rdS a.val).toNat = true) (hcan : (s.kernel (s.rdS a.val).toNat).st.canFail = true) :
    ∃ t, exec (.exitK a e) s = .next t ∧ (t.kernel (s.rdS a.val).toNat).st = .failing ∧
      (t.kernel (s.rdS a.val).toNat).code = e.val ∧ (t.kernel (s.rdS a.val).toNat).noGroups = true ∧
      ∀ h H, Tbl.get? s.groups h = some H → H.kernel = (s.rdS a.val).toNat → H.place ≠ .ended →
        (t.group h).place = .ended ∧ (t.group h).failed = true := by
  obtain ⟨hfail, hstop⟩ := exitKernel_fails s.closeRegion.retire (s.rdS a.val).toNat e.val hk hcan
  refine ⟨_, exec_exitK_priv s a e hp, hfail.st, hfail.code, hfail.noGroups, fun h H hH hHk hHp => ?_⟩
  obtain ⟨H', hH', hkept⟩ := (closeRegion_retire_keeps s).groups h H hH
  have hstopped : HasStopped (s.closeRegion.retire.exitKernel (s.rdS a.val).toNat e.val) h := by
    rcases hkept.standing with ⟨hpl, -⟩ | hst
    · exact hstop h H' hH' (hkept.kernel.trans hHk) (by rwa [hpl])
    · exact HasStopped.keeps ⟨H', hH', hst⟩ (exitKernel_keeps _ _ _)
  exact ⟨hstopped.place, hstopped.failed⟩

theorem exitK_missing (s : State) (a : Fin 64) (e : Fin 256) (hp : (s.ctx s.cctx).priv = true)
    (hk : Tbl.has s.disp.kernels (s.rdS a.val).toNat = false) : ∃ t, exec (.exitK a e) s = .next t ∧ Issued s t ∧ RegsStill s t ∧
      t.cw.region.isOpen = false ∧ t.disp = s.disp ∧ OnlyWave s t := by
  have heq : s.closeRegion.retire.exitKernel (s.rdS a.val).toNat e.val = s.closeRegion.retire := by
    rw [State.exitKernel, if_pos]
    rw [show s.closeRegion.retire.disp = s.disp from rfl, hk]
    rfl
  obtain ⟨hissued, hregs, hregion⟩ := committed_of_cw (s := s) (t := s.closeRegion.retire) rfl rfl
  exact ⟨_, by rw [exec_exitK_priv s a e hp, heq], hissued, hregs, hregion, rfl, closeRegion_retire_only s⟩

/-! ## HALT (R67, R85) -/

/-- The groups of a gang that stand on cores are to be pre-empted. -/
def Group.preemptIn (kernel gang : Nat) (x : Group) : Group :=
  if x.kernel = kernel ∧ x.gang = gang ∧ x.isPlaced then { x with preempt := .now } else x

/-- The state in which HALT has taken effect, before its notices. -/
def haltedGang (s : State) : State :=
  let t := s.closeRegion.retire.modG fun G => { G with halted := true }
  { t with groups := Tbl.mapVals t.groups (Group.preemptIn s.cg.kernel s.cg.gang) }

theorem isPlaced_iff (G : Group) : G.isPlaced = true ↔ G.place = .placed := by
  cases h : G.place <;> simp [Group.isPlaced, h]

theorem preemptIn_waves (k j : Nat) (x : Group) : (Group.preemptIn k j x).waves = x.waves := by
  rw [Group.preemptIn]
  split <;> rfl

theorem preemptIn_halted (k j : Nat) (x : Group) : (Group.preemptIn k j x).halted = x.halted := by
  rw [Group.preemptIn]
  split <;> rfl

theorem preemptIn_member {k j : Nat} {x : Group} (hk : x.kernel = k) (hj : x.gang = j) (hp : x.place = .placed) :
    (Group.preemptIn k j x).preempt = .now := by
  rw [Group.preemptIn, if_pos ⟨hk, hj, (isPlaced_iff x).2 hp⟩]

theorem preemptIn_other {k j : Nat} {x : Group} (h : x.kernel ≠ k ∨ x.gang ≠ j) : Group.preemptIn k j x = x := by
  rw [Group.preemptIn, if_neg]
  rintro ⟨hk, hj, -⟩
  exact h.elim (· hk) (· hj)

/-- Every group's entry in the state in which HALT has taken effect. -/
theorem haltedGang_get? (s : State) (h : Nat) : Tbl.get? (haltedGang s).groups h =
    if h = s.cur.g then some (Group.preemptIn s.cg.kernel s.cg.gang { s.closeRegion.retire.cg with halted := true })
    else (Tbl.get? s.groups h).map (Group.preemptIn s.cg.kernel s.cg.gang) := by
  have hmod : (s.closeRegion.retire.modG fun G => { G with halted := true }).groups =
      Tbl.set s.closeRegion.retire.groups s.cur.g { s.closeRegion.retire.cg with halted := true } := rfl
  rw [haltedGang, Tbl.get?_mapVals, hmod, Tbl.get?_set]
  split
  · rfl
  · rw [(closeRegion_retire_only s).groups h ‹_›]

theorem haltedGang_cur (s : State) : (haltedGang s).cur = s.cur := by simp [haltedGang, State.closeRegion]

theorem haltedGang_time (s : State) : (haltedGang s).time = s.time := by
  simp [haltedGang, State.closeRegion, State.retire, State.applyStall]

theorem haltedGang_cg (s : State) :
    (haltedGang s).cg = Group.preemptIn s.cg.kernel s.cg.gang { s.closeRegion.retire.cg with halted := true } :=
  getD_of_get? ((haltedGang_get? s s.cur.g).trans (if_pos rfl))

theorem haltedGang_cw (s : State) : (haltedGang s).cw = s.closeRegion.retire.cw := by
  rw [State.cw_eq, haltedGang_cg, preemptIn_waves]
  rfl

theorem closeRegion_retire_standing (s : State) : s.closeRegion.retire.cg.kernel = s.cg.kernel ∧
    s.closeRegion.retire.cg.gang = s.cg.gang ∧ s.closeRegion.retire.cg.place = s.cg.place := by
  have h := (closeRegion_retire_only s).group
  have hkernel := congrArg Group.kernel h
  have hgang := congrArg Group.gang h
  have hplace := congrArg Group.place h
  exact ⟨hkernel, hgang, hplace⟩

/-- HALT's notices change neither groups nor the cursor, and one goes to the management cores (R67). -/
theorem exec_halt_priv (s : State) (hp : (s.ctx s.cctx).priv = true) : ∃ t, exec .halt s = .next t ∧
    t.groups = (haltedGang s).groups ∧ t.cur = s.cur ∧ ∃ n l, t.lamp.mgmtRing = l ++ [⟨s.time.lo, 0x81, s.cu, n⟩] := by
  have hexec : exec .halt s = .next (((haltedGang s).openNotice s.cctx 0x81 s.cu).takeFree fun v t =>
      t.postMgmt 0x81 s.cu (v.toNat % 2 ^ 32)) := by
    rw [exec_halt, execHalt, State.privileged, if_pos hp]
    rfl
  rw [← haltedGang_cur s, ← haltedGang_time s, ← openNotice_groups (haltedGang s) s.cctx 0x81 s.cu,
    ← openNotice_cur (haltedGang s) s.cctx 0x81 s.cu, ← openNotice_time (haltedGang s) s.cctx 0x81 s.cu]
  generalize (haltedGang s).openNotice s.cctx 0x81 s.cu = u at hexec ⊢
  exact ⟨_, hexec, rfl, rfl, _, _, rfl⟩

theorem halt_stops (s : State) (hp : (s.ctx s.cctx).priv = true) : ∃ t, exec .halt s = .next t ∧ Issued s t ∧ RegsStill s t ∧
    t.cg.halted = true ∧ t.cw.region.isOpen = false ∧
    (∀ h H, Tbl.get? s.groups h = some H → H.kernel = s.cg.kernel → H.gang = s.cg.gang → H.place = .placed →
      (t.group h).preempt = .now) ∧
    (∀ h H, Tbl.get? s.groups h = some H → (H.kernel ≠ s.cg.kernel ∨ H.gang ≠ s.cg.gang) → h ≠ s.cur.g → t.group h = H) ∧
    ∃ n l, t.lamp.mgmtRing = l ++ [⟨s.time.lo, 0x81, s.cu, n⟩] := by
  obtain ⟨t, hexec, hgroups, hcur, hring⟩ := exec_halt_priv s hp
  have hcg : t.cg = (haltedGang s).cg := by rw [State.cg_eq, State.cg_eq, hgroups, hcur]; rfl
  have hcw : t.cw = s.closeRegion.retire.cw := by rw [State.cw_eq, hcg, hcur, ← haltedGang_cw]; rfl
  have hget : ∀ h, h ≠ s.cur.g → ∀ H, Tbl.get? s.groups h = some H → t.group h = Group.preemptIn s.cg.kernel s.cg.gang H := by
    intro h hh H hH
    rw [State.group, hgroups, getD_of_get? ((haltedGang_get? s h).trans (by rw [if_neg hh, hH]; rfl))]
  obtain ⟨hissued, hregs, hregion⟩ := committed_of_cw hcur hcw
  refine ⟨t, hexec, hissued, hregs, ?_, hregion, fun h H hH hk hj hpl => ?_, fun h H hH hne hh => ?_, hring⟩
  · rw [hcg, haltedGang_cg, preemptIn_halted]
  · by_cases hh : h = s.cur.g
    · subst hh
      obtain ⟨hkernel, hgang, hplace⟩ := closeRegion_retire_standing s
      rw [← hcur, show t.group t.cur.g = t.cg from rfl, hcg, haltedGang_cg]
      exact preemptIn_member hkernel hgang (hplace.trans (by rw [State.cg_eq, getD_of_get? hH, hpl]))
    · rw [hget h hh H hH, preemptIn_member hk hj hpl]
  · rw [hget h hh H hH, preemptIn_other hne]

/-! ## Pre-emption (R85-R87) -/

/-- The end of a suspension concerns contexts and the journal alone. -/
theorem settleSuspend_rest (s : State) (c : Nat) : { s.settleSuspend c with ctxs := s.ctxs, host := s.host } = s := by
  unfold State.settleSuspend
  split
  · rfl
  · split
    · rfl
    · rw [(jsets_ringOnly (s.modCtx c fun x => { x with jsusp := [] }) (s.ctx c).jsusp).eq]
      rfl

/-- A split saved while it waits in the fault queue stands before its instruction (R263). -/
def unpaged (w : Wave) : Wave :=
  { w with inflight := [], splits := Tbl.mapVals w.splits fun p => if p.block.isPage then { p with block := .none } else p }

/-- A group as its save leaves it (R87). -/
def savedGroup (order : Nat) (x : Group) : Group :=
  { x with place := .saved, preempt := .no, savedOrder := order, waves := Tbl.mapVals x.waves unpaged }

/-- A core whose engines' states no longer belong to group `g`. -/
def releasedCore (g : Nat) (c : Core) : Core :=
  { c with
    portWait := c.portWait.filter fun o => o.1 != g
    portWork := c.portWork.filter fun h => h != g
    mxHolder := if (c.mxHolder.map Prod.fst) = some g then none else c.mxHolder
    actHolder := if c.actHolder = some g then none else c.actHolder
    tapHolder := if c.tapHolder = some g then none else c.tapHolder }

theorem releasedCore_holders (g : Nat) (c : Core) : (releasedCore g c).mxHolder.map Prod.fst ≠ some g ∧
    (releasedCore g c).actHolder ≠ some g ∧ (releasedCore g c).tapHolder ≠ some g := by
  refine ⟨?_, ?_, ?_⟩ <;> simp only [releasedCore] <;> split <;> simp [*]

/-- The state in which a group has been saved, before suspensions are settled. -/
def groupSaved (s : State) (g : Nat) : State :=
  ((s.modCore (s.group g).unit (releasedCore g)).fresh.unpage g).modGroup g fun y => { y with
    place := .saved
    preempt := .no
    savedOrder := s.nextId
    waves := Tbl.mapVals y.waves fun w => { w with inflight := [] } }

theorem groupSaved_groups (s : State) (g : Nat) : (groupSaved s g).groups = Tbl.set s.groups g (savedGroup s.nextId (s.group g)) := by
  simp only [groupSaved, State.unpage, State.modGroup, State.setGroup_groups, State.group_setGroup, Tbl.set_set, mapVals_mapVals]
  rfl

theorem groupSaved_cores (s : State) (g : Nat) :
    (groupSaved s g).cores = Tbl.set s.cores (s.group g).unit (releasedCore g (s.core (s.group g).unit)) := rfl

/-- PREEMPTION_POINT saves a group whose operations are settled (R86, R87). -/
theorem exec_preemptionPoint_saves (s : State) (g : Nat) (hp : (s.group g).place = .placed) (hn : (s.group g).preempt = .now)
    (hs : s.settled g = true) : ∃ t, exec (.preemptionPoint g) s = .next t ∧ t.memory = s.memory ∧
      t.groups = (groupSaved s g).groups ∧ t.cores = (groupSaved s g).cores := by
  have hexec : exec (.preemptionPoint g) s = .next ((groupSaved s g).settleSuspend (s.ctxOf g)) := by
    rw [exec_preemptionPoint, execPreemptionPoint]
    simp only [(isPlaced_iff _).2 hp, hn, hs]
    rfl
  have hrest := settleSuspend_rest (groupSaved s g) (s.ctxOf g)
  have hmemory := congrArg State.memory hrest
  have hgroups := congrArg State.groups hrest
  have hcores := congrArg State.cores hrest
  exact ⟨_, hexec, hmemory, hgroups, hcores⟩

theorem preemptionPoint_saves (s : State) (g : Nat) (hp : (s.group g).place = .placed) (hn : (s.group g).preempt = .now)
    (hs : s.settled g = true) : ∃ t, exec (.preemptionPoint g) s = .next t ∧
      (∃ ws, t.group g = { s.group g with place := .saved, preempt := .no, savedOrder := s.nextId, waves := ws } ∧
        ws = Tbl.mapVals (s.group g).waves unpaged) ∧
      (t.core (s.group g).unit).mxHolder.map Prod.fst ≠ some g ∧ (t.core (s.group g).unit).actHolder ≠ some g ∧
      (t.core (s.group g).unit).tapHolder ≠ some g ∧
      (∀ h, h ≠ g → t.group h = s.group h) ∧ SameBytes s t := by
  obtain ⟨t, hexec, hmemory, hgroups, hcores⟩ := exec_preemptionPoint_saves s g hp hn hs
  rw [groupSaved_groups] at hgroups
  rw [groupSaved_cores] at hcores
  have hgroup : ∀ h, t.group h = (s.setGroup g (savedGroup s.nextId (s.group g))).group h := fun h => by rw [State.group, hgroups]; rfl
  have hcore : t.core (s.group g).unit = releasedCore g (s.core (s.group g).unit) := by rw [State.core, hcores, Tbl.getD_set_self]
  obtain ⟨hmx, hact, htap⟩ := releasedCore_holders g (s.core (s.group g).unit)
  rw [← hcore] at hmx hact htap
  refine ⟨t, hexec, ⟨_, (hgroup g).trans (State.group_setGroup _ _ _), rfl⟩, hmx, hact, htap, fun h hh => ?_, ?_⟩
  · rw [hgroup, State.group_setGroup_of_ne _ _ hh]
  · exact sameBytes_of_groups hmemory fun h => by rw [hgroup]; exact setGroup_scratch s g (savedGroup s.nextId (s.group g)) rfl h

end Sys2Proof.Contexts
end

section
/-! The end of a context (R61), and the statement about the ends of kernels and contexts. -/

namespace Sys2Proof.Contexts
open Sys2Proof Sys2Proof.Machine

/-! ## Splits -/

theorem split_setWave (s : State) (g w : Nat) (W : Wave) (h x l : Nat) : (s.setWave g w W).split h x l =
    if h = g ∧ x = w then W.split l else s.split h x l := by
  by_cases hh : h = g
  · subst hh
    simp only [State.split, State.wave, State.setWave, State.modGroup, State.group_setGroup, Group.wave, true_and]
    split
    · rw [‹x = w›, Tbl.getD_set_self]
    · rw [Tbl.getD_set_of_ne _ _ _ ‹_›]
  · rw [if_neg fun h' => hh h'.1, State.split, State.wave, State.setWave, State.modGroup, State.group_setGroup_of_ne _ _ hh]
    rfl

theorem split_modSplit (s : State) (g w k : Nat) (f : Split → Split) (h x l : Nat) : (s.modSplit g w k f).split h x l =
    if h = g ∧ x = w ∧ l = k then f (s.split g w k) else s.split h x l := by
  rw [State.modSplit, State.setSplit, State.modWave, split_setWave]
  by_cases hw : h = g ∧ x = w
  · obtain ⟨rfl, rfl⟩ := hw
    simp only [true_and, if_true, Wave.split]
    split
    · rw [‹l = k›, Tbl.getD_set_self]
    · rw [Tbl.getD_set_of_ne _ _ _ ‹_›]
      rfl
  · rw [if_neg hw, if_neg fun h' => hw ⟨h'.1, h'.2.1⟩]

/-- A change of a wave that keeps its splits. -/
theorem split_modWave (s : State) (g w : Nat) (f : Wave → Wave) (hf : ∀ W, (f W).splits = W.splits) (h x l : Nat) :
    (s.modWave g w f).split h x l = s.split h x l := by
  rw [State.modWave, split_setWave]
  split
  · obtain ⟨rfl, rfl⟩ := ‹h = g ∧ x = w›
    rw [Wave.split, hf]
    rfl
  · rfl

theorem finalS_splits (W : Wave) (r : Nat) (v : DWord) : (W.finalS r v).splits = W.splits := by simp [Wave.finalS]

/-! ## CTX.END's waits (R66) -/

/-- A split that waits for the end of context `c` receives its status and goes on. -/
def endWait (c prev g w : Nat) (t : State) (p : Nat × Split) : State :=
  match p.2.block with
  | .ctxEnd d x =>
    if x = c then
      (t.modWave g w fun W => W.finalS d (BitVec.ofNat 64 prev)).modSplit g w p.1 fun p => { p with block := .none }
    else t
  | .none | .fwait _ _ | .dusk _ | .bar _ _ | .barArrive _ _ | .dbar | .mbx | .fqDone _ _ _ _ | .tlbinv _ _
  | .tlbSend _ _ _ _ _ | .snap _ _ | .page _ _ | .pageFull => t

def endWaitsOfWave (c prev g : Nat) (t : State) (w : Nat × Wave) : State := w.2.splits.foldl (endWait c prev g w.1) t

def endWaitsOfGroup (c prev : Nat) (t : State) (g : Nat × Group) : State := g.2.waves.foldl (endWaitsOfWave c prev g.1) t

theorem endWait_cases (c prev g w : Nat) (t : State) (p : Nat × Split) :
    (endWait c prev g w t p = t ∧ ∀ d, p.2.block ≠ .ctxEnd d c) ∨
    ∃ d, endWait c prev g w t p =
      (t.modWave g w fun W => W.finalS d (BitVec.ofNat 64 prev)).modSplit g w p.1 fun p => { p with block := .none } := by
  unfold endWait
  split
  · next d x hb =>
    split
    · exact .inr ⟨d, rfl⟩
    · exact .inl ⟨rfl, fun d' h => ‹¬ x = c› (Block.ctxEnd.inj (hb.symm.trans h)).2⟩
  all_goals
    next hb => exact .inl ⟨rfl, fun d h => by rw [h] at hb; cases hb⟩

/-- Blocks of splits only go away, and nothing but groups differs. -/
structure Wakes (s t : State) : Prop where
  rest : { t with groups := s.groups } = s
  block : ∀ h w l, (t.split h w l).block = (s.split h w l).block ∨ (t.split h w l).block = .none

theorem Wakes.refl (s : State) : Wakes s s := ⟨rfl, fun _ _ _ => .inl rfl⟩

theorem Wakes.trans {s t u : State} (h : Wakes s t) (k : Wakes t u) : Wakes s u where
  rest := by
    calc { u with groups := s.groups } = { ({ u with groups := t.groups } : State) with groups := s.groups } := rfl
      _ = { t with groups := s.groups } := by rw [k.rest]
      _ = s := h.rest
  block x w l := by
    rcases k.block x w l with hk | hk
    · rw [hk]
      exact h.block x w l
    · exact .inr hk

theorem Wakes.foldl {α : Type} (f : State → α → State) (l : List α) (hf : ∀ t a, Wakes t (f t a)) (s : State) :
    Wakes s (l.foldl f s) :=
  List.foldlRecOn (motive := Wakes s) l f (Wakes.refl s) fun t ht a _ => ht.trans (hf t a)

theorem wake_block (t : State) (d prev g w k h x l : Nat) :
    (((t.modWave g w fun W => W.finalS d (BitVec.ofNat 64 prev)).modSplit g w k fun p => { p with block := .none }).split h x l).block =
      if h = g ∧ x = w ∧ l = k then .none else (t.split h x l).block := by
  rw [split_modSplit]
  split
  · rfl
  · rw [split_modWave _ _ _ _ fun W => finalS_splits W _ _]

theorem endWait_wakes (c prev g w : Nat) (t : State) (p : Nat × Split) : Wakes t (endWait c prev g w t p) := by
  rcases endWait_cases c prev g w t p with ⟨h, -⟩ | ⟨d, h⟩
  · rw [h]
    exact Wakes.refl t
  · rw [h]
    refine ⟨rfl, fun x y l => ?_⟩
    rw [wake_block]
    split
    · exact .inr rfl
    · exact .inl rfl

theorem endWaitsOfWave_wakes (c prev g : Nat) (t : State) (w : Nat × Wave) : Wakes t (endWaitsOfWave c prev g t w) :=
  Wakes.foldl _ _ (endWait_wakes c prev g w.1) t

theorem endWaitsOfGroup_wakes (c prev : Nat) (t : State) (g : Nat × Group) : Wakes t (endWaitsOfGroup c prev t g) :=
  Wakes.foldl _ _ (endWaitsOfWave_wakes c prev g.1) t

/-- The split does not wait for the end of context `c`. -/
def Free (c h w l : Nat) (t : State) : Prop := ∀ d, (t.split h w l).block ≠ .ctxEnd d c

theorem Free.wakes {c h w l : Nat} {s t : State} (hf : Free c h w l s) (k : Wakes s t) : Free c h w l t := by
  intro d
  rcases k.block h w l with hb | hb <;> rw [hb]
  · exact hf d
  · simp

/-- Wherever a split stands in the groups' tables, the walk over them frees it. -/
theorem endWaits_free (c prev : Nat) (s t : State) (ht : Wakes s t) {h w l : Nat} {G : Group} {W : Wave} {p : Split}
    (hG : (h, G) ∈ s.groups) (hW : (w, W) ∈ G.waves) (hp : (l, p) ∈ W.splits) (hs : s.split h w l = p) :
    Free c h w l (s.groups.foldl (endWaitsOfGroup c prev) t) := by
  refine foldl_reaches _ (Wakes s) (Free c h w l) hG (fun t g _ k => k.trans (endWaitsOfGroup_wakes c prev t g))
    (fun t g _ _ hf => hf.wakes (endWaitsOfGroup_wakes c prev t g)) (fun t k => ?_) ht
  refine foldl_reaches _ (Wakes s) (Free c h w l) hW (fun t g _ k => k.trans (endWaitsOfWave_wakes c prev h t g))
    (fun t g _ _ hf => hf.wakes (endWaitsOfWave_wakes c prev h t g)) (fun t k => ?_) k
  refine foldl_reaches _ (Wakes s) (Free c h w l) hp (fun t g _ k => k.trans (endWait_wakes c prev h w t g))
    (fun t g _ _ hf => hf.wakes (endWait_wakes c prev h w t g)) (fun t k => ?_) k
  rcases endWait_cases c prev h w t (l, p) with ⟨heq, hb⟩ | ⟨d, heq⟩
  · have hfree : Free c h w l s := fun d => by rw [hs]; exact hb d
    rw [heq]
    exact hfree.wakes k
  · intro d'
    rw [heq, wake_block, if_pos ⟨rfl, rfl, rfl⟩]
    simp

/-- The splits that wait for the end of a context all go on. -/
theorem endWaits_none (c prev : Nat) (s : State) (h w l d : Nat) :
    ((s.groups.foldl (endWaitsOfGroup c prev) s).split h w l).block ≠ .ctxEnd d c := by
  by_cases hs : (s.split h w l).block = .none
  · have hfree : Free c h w l s := fun d => by simp [hs]
    exact hfree.wakes (Wakes.foldl _ _ (endWaitsOfGroup_wakes c prev) s) d
  · have hsplit : (s.wave h w).split l ≠ {} := fun h0 => hs (by rw [State.split, h0])
    have hwave : (s.group h).wave w ≠ {} := fun h0 => hsplit (by rw [State.wave, h0]; rfl)
    have hgroup : s.group h ≠ {} := fun h0 => hwave (by rw [h0]; rfl)
    exact endWaits_free c prev s s (Wakes.refl s) (mem_of_get? (get?_of_getD_ne hgroup)) (mem_of_get? (get?_of_getD_ne hwave))
      (mem_of_get? (get?_of_getD_ne hsplit)) rfl d

/-! ## CONTEXT_FREE (R61) -/

theorem contextFree_waits (s : State) (c : Nat) (hq : s.ctxQuiet c = false) : exec (.contextFree c) s = .next s := by
  rw [exec_contextFree, execContextFree]
  simp [hq]

/-- The state without a context, its queues, its kernels and their groups; the entries of the commands that ended it are complete. -/
def withoutCtx (s : State) (c : Nat) : State :=
  let u := (s.ctx c).jend.foldl (fun t j => t.jset j 2 0) s
  let ks := (u.disp.kernels.filter fun e => e.2.ctx == c).map Prod.fst
  { u with
    ctxs := Tbl.del u.ctxs c
    groups := u.groups.filter fun e => !ks.contains e.2.kernel
    pod := { u.pod with users := u.pod.users.filter fun u => u.2 != c }
    disp := { u.disp with
      queues := u.disp.queues.filter fun e => e.2.ctx != some c
      kernels := u.disp.kernels.filter fun e => e.2.ctx != c
      slices := u.disp.slices.filter fun e => !ks.contains (e.1 / 16)
      pool := (u.disp.kernels.filter fun e => e.2.ctx == c).foldl (fun n e => n - e.2.poolBytes) u.disp.pool
      installs := u.disp.installs.filter fun x => x.ctx != c } }

/-- CONTEXT_FREE of a quiet context: it goes, and then the waits for its end are over. -/
theorem exec_contextFree_quiet (s : State) (c : Nat) (hst : (s.ctx c).st = .ending) (hq : s.ctxQuiet c = true) :
    exec (.contextFree c) s =
      .next ((withoutCtx s c).groups.foldl (endWaitsOfGroup c (s.ctx c).endPrev) (withoutCtx s c)) := by
  rw [exec_contextFree, execContextFree]
  simp only [hst, hq]
  rfl

theorem withoutCtx_ctxs (s : State) (c : Nat) : (withoutCtx s c).ctxs = Tbl.del s.ctxs c :=
  congrArg (Tbl.del · c) (jsets_ringOnly s (s.ctx c).jend).ctxs

theorem queue_of_withoutCtx {s : State} {c n : Nat} {Q : Queue} (h : (n, Q) ∈ (withoutCtx s c).disp.queues) : Q.ctx ≠ some c := by
  simpa using (List.mem_filter.1 h).2

theorem kernel_of_withoutCtx {s : State} {c n : Nat} {N : Kernel} (h : (n, N) ∈ (withoutCtx s c).disp.kernels) : N.ctx ≠ c := by
  simpa using (List.mem_filter.1 h).2

theorem contextFree_frees (s : State) (c : Nat) (hst : (s.ctx c).st = .ending) (hq : s.ctxQuiet c = true) :
    ∃ t, exec (.contextFree c) s = .next t ∧ Tbl.get? t.ctxs c = none ∧
      (∀ n Q, (n, Q) ∈ t.disp.queues → Q.ctx ≠ some c) ∧ (∀ n N, (n, N) ∈ t.disp.kernels → N.ctx ≠ c) ∧
      (∀ n, n ≠ c → Tbl.get? t.ctxs n = Tbl.get? s.ctxs n) ∧ ∀ h w l d, ((t.split h w l).block ≠ .ctxEnd d c) := by
  have hwakes := Wakes.foldl _ (withoutCtx s c).groups (endWaitsOfGroup_wakes c (s.ctx c).endPrev) (withoutCtx s c)
  have hblocks := endWaits_none c (s.ctx c).endPrev (withoutCtx s c)
  have hctxs := congrArg State.ctxs hwakes.rest
  have hdisp := congrArg State.disp hwakes.rest
  refine ⟨_, exec_contextFree_quiet s c hst hq, ?_, fun n Q hQ => ?_, fun n N hN => ?_, fun n hn => ?_, hblocks⟩
  · rw [show _ = (withoutCtx s c).ctxs from hctxs, withoutCtx_ctxs, Tbl.get?_del_self]
  · exact queue_of_withoutCtx (by rwa [show _ = (withoutCtx s c).disp from hdisp] at hQ)
  · exact kernel_of_withoutCtx (by rwa [show _ = (withoutCtx s c).disp from hdisp] at hN)
  · rw [show _ = (withoutCtx s c).ctxs from hctxs, withoutCtx_ctxs, Tbl.get?_del_of_ne _ hn]

/-! ## The statement -/

/-- Settles O45: the relation Keeps carries each kernel's failure and each group's end past the operations that follow it. -/
theorem kernelsEnd : Obligations.KernelsEnd := by
  intro s g k c a e
  exact ⟨groupBitmapSet_sets s g, kernelComplete_completes s k, fun _ => kernelComplete_waits s k, kernelFailed_fails s k,
    fun hp => privileged_refuses s hp a e, exitK_fails s a e, exitK_missing s a e, halt_stops s, preemptionPoint_saves s g,
    contextFree_frees s c, fun _ => contextFree_waits s c⟩

end Sys2Proof.Contexts
end

section
/-! Numbers and their bytes (R1), and the fields of a message that is put together from them (R329). -/

namespace Sys2Proof.Hosts
open Sys2Proof Sys2Proof.Machine

@[simp] theorem natLE_length (n x : Nat) : (natLE n x).length = n := by
  induction n generalizing x with
  | zero => rfl
  | succ n ih => rw [natLE, List.length_cons, ih]

theorem leNat_natLE (n x : Nat) : leNat (natLE n x) = x % 256 ^ n := by
  induction n generalizing x with
  | zero => rw [natLE, leNat, Nat.pow_zero, Nat.mod_one]
  | succ n ih =>
    rw [natLE, leNat, ih, BitVec.toNat_ofNat, show 256 ^ (n + 1) = 256 * 256 ^ n from Nat.pow_succ', Nat.mod_mul]

theorem leNat_natLE_of_lt {n x : Nat} (h : x < 256 ^ n) : leNat (natLE n x) = x := by rw [leNat_natLE, Nat.mod_eq_of_lt h]

/-- A field behind a first part of known length is a field of the rest. -/
theorem fieldAt_append_right {a b : List Byte} {o n : Nat} (k : Nat) (h : a.length + k = o) : fieldAt (a ++ b) o n = fieldAt b k n := by
  rw [fieldAt, fieldAt, ← h, List.drop_append, Nat.add_sub_cancel_left, List.drop_of_length_le (by omega), List.nil_append]

theorem fieldAt_skip {m y o n : Nat} {b : List Byte} (h : m ≤ o) : fieldAt (natLE m y ++ b) o n = fieldAt b (o - m) n :=
  fieldAt_append_right _ (by rw [natLE_length]; omega)

/-- A number that a block begins with. -/
theorem fieldAt_natLE {n x : Nat} (b : List Byte) (h : x < 256 ^ n) : fieldAt (natLE n x ++ b) 0 n = x := by
  rw [fieldAt, List.drop_zero, List.take_append_of_le_length (natLE_length n x).ge, List.take_of_length_le (natLE_length n x).le,
    leNat_natLE_of_lt h]

/-- A number that a block consists of. -/
theorem fieldAt_natLE_alone {n x : Nat} (h : x < 256 ^ n) : fieldAt (natLE n x) 0 n = x := by
  rw [← List.append_nil (natLE n x)]
  exact fieldAt_natLE [] h

theorem zerosAt_past {b : List Byte} {o n : Nat} (h : b.length ≤ o) : zerosAt b o n = true := by
  rw [zerosAt, fieldAt, List.drop_of_length_le h, List.take_nil]
  rfl

/-- A number's bytes end where the zero bytes behind it begin. -/
theorem zerosAt_of_fieldAt {b : List Byte} {o n : Nat} (h : fieldAt b o n = 0) : zerosAt b o n = true := by rw [zerosAt, h]; rfl

theorem layout_of_length {b : List Byte} {n : Nat} {gaps : List (Nat × Nat)} (h : b.length = n)
    (hgaps : (gaps.all fun g => zerosAt b g.1 g.2) = true) : layout b n gaps = true := by
  rw [layout, hgaps, zerosAt_past h.le, ← h]
  simp

/-! ## Messages -/

section
variable (cls kind tag key counter n : Nat)

@[simp] theorem hostHead_length : (hostHead cls kind tag key counter n).length = 32 := by simp [hostHead]

@[simp] theorem hostMessage_length (s : State) (body : List Byte) : (hostMessage s cls kind tag key counter body).length = 64 + body.length := by
  simp [hostMessage]
  omega

theorem hostMessage_drop (s : State) (body : List Byte) : (hostMessage s cls kind tag key counter body).drop 64 = body := by
  rw [hostMessage, List.drop_left']
  simp

/-- The fields of the first 32 bytes are those of the whole. -/
theorem hostMessage_field (s : State) (body : List Byte) {o k : Nat} (h : o + k ≤ 32) :
    fieldAt (hostMessage s cls kind tag key counter body) o k = fieldAt (hostHead cls kind tag key counter body.length) o k := by
  rw [hostMessage, List.append_assoc, fieldAt, fieldAt, List.drop_append_of_le_length (by simp; omega),
    List.take_append_of_le_length (by simp; omega)]

end

/-- The fields of a head (R329). -/
structure HeadIs (h : List Byte) (cls kind tag key counter n : Nat) : Prop where
  version : fieldAt h 0 2 = 1
  cls : fieldAt h 2 1 = cls
  kind : fieldAt h 3 1 = kind
  size : fieldAt h 4 4 = n
  tag : fieldAt h 8 8 = tag
  key : fieldAt h 16 1 = key
  zeros : fieldAt h 17 7 = 0
  counter : fieldAt h 24 8 = counter

theorem hostHead_fields {cls kind tag key counter n : Nat} (hcls : cls < 256) (hkind : kind < 256) (htag : tag < 2 ^ 64) (hkey : key < 16)
    (hcounter : counter < 2 ^ 64) (hn : n ≤ 8128) : HeadIs (hostHead cls kind tag key counter n) cls kind tag key counter n := by
  simp only [hostHead, List.append_assoc]
  constructor
  · exact fieldAt_natLE _ (by omega)
  all_goals simp only [fieldAt_skip, Nat.reduceLeDiff, Nat.reduceSub, Nat.le_refl, Nat.sub_self]
  · exact fieldAt_natLE _ (by omega)
  · exact fieldAt_natLE _ (by omega)
  · exact fieldAt_natLE _ (by omega)
  · exact fieldAt_natLE _ (by omega)
  · exact fieldAt_natLE _ (by omega)
  · exact fieldAt_natLE _ (by omega)
  · exact fieldAt_natLE_alone (by omega)

/-- A message of R329's form is read as what it says. -/
theorem parseHost_hostMessage (s : State) {cls kind tag key counter : Nat} {body : List Byte} (hcls : cls < 256) (hkind : kind < 256)
    (htag : tag < 2 ^ 64) (hkey : key < 16) (hcounter : counter < 2 ^ 64) (hn : body.length ≤ 8128) :
    parseHost (hostMessage s cls kind tag key counter body) = some ⟨cls, kind, tag, key, counter, body⟩ := by
  have h := hostHead_fields hcls hkind htag hkey hcounter hn
  have hfield := fun (o k : Nat) (hk : o + k ≤ 32) => hostMessage_field cls kind tag key counter s body hk
  rw [parseHost]
  simp only [hfield 0 2 (by omega), hfield 2 1 (by omega), hfield 3 1 (by omega), hfield 4 4 (by omega), hfield 8 8 (by omega),
    hfield 16 1 (by omega), zerosAt, hfield 17 7 (by omega), hfield 24 8 (by omega), h.version, h.cls, h.kind, h.size, h.tag, h.key,
    h.zeros, h.counter, hostMessage_length, hostMessage_drop]
  rw [if_neg]
  simp
  omega

/-- A message of an installed key with a new counter is authentic. -/
theorem authentic_hostMessage (s : State) {cls kind tag key counter : Nat} {body : List Byte}
    (hkey : (Tbl.get? s.host.keys key).isSome = true) (hnew : s.lastCounter key < counter) :
    s.authentic (hostMessage s cls kind tag key counter body) ⟨cls, kind, tag, key, counter, body⟩ = true := by
  obtain ⟨k, hk⟩ := Option.isSome_iff_exists.1 hkey
  have htake : (hostMessage s cls kind tag key counter body).take 32 = hostHead cls kind tag key counter body.length := by
    rw [hostMessage, List.append_assoc, List.take_left']
    simp
  have hdrop : (hostMessage s cls kind tag key counter body).drop 32 =
      natLE 32 (Config.kmac (Tbl.getD s.host.keys key []) (hostHead cls kind tag key counter body.length ++ body)).toNat ++ body := by
    rw [hostMessage, List.append_assoc, List.drop_left']
    simp
  rw [State.authentic]
  simp only [hk, htake, hdrop, Contexts.getD_of_get? hk, hnew]
  rw [List.take_left' (natLE_length _ _)]
  simp

end Sys2Proof.Hosts
end

section
/-! What a command's message does (R80, R81, R329, R330): it is dropped, answered again, or opens an entry, is executed and closes it. -/

namespace Sys2Proof.Hosts
open Sys2Proof Sys2Proof.Machine

/-! ## Counters -/

theorem ctrOf_setCtr (l : List (List Byte × Nat)) (k : List Byte) (n : Nat) : ctrOf (setCtr l k n) k = n := by simp [ctrOf, setCtr]

/-- A message is taken: its counter is the last of its key (R329). -/
def heard (s : State) (key counter : Nat) : State :=
  { s with host := { s.host with lastCtr := setCtr s.host.lastCtr (s.keyAt key) counter } }

/-! ## Taken and dropped messages -/

section
variable (s : State) (port : Fin 2) (cls : Nat) (kinds : Nat → Bool) (k : HostMsg → State → State)

theorem receive_malformed {dg : List Byte} (h : parseHost dg = none) : s.receive port cls kinds dg k = s := by simp [State.receive, h]

theorem receive_forged {dg : List Byte} {m : HostMsg} (h : parseHost dg = some m) (ha : s.authentic dg m = false) :
    s.receive port cls kinds dg k = s := by simp [State.receive, h, ha]

/-- A message that is accepted is taken, where the event takes its kind. -/
theorem receive_hostMessage {kind tag key counter : Nat} {body : List Byte} (h : Accepts s port tag key counter body) (hcls : cls < 256)
    (hkind : kind < 256) (hk : kinds kind = true) : s.receive port cls kinds (hostMessage s cls kind tag key counter body) k =
      k ⟨cls, kind, tag, key, counter, body⟩ (heard s key counter) := by
  obtain ⟨hpower, hport, hinst, hkey, htag, hcounter, hnew, hlen⟩ := h
  rw [State.receive, parseHost_hostMessage s hcls hkind htag hkey hcounter hlen]
  simp only [hk, hpower, hport, authentic_hostMessage s hinst hnew]
  exact if_neg (by simp)

end

/-! ## A new command -/

/-- The command's message is taken, and its entry opened (R80). -/
def opened (s : State) (kind key counter : Nat) : State := (heard s key counter).newEntry 0xFFFF 0xFF kind 0 0

/-- What the command is executed to: refused while the module is not ready, and where no kind of R330 is its own. -/
def outcomeOf (k : List Byte → Nat → State → State × Answer) (kind n : Nat) (body : List Byte) (o : State) : State × Answer :=
  if !o.boot.isReady then (o, refuseBody 1 kind body) else if isCommand kind then k body n o else (o, refuseBody 3 kind body)

/-- The entry `n` of a state, or a fresh one, with the fields of the answer. -/
def answeredEntry (t : State) (n lo kind : Nat) (a : Answer) : JEntry :=
  let e := (t.entry n).getD { seq := n, lo := lo, queue := 0xFFFF, ctx := 0xFF, kind := kind, st := 0 }
  { e with queue := a.queue, ctx := a.ctx, kernel := if e.kernel = 0 then a.kernel else e.kernel, st := max e.st a.st }

/-- A command's entry takes the fields of its answer, and the command is remembered (R80, R81). -/
def closed (t : State) (port : Fin 2) (kind tag key n lo : Nat) (a : Answer) : State :=
  { t with host := { t.host with
    ring := Tbl.set t.host.ring ((n - 1) % 32768) (answeredEntry t n lo kind a)
    recent := ({ port := port.val, key := key, tag := tag, kind := kind, seq := n, reason := a.reason, value := a.value } ::
      t.host.recent).take 4096 } }

theorem command_hostMessage {s : State} {port : Fin 2} {kind own tag key counter : Nat} {body : List Byte}
    (k : List Byte → Nat → State → State × Answer) (h : Accepts s port tag key counter body) (hkind : kind < 256)
    (hk : kind = own ∨ isCommand kind = false) (hnew : ∀ r, r ∈ s.host.recent → r.key = key → r.tag ≠ tag) :
    s.command port own (hostMessage s 1 kind tag key counter body) k =
      let r := outcomeOf k kind s.host.seq body (opened s kind key counter)
      closed r.1 port kind tag key s.host.seq s.time.lo r.2 := by
  have hfind : s.host.recent.find? (fun r => r.key == key && r.tag == tag) = none := by
    rw [List.find?_eq_none]
    intro r hr hrt
    rw [Bool.and_eq_true, beq_iff_eq, beq_iff_eq] at hrt
    exact hnew r hr hrt.1 hrt.2
  rw [State.command, receive_hostMessage _ _ _ _ _ h (by omega) hkind (by rcases hk with rfl | hk <;> simp [*])]
  simp only [heard, hfind]
  rfl

/-- The module's host part after a command is that at its opening, save for the journal and what has been sent; the entry still stands, in
state `st`. -/
structure Executed (s : State) (kind st : Nat) (o t : State) : Prop where
  host : { t.host with ring := o.host.ring, out := o.host.out } = o.host
  entry : ∃ e, t.entry s.host.seq = some e ∧ e.lo = s.time.lo ∧ e.kind = kind ∧ e.st = st ∧ e.kernel = 0

/-- Only the host's part counts. -/
theorem Executed.congr {s o t u : State} {kind st : Nat} (h : Executed s kind st o t) (hu : u.host = t.host) : Executed s kind st o u where
  host := by rw [hu]; exact h.host
  entry := by
    obtain ⟨e, he, hfields⟩ := h.entry
    exact ⟨e, by rw [State.entry, hu]; exact he, hfields⟩

theorem entry_seq {t : State} {n : Nat} {e : JEntry} (h : t.entry n = some e) : e.seq = n := by
  unfold State.entry at h
  split at h
  · split at h
    · cases h; assumption
    · cases h
  · cases h

theorem opened_entry (s : State) (kind key counter : Nat) : (opened s kind key counter).entry s.host.seq =
    some { seq := s.host.seq, lo := s.time.lo, queue := 0xFFFF, ctx := 0xFF, kind := kind, st := 0 } := by
  have h : Tbl.get? (opened s kind key counter).host.ring ((s.host.seq - 1) % 32768) =
      some { seq := s.host.seq, lo := s.time.lo, queue := 0xFFFF, ctx := 0xFF, kind := kind, st := 0, kernel := 0 } := Tbl.get?_set_self _ _ _
  rw [State.entry, h]
  exact if_pos rfl

/-- A state in which a command of a kind has been opened. -/
structure OpenedFor (s : State) (kind : Nat) (o : State) : Prop where
  rest : { o with host := s.host } = s
  out : o.host.out = s.host.out
  entry : o.entry s.host.seq = some { seq := s.host.seq, lo := s.time.lo, queue := 0xFFFF, ctx := 0xFF, kind := kind, st := 0 }

theorem opened_for (s : State) (kind key counter : Nat) : OpenedFor s kind (opened s kind key counter) :=
  ⟨rfl, rfl, opened_entry s kind key counter⟩

section
variable {s o : State} {kind : Nat} (h : OpenedFor s kind o)
include h

theorem OpenedFor.eq : o = { s with host := o.host } := by
  conv_rhs => rw [← show ({ o with host := s.host } : State) = s from h.rest]
theorem OpenedFor.boot : o.boot = s.boot := by have := congrArg State.boot h.rest; exact this
theorem OpenedFor.disp : o.disp = s.disp := by have := congrArg State.disp h.rest; exact this
theorem OpenedFor.ctxs : o.ctxs = s.ctxs := by have := congrArg State.ctxs h.rest; exact this
theorem OpenedFor.groups : o.groups = s.groups := by have := congrArg State.groups h.rest; exact this
theorem OpenedFor.mod : o.mod = s.mod := by have := congrArg State.mod h.rest; exact this
theorem OpenedFor.flash : o.flash = s.flash := by have := congrArg State.flash h.rest; exact this
theorem OpenedFor.now : o.now = s.now := by have := congrArg State.now h.rest; exact this
theorem OpenedFor.nextId : o.nextId = s.nextId := by have := congrArg State.nextId h.rest; exact this
theorem OpenedFor.ctx (c : Nat) : o.ctx c = s.ctx c := by rw [State.ctx, h.ctxs]; rfl
theorem OpenedFor.queue (q : Nat) : o.queue q = s.queue q := by rw [State.queue, h.disp]; rfl
theorem OpenedFor.kernel (k : Nat) : o.kernel k = s.kernel k := by rw [State.kernel, h.disp]; rfl
theorem OpenedFor.group (g : Nat) : o.group g = s.group g := by rw [State.group, h.groups]; rfl

/-- A command that leaves the host's part but for what is sent. -/
theorem Executed.of_out {t : State} {x : List OutMsg} (ht : t.host = { o.host with out := x }) : Executed s kind 0 o t where
  host := by rw [ht]
  entry := ⟨_, by rw [State.entry, ht]; exact h.entry, rfl, rfl, rfl, rfl⟩

theorem Executed.of_host {t : State} (ht : t.host = o.host) : Executed s kind 0 o t := .of_out h (x := o.host.out) ht

end

/-- What R80, R81 and R330 say of a command follows from its outcome. -/
theorem commanded_of {s : State} {port : Fin 2} {i : List Byte → Instr} {kind own reason value : Nat} {body : List Byte}
    {entry : JEntry → Prop} {more : State → Prop} {k : List Byte → Nat → State → State × Answer}
    (hexec : ∀ dg, exec (i dg) s = .next (s.command port own dg k)) (hkind : kind < 256) (hk : kind = own ∨ isCommand kind = false)
    (h : ∀ key counter, ∃ st t a, outcomeOf k kind s.host.seq body (opened s kind key counter) = (t, a) ∧
      Executed s kind st (opened s kind key counter) t ∧ a.reason = reason ∧ a.value = value ∧
      (∀ e : JEntry, e.st = max st a.st → e.queue = a.queue → e.ctx = a.ctx → e.kernel = a.kernel → entry e) ∧
      ∀ ring recent, more { t with host := { t.host with ring := ring, recent := recent } }) :
    Commanded s port i kind body reason value entry more := by
  intro tag key counter hacc hnew
  obtain ⟨st, t, a, hrun, ⟨hhost, e, he, hlo, hkd, hst, hker⟩, rfl, rfl, hentry, hmore⟩ := h key counter
  have hkeys : t.host.keys = s.host.keys := by have := congrArg HostIf.keys hhost; exact this
  have hctr : t.host.lastCtr = setCtr s.host.lastCtr (s.keyAt key) counter := congrArg HostIf.lastCtr hhost
  have hseq : t.host.seq = s.host.seq + 1 := congrArg HostIf.seq hhost
  have hrecent : t.host.recent = s.host.recent := by have := congrArg HostIf.recent hhost; exact this
  have hans : answeredEntry t s.host.seq s.time.lo kind a =
      { e with queue := a.queue, ctx := a.ctx, kernel := a.kernel, st := max st a.st } := by
    simp only [answeredEntry, he, Option.getD_some, hst, hker]
    rfl
  refine ⟨closed t port kind tag key s.host.seq s.time.lo a, answeredEntry t s.host.seq s.time.lo kind a, ?_, ?_, hseq,
    Tbl.get?_set_self _ _ _, ?_, ?_, ?_, ?_, ?_, hmore _ _⟩
  · rw [hexec, command_hostMessage k hacc hkind hk hnew, hrun]
  · show ctrOf t.host.lastCtr (Tbl.getD t.host.keys key []) = counter
    rw [hctr, hkeys]
    exact ctrOf_setCtr _ _ _
  · rw [hans]; exact (entry_seq he : e.seq = s.host.seq)
  · rw [hans]; exact hlo
  · rw [hans]; exact hkd
  · rw [hans]; exact hentry _ rfl rfl rfl rfl
  · show ({ port := port.val, key := key, tag := tag, kind := kind, seq := s.host.seq, reason := a.reason, value := a.value } ::
      t.host.recent).take 4096 = _
    rw [hrecent]

theorem commanded_mono {s : State} {port : Fin 2} {i : List Byte → Instr} {kind reason value : Nat} {body : List Byte}
    {entry : JEntry → Prop} {more less : State → Prop} (h : Commanded s port i kind body reason value entry more)
    (hless : ∀ t, more t → less t) : Commanded s port i kind body reason value entry less := by
  intro tag key counter hacc hnew
  obtain ⟨t, e, hexec, hctr, hseq, hring, heseq, hlo, hkind, hentry, hrecent, hmore⟩ := h tag key counter hacc hnew
  exact ⟨t, e, hexec, hctr, hseq, hring, heseq, hlo, hkind, hentry, hrecent, hless t hmore⟩

end Sys2Proof.Hosts
end

section
/-! The refusals that every command meets, repeated commands, and the origin's next generation (R80, R91, R329, R330). -/

namespace Sys2Proof.Hosts
open Sys2Proof Sys2Proof.Machine

/-- Only the host's part of the module differs. -/
def HostOnly (s t : State) : Prop := { t with host := s.host } = s

/-- Each event of R330 is a command of its kind; an empty body is malformed for each. -/
theorem exec_hostCommand {p : Fin 2} {y : Nat × (List Byte → Instr)} (h : y ∈ hostCommands p) (s : State) :
    isCommand y.1 = true ∧ y.1 < 256 ∧
    ∃ k, (∀ dg, exec (y.2 dg) s = .next (s.command p y.1 dg k)) ∧ ∀ n o, k [] n o = (o, refuse 3 0xFFFF 0xFF) := by
  simp only [hostCommands, List.mem_cons, List.not_mem_nil, or_false] at h
  obtain rfl | rfl | rfl | rfl | rfl | rfl | rfl | rfl | rfl | rfl := h
  all_goals exact ⟨rfl, by norm_num, _, fun _ => rfl, fun _ _ => rfl⟩

section
variable {s : State} {port : Fin 2} {i : List Byte → Instr} {kind own reason q c : Nat} {body : List Byte}
  {k : List Byte → Nat → State → State × Answer}

/-- A command whose outcome is a refusal on the spot changes the host's part alone. -/
theorem commanded_of_refusal (hexec : ∀ dg, exec (i dg) s = .next (s.command port own dg k)) (hkind : kind < 256)
    (hk : kind = own ∨ isCommand kind = false)
    (h : ∀ key counter, outcomeOf k kind s.host.seq body (opened s kind key counter) = (opened s kind key counter, refuse reason q c)) :
    Commanded s port i kind body reason 0 (entryIs 4 q c) (HostOnly s) :=
  commanded_of hexec hkind hk fun key counter => ⟨0, _, _, h key counter, .of_host (opened_for s kind key counter) rfl, rfl, rfl,
    fun e hst hq hc _ => ⟨hst, hq, hc⟩, fun _ _ => rfl⟩

theorem outcomeOf_unlisted (h : isCommand kind = false) {n : Nat} (o : State) :
    outcomeOf k kind n body o = (o, refuseBody (if o.boot.isReady then 3 else 1) kind body) := by
  cases hr : o.boot.isReady <;> simp [outcomeOf, h, hr]

theorem outcomeOf_notReady {n : Nat} {o : State} (h : o.boot.isReady = false) : outcomeOf k kind n body o = (o, refuseBody 1 kind body) := by
  simp [outcomeOf, h]

theorem outcomeOf_command (h : isCommand kind = true) {n : Nat} {o : State} (hr : o.boot.isReady = true) :
    outcomeOf k kind n body o = k body n o := by simp [outcomeOf, h, hr]

/-- A kind that R330 does not list names neither queue nor context. -/
theorem refuseBody_unlisted (h : isCommand kind = false) : refuseBody reason kind body = refuse reason 0xFFFF 0xFF := by
  have hrange : ¬ (1 ≤ kind ∧ kind ≤ 10) := by rintro ⟨h1, h2⟩; simp [isCommand, h1, h2] at h
  rw [refuseBody, namedQueue, namedCtx, if_neg (by omega), if_neg (by omega)]

end

theorem isCommand_eq_false {c : Nat} (h : ¬ (1 ≤ c ∧ c ≤ 10)) : isCommand c = false := by
  rw [isCommand, Bool.and_eq_false_iff, decide_eq_false_iff_not, decide_eq_false_iff_not]
  omega

/-- A repeated command is answered as the first, once that has been answered (R81). -/
theorem command_repeated {s : State} {port : Fin 2} {kind tag key counter : Nat} {body : List Byte} {r : Recent}
    (k : List Byte → Nat → State → State × Answer) (h : Accepts s port tag key counter body) (hkind : kind < 256)
    (hr : s.host.recent.find? (fun r => r.key == key && r.tag == tag) = some r) :
    s.command port kind (hostMessage s 1 kind tag key counter body) k =
      if r.sent then (heard s key counter).sendReply { r with port := port.val } else heard s key counter := by
  rw [State.command, receive_hostMessage _ _ _ _ _ h (by omega) hkind (by simp)]
  simp only [heard, hr]

theorem reply_sends (s : State) (port key cls kind tag : Nat) (body : List Byte) : ∃ b,
    (s.reply port key cls kind tag body).host.out = .host (s.portFor port) b :: s.host.out ∧ b.drop 64 = body := by
  refine ⟨_, rfl, ?_⟩
  rw [List.drop_left']
  simp

/-- R329, R330: what holds of every command. -/
theorem hostCommand_general (s : State) (port : Fin 2) {y : Nat × (List Byte → Instr)} (hy : y ∈ hostCommands port)
    (dg body : List Byte) (c tag key counter : Nat) (r : Recent) :
    (parseHost dg = none → exec (y.2 dg) s = .next s) ∧
    (∀ m, parseHost dg = some m → s.authentic dg m = false → exec (y.2 dg) s = .next s) ∧
    (c < 256 → ¬ (1 ≤ c ∧ c ≤ 10) →
      Commanded s port y.2 c body (if s.boot.isReady then 3 else 1) 0 (entryIs 4 0xFFFF 0xFF) (HostOnly s)) ∧
    (s.boot.isReady = false → Commanded s port y.2 y.1 body 1 0
      (entryIs 4 (if y.1 ∈ [1, 2, 3, 8] ∧ 2 ≤ body.length then leNat (body.take 2) else 0xFFFF)
        (if y.1 ∈ [5, 6, 7] ∧ 1 ≤ body.length ∧ leNat (body.take 1) < 64 then leNat (body.take 1) else 0xFF)) (HostOnly s)) ∧
    (Accepts s port tag key counter body → s.host.recent.find? (fun r => r.key == key && r.tag == tag) = some r →
      ∃ t, exec (y.2 (hostMessage s 1 y.1 tag key counter body)) s = .next t ∧ HostOnly s t ∧ t.host.ring = s.host.ring ∧
        t.host.seq = s.host.seq ∧ t.host.recent = s.host.recent ∧
        (r.sent = false → t.host.out = s.host.out) ∧ (r.sent = true → ∃ b, t.host.out = .host (s.portFor port.val) b :: s.host.out ∧
          b.drop 64 = s.replyBody r)) := by
  obtain ⟨hcmd, hkind, k, hexec, -⟩ := exec_hostCommand hy s
  refine ⟨fun h => ?_, fun m h ha => ?_, fun hc hlist => ?_, fun hready => ?_, fun hacc hr => ?_⟩
  · rw [hexec, State.command, receive_malformed _ _ _ _ _ h]
  · rw [hexec, State.command, receive_forged _ _ _ _ _ h ha]
  · have hun := isCommand_eq_false hlist
    refine commanded_of_refusal hexec hc (.inr hun) fun key counter => ?_
    rw [outcomeOf_unlisted hun, refuseBody_unlisted hun]
    rfl
  · refine commanded_of_refusal hexec hkind (.inl rfl) fun key counter => ?_
    rw [outcomeOf_notReady (by exact hready), refuseBody, namedQueue, namedCtx]
    simp only [fieldAt, List.drop_zero, List.mem_cons, List.not_mem_nil, or_false, show ∀ n, n ≤ 63 ↔ n < 64 from fun _ => Nat.lt_succ_iff.symm]
  · rw [hexec, command_repeated k hacc hkind hr]
    cases hs : r.sent with
    | false => exact ⟨_, rfl, rfl, rfl, rfl, rfl, fun _ => rfl, fun h => absurd h (by simp)⟩
    | true =>
      obtain ⟨b, hb, hbody⟩ := reply_sends (heard s key counter) port.val r.key 0x81 r.kind r.tag
        ((heard s key counter).replyBody { r with port := port.val })
      exact ⟨_, rfl, rfl, rfl, rfl, rfl, fun h => absurd h (by simp), fun _ => ⟨b, hb, hbody⟩⟩

theorem hostCommand_empty {s : State} {port : Fin 2} {y : Nat × (List Byte → Instr)} (hy : y ∈ hostCommands port)
    (hready : s.boot = .ready) : Commanded s port y.2 y.1 [] 3 0 (entryIs 4 0xFFFF 0xFF) (HostOnly s) := by
  obtain ⟨hcmd, hkind, k, hexec, hempty⟩ := exec_hostCommand hy s
  refine commanded_of_refusal hexec hkind (.inl rfl) fun key counter => ?_
  have hr : (opened s y.1 key counter).boot = .ready := hready
  rw [outcomeOf_command hcmd (by rw [hr]; rfl), hempty]

/-! ## Generations (R91) -/

/-- The last generation accepted on a queue. -/
def lastGen (f : Flash) (q : Nat) : Nat := ((Tbl.get? f.gLast q).map Prod.fst).getD 0

/-- The generation after `n`, which skips 0. -/
def genAfter (n : Nat) : Nat := if (n + 1) % 2 ^ 32 = 0 then 1 else (n + 1) % 2 ^ 32

theorem nextGen_eq (f : Flash) (q : Nat) : f.nextGen q = genAfter (match Tbl.get? f.genSent q with
    | some n => if 1 ≤ (n + 2 ^ 32 - lastGen f q) % 2 ^ 32 ∧ (n + 2 ^ 32 - lastGen f q) % 2 ^ 32 < 2 ^ 31 then n else lastGen f q
    | none => lastGen f q) := by
  unfold Flash.nextGen lastGen genAfter
  cases Tbl.get? f.gLast q <;> cases Tbl.get? f.genSent q <;> rfl

theorem nextGen_fresh {f : Flash} {q : Nat} (h : lastGen f q < 2 ^ 32) :
    (Tbl.get? f.genSent q = none → f.nextGen q = genAfter (lastGen f q)) ∧
    ∀ n, n < 2 ^ 32 → Tbl.get? f.genSent q = some n → f.nextGen q ≠ n ∧ f.nextGen q ≠ lastGen f q ∧
      (f.nextGen q = genAfter n ∨ f.nextGen q = genAfter (lastGen f q)) := by
  refine ⟨fun hs => by rw [nextGen_eq, hs], fun n hn hs => ?_⟩
  rw [nextGen_eq, hs]
  dsimp only
  generalize lastGen f q = l at h ⊢
  split
  · refine ⟨?_, ?_, .inl rfl⟩ <;> unfold genAfter <;> split <;> omega
  · refine ⟨?_, ?_, .inr rfl⟩ <;> unfold genAfter <;> split <;> omega

end Sys2Proof.Hosts
end

section
/-! Reads of memory (R13, R258): what a read meets of stored errors changes no read after it. -/

namespace Sys2Proof.Hosts
open Sys2Proof Sys2Proof.Machine

/-! ## States that read alike -/

/-- Memory reads alike, and is translated alike. -/
structure ReadsAlike (s t : State) : Prop where
  mem : t.memory.mem = s.memory.mem
  poisoned : ∀ l, t.linePoisoned l = s.linePoisoned l
  mod : t.mod = s.mod
  ctxs : t.ctxs = s.ctxs

namespace ReadsAlike
variable {s t : State} (h : ReadsAlike s t)
include h

theorem ctx (c : Nat) : t.ctx c = s.ctx c := by rw [State.ctx, h.ctxs]; rfl
theorem byteAt (a : Nat) : t.byteAt a = s.byteAt a := by rw [State.byteAt, h.mem]; rfl
theorem bytesAt (a n : Nat) : t.bytesAt a n = s.bytesAt a n := by rw [State.bytesAt, h.mem]; rfl
theorem norm (a : Nat) : t.norm a = s.norm a := by rw [State.norm, h.mod]; rfl

theorem walkFrom (c va table : Nat) (levels : List (Nat × Nat × Nat × Nat × Nat)) :
    t.walkFrom c va table levels = s.walkFrom c va table levels := by
  induction levels generalizing table with
  | nil => rfl
  | cons e r ih =>
    obtain ⟨lv, lo, wd, nextSize, size⟩ := e
    rw [State.walkFrom, State.walkFrom]
    simp only [h.poisoned, h.bytesAt, h.norm, ih]

theorem walk (c va : Nat) : t.walk c va = s.walk c va := by rw [State.walk, h.ctx, h.walkFrom]; rfl

theorem walkBytes (c va n : Nat) (a : Acc) : t.walkBytes c va n a = s.walkBytes c va n a := by
  unfold State.walkBytes
  simp only [h.walk]

theorem dxRead (c va n : Nat) : t.dxRead c va n = s.dxRead c va n := by
  unfold State.dxRead
  simp only [h.walkBytes, h.poisoned, funext h.byteAt]

theorem imageAt (c code : Nat) : t.imageAt c code = s.imageAt c code := by
  unfold State.imageAt
  simp only [h.dxRead]

theorem readImage (c code : Nat) : t.readImage c code = s.readImage c code := by
  unfold State.readImage
  simp only [h.imageAt, h.dxRead]

theorem readLaunch (c : Nat) (b : List Byte) : t.readLaunch c b = s.readLaunch c b := by
  unfold State.readLaunch
  simp only [h.readImage, h.ctx]

end ReadsAlike

/-! ## Stored errors met -/

/-- At most stored errors have been met (R13). -/
structure Touched (s t : State) : Prop where
  rest : t = s.meets t
  poisoned : ∀ l, t.linePoisoned l = s.linePoisoned l
  quiet : s.memory.errs = [] → t = s

theorem Touched.refl (s : State) : Touched s s := ⟨rfl, fun _ => rfl, fun _ => rfl⟩

theorem Touched.trans {s t u : State} (h : Touched s t) (k : Touched t u) : Touched s u where
  rest := by
    have hrest := k.rest
    rw [h.rest] at hrest
    exact hrest
  poisoned l := (k.poisoned l).trans (h.poisoned l)
  quiet hs := by
    have ht := h.quiet hs
    exact (k.quiet (by rw [ht]; exact hs)).trans ht

theorem Touched.foldl {α : Type} (f : State → α → State) (l : List α) (hf : ∀ t a, Touched t (f t a)) (s : State) :
    Touched s (l.foldl f s) :=
  List.foldlRecOn (motive := Touched s) l f (Touched.refl s) fun t ht a _ => ht.trans (hf t a)

theorem Touched.readsAlike {s t : State} (h : Touched s t) : ReadsAlike s t where
  mem := by rw [h.rest]; rfl
  poisoned := h.poisoned
  mod := by rw [h.rest]; rfl
  ctxs := by rw [h.rest]; rfl

/-- Only the units and the ring of the management cores are written when a correction is posted. -/
theorem correction_meets (s : State) (line weight : Nat) : s.correction line weight = s.meets (s.correction line weight) ∧
    (s.correction line weight).memory = s.memory := by
  unfold State.correction
  split
  · unfold State.flicker
    dsimp only
    split <;> exact ⟨rfl, rfl⟩
  · exact ⟨rfl, rfl⟩

/-- A line whose data are poison is one whether the error is stored yet or met. -/
theorem linePoisoned_met {s t : State} {line : Nat} (herr : Tbl.get? s.memory.errs line = some .uncorrectable)
    (hp : t.memory.poison = line :: s.memory.poison) (he : t.memory.errs = Tbl.del s.memory.errs line)
    (hadm : ∀ l, t.admits l = s.admits l) (l : Nat) : t.linePoisoned l = s.linePoisoned l := by
  rw [State.linePoisoned, State.linePoisoned, hadm, hp, he]
  by_cases hl : l = line
  · subst hl
    simp [herr]
  · rw [Tbl.get?_del_of_ne _ hl, List.contains_cons, beq_false_of_ne hl, Bool.false_or]

theorem linePoisoned_of_memory {s t : State} (hp : t.memory.poison = s.memory.poison) (he : t.memory.errs = s.memory.errs)
    (hadm : ∀ l, t.admits l = s.admits l) (l : Nat) : t.linePoisoned l = s.linePoisoned l := by
  rw [State.linePoisoned, State.linePoisoned, hadm, hp, he]

/-- An error that is corrected is written back, and posted (R13). -/
theorem writtenBack_touched (s : State) (line weight : Nat) (b : List Nat) (herr : s.memory.errs ≠ []) :
    Touched s ((s.modMem fun m => { m with writeBacks := b }).correction line weight) := by
  obtain ⟨hrest, hmem⟩ := correction_meets (s.modMem fun m => { m with writeBacks := b }) line weight
  exact ⟨hrest, linePoisoned_of_memory (by rw [hmem]; rfl) (by rw [hmem]; rfl) (fun l => by rw [hrest]; rfl), fun h => absurd h herr⟩

theorem touchLine_touched (s : State) (line : Nat) : Touched s (s.touchLine line) := by
  have hne : ∀ {x}, Tbl.get? s.memory.errs line = some x → s.memory.errs ≠ [] := by
    intro x h hn
    rw [hn] at h
    cases h
  unfold State.touchLine
  split
  · exact Touched.refl s
  · exact writtenBack_touched s _ _ _ (hne ‹_›)
  · exact writtenBack_touched s _ _ _ (hne ‹_›)
  · exact ⟨rfl, linePoisoned_met ‹_› rfl rfl fun _ => rfl, fun h => absurd h (hne ‹_›)⟩

theorem walkTouch_touched (s : State) (c va : Nat) : Touched s (s.walkTouch c va) := by
  unfold State.walkTouch
  split
  · exact Touched.refl s
  · exact Touched.foldl _ _ (fun t a => touchLine_touched t _) s

theorem dxTouch_touched (s : State) (c va n : Nat) : Touched s (s.dxTouch c va n) := by
  unfold State.dxTouch
  split
  · exact Touched.refl s
  · split
    · exact (walkTouch_touched s c va).trans (Touched.foldl _ _ touchLine_touched _)
    · exact walkTouch_touched s c va

theorem touchImage_touched (s : State) (c code : Nat) : Touched s (s.touchImage c code) := by
  unfold State.touchImage
  dsimp only
  have h := dxTouch_touched s c code 128
  split
  · split
    · exact h
    · split
      · exact (h.trans (dxTouch_touched _ _ _ _)).trans (dxTouch_touched _ _ _ _)
      · exact h.trans (dxTouch_touched _ _ _ _)
  · exact h

/-! ## A command's opening reads alike -/

theorem OpenedFor.readsAlike {s o : State} {kind : Nat} (h : OpenedFor s kind o) : ReadsAlike s o where
  mem := by rw [h.eq]
  poisoned l := by rw [h.eq]; rfl
  mod := h.mod
  ctxs := h.ctxs

/-- What a command that only reads leaves: errors met, where any were stored. -/
def OnlyReads (s t : State) : Prop := { t with host := s.host } = s.meets t ∧ (s.memory.errs = [] → HostOnly s t)

theorem Touched.onlyReads {s o t : State} {kind : Nat} (ho : OpenedFor s kind o) (h : Touched o t) (hst : HostIf) :
    OnlyReads s { t with host := hst } := by
  have hrest := congrArg (fun x : State => { x with host := s.host }) h.rest
  rw [ho.eq] at hrest
  refine ⟨hrest, fun hq => ?_⟩
  have hquiet := congrArg (fun x : State => { x with host := s.host }) (h.quiet (by rw [ho.eq]; exact hq))
  exact hquiet.trans ho.rest

theorem Touched.host {s t : State} (h : Touched s t) : t.host = s.host := by rw [h.rest]; rfl
theorem Touched.disp {s t : State} (h : Touched s t) : t.disp = s.disp := by rw [h.rest]; rfl

end Sys2Proof.Hosts
end

section
/-! Commands on queues: launches, pod launches and priorities (R68, R72, R91, R330). -/

namespace Sys2Proof.Hosts
open Sys2Proof Sys2Proof.Machine

/-! ## Bodies -/

/-- What a body on a queue begins with (R330). -/
def queued (q : Nat) : List Byte := natLE 2 q ++ natLE 6 0

@[simp] theorem queued_length (q : Nat) : (queued q).length = 8 := by simp [queued]

section
variable {q : Nat} (r : List Byte)

theorem fieldAt_queued (o n : Nat) : fieldAt (queued q ++ r) (8 + o) n = fieldAt r o n := fieldAt_append_right o (by simp)

theorem layout_queued {n : Nat} (hn : 8 + r.length = n) : layout (queued q ++ r) n [(2, 6)] = true := by
  refine layout_of_length (by rw [List.length_append, queued_length, hn]) ?_
  rw [List.all_cons, List.all_nil, Bool.and_true, queued, List.append_assoc]
  exact zerosAt_of_fieldAt (by rw [fieldAt_skip (Nat.le_refl 2)]; exact fieldAt_natLE _ (by omega))

variable (hq : q < 2 ^ 16)
include hq

theorem fieldAt_queued_queue : fieldAt (queued q ++ r) 0 2 = q := by
  rw [queued, List.append_assoc]
  exact fieldAt_natLE _ hq

theorem namedQueue_queued {kind : Nat} (h : kind = 1 ∨ kind = 2 ∨ kind = 3 ∨ kind = 8) : namedQueue kind (queued q ++ r) = q := by
  rw [namedQueue, if_pos ⟨h, by simp; omega⟩, fieldAt_queued_queue r hq]

end

/-! ## The context of a queue -/

/-- The queue is bound to a context that takes commands (R68). -/
def Bound (s : State) (q c : Nat) : Prop := q < 256 ∧ (s.queue q).ctx = some c ∧ (s.ctx c).st ≠ .ending

theorem boundCtx_of_bound {s : State} {q c : Nat} (h : Bound s q c) : s.boundCtx q = some c := by
  obtain ⟨hq, hc, hst⟩ := h
  rw [State.boundCtx, if_neg (by omega), hc]
  exact if_neg hst

theorem boundCtx_of_unbound {s : State} {q c : Nat}
    (h : 256 ≤ q ∨ (s.queue q).ctx = none ∨ (s.queue q).ctx = some c ∧ (s.ctx c).st = .ending) : s.boundCtx q = none := by
  rw [State.boundCtx]
  split
  · rfl
  · rcases h with h | h | ⟨hc, hst⟩
    · contradiction
    · rw [h]
    · rw [hc]
      exact if_pos hst

/-! ## Outcomes while the module is ready -/

section
variable {s : State} {port : Fin 2} {i : List Byte → Instr} {kind reason q c : Nat} {body : List Byte}
  {k : List Byte → Nat → State → State × Answer}

theorem outcome_ready (hready : s.boot = .ready) (hcmd : isCommand kind = true) (n : Nat) {o : State} (ho : OpenedFor s kind o) :
    outcomeOf k kind n body o = k body n o :=
  outcomeOf_command hcmd (by rw [ho.boot, hready]; rfl)

/-- A ready module executes a command. -/
theorem executed_of {more : State → Prop} {entry : JEntry → Prop} {value st : Nat} (hready : s.boot = .ready)
    (hcmd : isCommand kind = true) (hkind : kind < 256) (hexec : ∀ dg, exec (i dg) s = .next (s.command port kind dg k))
    (h : ∀ o, OpenedFor s kind o → ∃ t a, k body s.host.seq o = (t, a) ∧ Executed s kind st o t ∧ a.reason = reason ∧ a.value = value ∧
      (∀ e : JEntry, e.st = max st a.st → e.queue = a.queue → e.ctx = a.ctx → e.kernel = a.kernel → entry e) ∧
      ∀ ring recent, more { t with host := { t.host with ring := ring, recent := recent } }) :
    Commanded s port i kind body reason value entry more :=
  commanded_of hexec hkind (.inl rfl) fun key counter => by
    have ho := opened_for s kind key counter
    rw [outcome_ready hready hcmd _ ho]
    exact ⟨st, h _ ho⟩

/-- A ready module refuses a command before it reads anything. -/
theorem refused_of (hready : s.boot = .ready) (hcmd : isCommand kind = true) (hkind : kind < 256)
    (hexec : ∀ dg, exec (i dg) s = .next (s.command port kind dg k))
    (h : ∀ o, OpenedFor s kind o → k body s.host.seq o = (o, refuse reason q c)) :
    Commanded s port i kind body reason 0 (entryIs 4 q c) (HostOnly s) :=
  executed_of (st := 0) hready hcmd hkind hexec fun o ho => ⟨o, refuse reason q c, h o ho, .of_host ho rfl, rfl, rfl,
    fun e hst hq hc _ => ⟨hst, hq, hc⟩, fun _ _ => ho.rest⟩

/-- A ready module refuses a command after reads. -/
theorem refused_reading (hready : s.boot = .ready) (hcmd : isCommand kind = true) (hkind : kind < 256)
    (hexec : ∀ dg, exec (i dg) s = .next (s.command port kind dg k))
    (h : ∀ o, OpenedFor s kind o → ∃ t, Touched o t ∧ k body s.host.seq o = (t, refuse reason q c)) :
    Commanded s port i kind body reason 0 (entryIs 4 q c) (OnlyReads s) :=
  executed_of (st := 0) hready hcmd hkind hexec fun o ho => by
    obtain ⟨t, ht, hk⟩ := h o ho
    exact ⟨t, refuse reason q c, hk, .of_host ho ht.host, rfl, rfl, fun e hst hq hc _ => ⟨hst, hq, hc⟩, fun _ _ => ht.onlyReads ho _⟩

end

/-! ## Launches (R72, R330) -/

/-- The identifier of the next kernel of a queue (R72). -/
def nextKernel (s : State) (c q : Nat) : Nat := c * 2 ^ 56 + q * 2 ^ 48 + ((s.queue q).count + 1)

/-- A queue with a kernel more behind its commands. -/
def Queue.behind (Q : Queue) (id : Nat) : Queue := { Q with count := Q.count + 1, last := some id, cmds := Q.cmds ++ [id] }

/-- A queue's next kernel stands in it, and takes of the pool of bitmaps. -/
def queuedKernel (s : State) (q id : Nat) (K : Kernel) : State :=
  let t := (s.setKernel id K).setQueue q (Queue.behind (s.queue q) id)
  { t with disp := { t.disp with pool := t.disp.pool + K.poolBytes } }

theorem queuedKernel_kernel (s : State) (q id n : Nat) (K : Kernel) :
    (queuedKernel s q id K).kernel n = if n = id then K else s.kernel n := by
  split
  · subst_vars
    exact State.kernel_setKernel s _ K
  · exact State.kernel_setKernel_of_ne s K ‹_›

theorem queuedKernel_queue (s : State) (q id : Nat) (K : Kernel) : (queuedKernel s q id K).queue q = Queue.behind (s.queue q) id :=
  Tbl.getD_set_self _ _ _ _

/-- No failure is passed to a kernel that stands behind none that failed (R79). -/
theorem accept_sound (s : State) {c q n : Nat} {p : Packet} {im : Image}
    (hpred : p.concurrent = true ∨ ∀ k, (s.queue q).last = some k → (s.kernel k).st ≠ .failed)
    (hprod : p.hasProducer = true → (s.kernel p.producer).st ≠ .failed) :
    ∃ K : Kernel, s.accept c q p im 0 n none [] = (queuedKernel s q (nextKernel s c q) K, nextKernel s c q) ∧
      K.pkt = p ∧ K.img = im ∧ K.st = .queued ∧ K.jseq = n := by
  have hnone : ∀ t : State, (match (if p.concurrent then none else (s.queue q).last) with
      | some d => if (s.kernel d).st = .failed then t.passFail (nextKernel s c q) d else t
      | none => t) = t := by
    intro t
    split
    · next d hd =>
      rcases hpred with hc | hl
      · rw [if_pos hc] at hd; cases hd
      · split at hd
        · cases hd
        · exact if_neg (hl d hd)
    · rfl
  have hsome : ∀ t : State, (if p.hasProducer then if (s.kernel p.producer).st = .failed then t.passFail (nextKernel s c q) p.producer else t
      else t) = t := by
    intro t
    split
    · exact if_neg (hprod ‹_›)
    · rfl
  unfold State.accept
  dsimp only
  rw [show c * 2 ^ 56 + q * 2 ^ 48 + ((s.queue q).count + 1) = nextKernel s c q from rfl]
  cases s.disp.installs.find? (fun x => x.queue == q && !x.complete && x.old == p.code)
  · exact ⟨_, Prod.ext ((hsome _).trans (hnone _)) rfl, rfl, rfl, rfl, rfl⟩
  · exact ⟨_, Prod.ext ((hsome _).trans (hnone _)) rfl, rfl, rfl, rfl, rfl⟩

theorem OpenedFor.boundCtx {s o : State} {kind : Nat} (h : OpenedFor s kind o) (q : Nat) : o.boundCtx q = s.boundCtx q := by
  unfold State.boundCtx
  simp only [h.queue, h.ctx]

theorem queueLen_of_disp {s o : State} (hdisp : o.disp = s.disp) (q : Nat) : o.queueLen q = s.queueLen q := by
  unfold State.queueLen State.queue
  rw [hdisp]

theorem queue_of_disp {s o : State} (hdisp : o.disp = s.disp) (q : Nat) : o.queue q = s.queue q := by unfold State.queue; rw [hdisp]
theorem kernel_of_disp {s o : State} (hdisp : o.disp = s.disp) (k : Nat) : o.kernel k = s.kernel k := by unfold State.kernel; rw [hdisp]

/-- HOST_LAUNCH, whose body names its queue (R330). -/
theorem exec_hostLaunch (port : Fin 2) (s : State) : ∃ k, (∀ dg, exec (.hostLaunch port dg) s = .next (s.command port 1 dg k)) ∧
    ∀ {pk : List Byte} {q : Nat}, pk.length = 64 → q < 2 ^ 16 → ∀ (o : State) (n : Nat),
      (o.boundCtx q = none → k (queued q ++ pk) n o = (o, refuse 2 q 0xFF)) ∧
      ∀ c, o.boundCtx q = some c → ∃ t, Touched o t ∧
        (o.readLaunch c pk = none → k (queued q ++ pk) n o = (t, refuse 3 q c)) ∧
        ∀ p im, o.readLaunch c pk = some (p, im) →
          (1024 ≤ o.queueLen q → k (queued q ++ pk) n o = (t, refuse 4 q c)) ∧
          (o.queueLen q < 1024 → k (queued q ++ pk) n o =
            let r := t.accept c q p im 0 n none []
            (r.1, { queue := q, ctx := c, kernel := r.2, value := r.2 })) := by
  refine ⟨_, fun _ => rfl, fun {pk q} hpk hq o n => ?_⟩
  have hlay := layout_queued (q := q) pk (n := 72) (by omega)
  have hdrop : (queued q ++ pk).drop 8 = pk := List.drop_left' (queued_length q)
  simp only [hlay, fieldAt_queued_queue pk hq, hdrop, List.take_of_length_le hpk.le]
  refine ⟨fun h => by rw [h]; rfl, fun c hc => ?_⟩
  have htouch := touchImage_touched o c (fieldAt (queued q ++ pk) 8 8)
  have hread := htouch.readsAlike.readLaunch c pk
  refine ⟨_, htouch, fun h => ?_, fun p im h => ⟨fun hfull => ?_, fun hroom => ?_⟩⟩
  all_goals simp only [hc, hread, h, queueLen_of_disp htouch.disp]
  · rfl
  · rw [if_pos hfull]; rfl
  · rw [if_neg (Nat.not_le.2 hroom)]; rfl

/-- R80, R330: what a launch of a host does. -/
theorem hostLaunch_commanded {s : State} (port : Fin 2) {q c : Nat} {pk : List Byte} {p : Packet} {im : Image} (hready : s.boot = .ready)
    (hpk : pk.length = 64) (hq : q < 2 ^ 16) :
    let launch := Commanded s port (.hostLaunch port) 1 (queued q ++ pk)
    (s.boundCtx q = none → launch 2 0 (entryIs 4 q 0xFF) (HostOnly s)) ∧
    (s.boundCtx q = some c → s.readLaunch c pk = none → launch 3 0 (entryIs 4 q c) (OnlyReads s)) ∧
    (s.boundCtx q = some c → s.readLaunch c pk = some (p, im) → 1024 ≤ s.queueLen q → launch 4 0 (entryIs 4 q c) (OnlyReads s)) ∧
    (s.boundCtx q = some c → s.readLaunch c pk = some (p, im) → s.queueLen q < 1024 →
      (p.concurrent = true ∨ ∀ k, (s.queue q).last = some k → (s.kernel k).st ≠ .failed) →
      (p.hasProducer = true → (s.kernel p.producer).st ≠ .failed) →
      launch 0 (nextKernel s c q) (fun e => entryIs 0 q c e ∧ e.kernel = nextKernel s c q) fun t =>
        (t.kernel (nextKernel s c q)).pkt = p ∧ (t.kernel (nextKernel s c q)).img = im ∧ (t.kernel (nextKernel s c q)).st = .queued ∧
        (t.kernel (nextKernel s c q)).jseq = s.host.seq ∧ t.queue q = Queue.behind (s.queue q) (nextKernel s c q)) := by
  obtain ⟨k, hexec, hk⟩ := exec_hostLaunch port s
  refine ⟨fun hb => ?_, fun hb hread => ?_, fun hb hread hfull => ?_, fun hb hread hroom hpred hprod => ?_⟩
  · exact refused_of hready rfl (by omega) hexec fun o ho => (hk hpk hq o _).1 ((ho.boundCtx q).trans hb)
  · refine refused_reading hready rfl (by omega) hexec fun o ho => ?_
    obtain ⟨t, ht, hnone, -⟩ := (hk hpk hq o s.host.seq).2 c ((ho.boundCtx q).trans hb)
    exact ⟨t, ht, hnone ((ho.readsAlike.readLaunch c pk).trans hread)⟩
  · refine refused_reading hready rfl (by omega) hexec fun o ho => ?_
    obtain ⟨t, ht, -, hsome⟩ := (hk hpk hq o s.host.seq).2 c ((ho.boundCtx q).trans hb)
    exact ⟨t, ht, (hsome p im ((ho.readsAlike.readLaunch c pk).trans hread)).1 (by rwa [queueLen_of_disp ho.disp])⟩
  · refine executed_of (st := 0) hready rfl (by omega) hexec fun o ho => ?_
    obtain ⟨t, ht, -, hsome⟩ := (hk hpk hq o s.host.seq).2 c ((ho.boundCtx q).trans hb)
    have hdisp : t.disp = s.disp := ht.disp.trans ho.disp
    have hid : nextKernel t c q = nextKernel s c q := by rw [nextKernel, queue_of_disp hdisp]; rfl
    obtain ⟨K, hacc, hpkt, himg, hst, hj⟩ := accept_sound t (c := c) (q := q) (n := s.host.seq) (p := p) (im := im)
      (by simpa only [queue_of_disp hdisp, kernel_of_disp hdisp] using hpred) (by simpa only [kernel_of_disp hdisp] using hprod)
    have hrun := (hsome p im ((ho.readsAlike.readLaunch c pk).trans hread)).2 (by rwa [queueLen_of_disp ho.disp])
    rw [hacc, hid] at hrun
    have hkernel : (queuedKernel t q (nextKernel s c q) K).kernel (nextKernel s c q) = K := by rw [queuedKernel_kernel, if_pos rfl]
    have hqueue := queuedKernel_queue t q (nextKernel s c q) K
    rw [queue_of_disp hdisp] at hqueue
    exact ⟨_, _, hrun, .of_host ho ht.host, rfl, rfl, fun e hst hq hc hker => ⟨⟨hst, hq, hc⟩, hker⟩, fun _ _ =>
      ⟨(congrArg Kernel.pkt hkernel).trans hpkt, (congrArg Kernel.img hkernel).trans himg, (congrArg Kernel.st hkernel).trans hst,
        (congrArg Kernel.jseq hkernel).trans hj, hqueue⟩⟩

end Sys2Proof.Hosts
end

section
/-! Pod launches and queue priorities (R68, R91-R93, R330). -/

namespace Sys2Proof.Hosts
open Sys2Proof Sys2Proof.Machine

/-! ## Pod launches (R91) -/

/-- A pod launch that this module may originate: it is a member, the packet is well formed and asks for no pod launch itself. -/
def PodFits (s : State) (mask : Nat) (pk : List Byte) : Prop :=
  mask.testBit s.mod = true ∧ bit (fieldAt pk 14 1) 2 = false ∧ parsePacket pk ≠ none

/-- The origin of a pod launch (R93). -/
def newOrigin (s : State) (q c mask n : Nat) (pk : List Byte) : PodOrigin :=
  { queue := q, gen := s.flash.nextGen q, members := mask, since := s.now, jseq := n, packet := pk, tenant := (s.ctx c).tenant }

/-- The state in which an origin stands, before its beacon leaves. -/
def withOrigin (s : State) (q c mask n : Nat) (pk : List Byte) : State := { s with
  disp := { s.disp with origins := s.disp.origins ++ [newOrigin s q c mask n pk] }
  flash := { s.flash with genSent := Tbl.set s.flash.genSent q (s.flash.nextGen q) } }

/-- Only links and free values differ. -/
def LinksOnly (s t : State) : Prop := { t with pod := s.pod, freeNo := s.freeNo } = s

theorem putFlits_linksOnly (s : State) (n : Nat) : LinksOnly s (s.putFlits n) := by
  unfold State.putFlits
  split <;> rfl

theorem LinksOnly.trans {s t u : State} (h : LinksOnly s t) (k : LinksOnly t u) : LinksOnly s u := by
  have := congrArg (fun x : State => { x with pod := s.pod, freeNo := s.freeNo }) k
  exact this.trans h

/-- A message leaves; besides, links are taken (R91). -/
theorem sendPod_linksOnly (s : State) (m : PodMsg) :
    LinksOnly { s with host := { s.host with out := .pod m.toBytes :: s.host.out } } (s.sendPod m) :=
  List.foldlRecOn (motive := LinksOnly _) _ _ rfl fun _ ht _ _ => ht.trans (putFlits_linksOnly _ _)

/-- HOST_POD_LAUNCH, whose body names its queue and its members (R330). -/
theorem exec_hostPodLaunch (port : Fin 2) (s : State) : ∃ k, (∀ dg, exec (.hostPodLaunch port dg) s = .next (s.command port 2 dg k)) ∧
    ∀ {pk : List Byte} {q mask : Nat}, pk.length = 64 → mask < 2 ^ 64 → q < 2 ^ 16 → ∀ (o : State) (n : Nat),
      (¬ PodFits o mask pk → k (queued q ++ natLE 8 mask ++ pk) n o = (o, refuse 3 q 0xFF)) ∧
      (PodFits o mask pk → o.boundCtx q = none → k (queued q ++ natLE 8 mask ++ pk) n o = (o, refuse 2 q 0xFF)) ∧
      ∀ c, PodFits o mask pk → o.boundCtx q = some c →
        (1024 ≤ o.queueLen q → k (queued q ++ natLE 8 mask ++ pk) n o = (o, refuse 4 q c)) ∧
        (o.queueLen q < 1024 → k (queued q ++ natLE 8 mask ++ pk) n o =
          ((withOrigin o q c mask n pk).sendPod (o.originMsg (newOrigin o q c mask n pk) 1 0), { queue := q, ctx := c })) := by
  refine ⟨_, fun _ => rfl, fun {pk q mask} hpk hmask hq o n => ?_⟩
  have hlay := layout_queued (q := q) (natLE 8 mask ++ pk) (n := 80) (by simp [hpk])
  have hfield : fieldAt (queued q ++ (natLE 8 mask ++ pk)) 8 8 = mask := by
    rw [fieldAt_queued _ 0 8]
    exact fieldAt_natLE _ hmask
  have hdrop : (queued q ++ (natLE 8 mask ++ pk)).drop 16 = pk := by
    rw [← List.append_assoc]
    exact List.drop_left' (by simp)
  have hbody : refuseBody 3 2 (queued q ++ (natLE 8 mask ++ pk)) = refuse 3 q 0xFF := by
    rw [refuseBody, namedQueue_queued _ hq (by omega), namedCtx, if_neg (by omega)]
  simp only [List.append_assoc, hlay, fieldAt_queued_queue _ hq, hfield, hdrop, List.take_of_length_le hpk.le, hbody]
  have hguard : (((!true) = true ∨ (!mask.testBit o.mod) = true ∨ bit (fieldAt pk 14 1) 2 = true ∨ (parsePacket pk).isNone = true) ↔
      ¬ PodFits o mask pk) := by
    simp only [PodFits, Option.isNone_iff_eq_none]
    cases mask.testBit o.mod <;> cases bit (fieldAt pk 14 1) 2 <;> simp
  refine ⟨fun h => if_pos (hguard.2 h), fun h hc => ?_, fun c h hc => ⟨fun hfull => ?_, fun hroom => ?_⟩⟩
  all_goals rw [if_neg (fun hg => hguard.1 hg h), hc]
  · exact if_pos hfull
  · exact if_neg (Nat.not_le.2 hroom)

/-- R91-R93, R330: what a pod launch of a host does. -/
theorem hostPodLaunch_refused {s : State} (port : Fin 2) {q c mask : Nat} {pk : List Byte} (hready : s.boot = .ready)
    (hpk : pk.length = 64) (hmask : mask < 2 ^ 64) (hq : q < 2 ^ 16) :
    let launch := Commanded s port (.hostPodLaunch port) 2 (queued q ++ natLE 8 mask ++ pk)
    (¬ PodFits s mask pk → launch 3 0 (entryIs 4 q 0xFF) (HostOnly s)) ∧
    (PodFits s mask pk → s.boundCtx q = none → launch 2 0 (entryIs 4 q 0xFF) (HostOnly s)) ∧
    (PodFits s mask pk → s.boundCtx q = some c → 1024 ≤ s.queueLen q → launch 4 0 (entryIs 4 q c) (HostOnly s)) := by
  obtain ⟨k, hexec, hk⟩ := exec_hostPodLaunch port s
  have hfits : ∀ {o}, OpenedFor s 2 o → (PodFits o mask pk ↔ PodFits s mask pk) := fun ho => by rw [PodFits, ho.mod]; rfl
  refine ⟨fun hf => ?_, fun hf hb => ?_, fun hf hb hfull => ?_⟩ <;> refine refused_of hready rfl (by omega) hexec fun o ho => ?_
  · exact (hk hpk hmask hq o _).1 ((hfits ho).not.2 hf)
  · exact (hk hpk hmask hq o _).2.1 ((hfits ho).2 hf) ((ho.boundCtx q).trans hb)
  · exact ((hk hpk hmask hq o _).2.2 c ((hfits ho).2 hf) ((ho.boundCtx q).trans hb)).1 (by rwa [queueLen_of_disp ho.disp])

/-- The origin sends its beacon (R91). -/
theorem hostPodLaunch_sends {s : State} (port : Fin 2) {q c mask : Nat} {pk : List Byte} (hready : s.boot = .ready)
    (hpk : pk.length = 64) (hmask : mask < 2 ^ 64) (hq : q < 2 ^ 16) (hf : PodFits s mask pk) (hb : s.boundCtx q = some c)
    (hroom : s.queueLen q < 1024) :
    Commanded s port (.hostPodLaunch port) 2 (queued q ++ natLE 8 mask ++ pk) 0 0 (entryIs 0 q c) fun t =>
      t.disp.origins = s.disp.origins ++ [newOrigin s q c mask s.host.seq pk] ∧ Tbl.get? t.flash.genSent q = some (s.flash.nextGen q) ∧
      t.host.out = .pod (PodMsg.toBytes (s.originMsg (newOrigin s q c mask s.host.seq pk) 1 0)) :: s.host.out := by
  obtain ⟨k, hexec, hk⟩ := exec_hostPodLaunch port s
  refine executed_of (st := 0) hready rfl (by omega) hexec fun o ho => ?_
  have hrun := ((hk hpk hmask hq o s.host.seq).2.2 c (by rwa [PodFits, ho.mod]) ((ho.boundCtx q).trans hb)).2 (by rwa [queueLen_of_disp ho.disp])
  have horigin : newOrigin o q c mask s.host.seq pk = newOrigin s q c mask s.host.seq pk := by
    rw [newOrigin, ho.flash, ho.now, ho.ctx]; rfl
  have hmsg : o.originMsg (newOrigin o q c mask s.host.seq pk) 1 0 = s.originMsg (newOrigin s q c mask s.host.seq pk) 1 0 := by
    rw [horigin, State.originMsg, ho.mod]; rfl
  rw [hmsg] at hrun
  have hsent := sendPod_linksOnly (withOrigin o q c mask s.host.seq pk) (s.originMsg (newOrigin s q c mask s.host.seq pk) 1 0)
  have hhost := congrArg State.host hsent
  have hdisp := congrArg State.disp hsent
  have hflash := congrArg State.flash hsent
  refine ⟨_, _, hrun, .of_out ho hhost, rfl, rfl, fun e hst hq hc _ => ⟨hst, hq, hc⟩, fun _ _ => ⟨?_, ?_, ?_⟩⟩
  · refine (congrArg Dispatcher.origins hdisp).trans ?_
    rw [withOrigin, horigin, ho.disp]
  · have := congrArg Flash.genSent hflash
    rw [this, withOrigin, ho.flash]
    exact Tbl.get?_set_self _ _ _
  · refine (congrArg HostIf.out hhost).trans ?_
    rw [← ho.out]
    rfl

/-! ## Queue priorities (R68) -/

/-- SET_QUEUE_PRIORITY, whose body names queue and priority (R330). -/
theorem exec_setQueuePriority (port : Fin 2) (s : State) : ∃ k, (∀ dg, exec (.setQueuePriority port dg) s = .next (s.command port 8 dg k)) ∧
    ∀ {q prio : Nat}, prio < 256 → q < 2 ^ 16 → ∀ (o : State) (n : Nat),
      (7 < prio → k (natLE 2 q ++ natLE 1 prio) n o = (o, refuse 3 q 0xFF)) ∧
      (prio ≤ 7 → o.boundCtx q = none → k (natLE 2 q ++ natLE 1 prio) n o = (o, refuse 2 q 0xFF)) ∧
      ∀ c, prio ≤ 7 → o.boundCtx q = some c → k (natLE 2 q ++ natLE 1 prio) n o =
        (o.modQueue q fun x => { x with prio := prio }, { st := 2, queue := q, ctx := c }) := by
  refine ⟨_, fun _ => rfl, fun {q prio} hprio hq o n => ?_⟩
  have hlay : layout (natLE 2 q ++ natLE 1 prio) 3 [] = true := layout_of_length (by simp) rfl
  have hqueue : fieldAt (natLE 2 q ++ natLE 1 prio) 0 2 = q := fieldAt_natLE _ hq
  have hfield : fieldAt (natLE 2 q ++ natLE 1 prio) 2 1 = prio := by
    rw [fieldAt_skip (Nat.le_refl 2)]
    exact fieldAt_natLE_alone (by omega)
  have hbody : refuseBody 3 8 (natLE 2 q ++ natLE 1 prio) = refuse 3 q 0xFF := by
    rw [refuseBody, namedQueue, if_pos ⟨by omega, by simp⟩, hqueue, namedCtx, if_neg (by omega)]
  simp only [hlay, hqueue, hfield, hbody]
  refine ⟨fun h => if_pos (.inr h), fun h hc => ?_, fun c h hc => ?_⟩ <;> rw [if_neg (by simp; omega), hc]

theorem setQueuePriority_commanded {s : State} (port : Fin 2) {q c prio : Nat} (hready : s.boot = .ready) (hprio : prio < 256)
    (hq : q < 2 ^ 16) :
    let sets := Commanded s port (.setQueuePriority port) 8 (natLE 2 q ++ natLE 1 prio)
    (7 < prio → sets 3 0 (entryIs 4 q 0xFF) (HostOnly s)) ∧
    (prio ≤ 7 → s.boundCtx q = none → sets 2 0 (entryIs 4 q 0xFF) (HostOnly s)) ∧
    (prio ≤ 7 → s.boundCtx q = some c → sets 0 0 (entryIs 2 q c) fun t => t.queue q = { s.queue q with prio := prio } ∧
      ∀ k, k ≠ q → t.queue k = s.queue k) := by
  obtain ⟨k, hexec, hk⟩ := exec_setQueuePriority port s
  refine ⟨fun h => ?_, fun h hb => ?_, fun h hb => ?_⟩
  · exact refused_of hready rfl (by omega) hexec fun o ho => (hk hprio hq o _).1 h
  · exact refused_of hready rfl (by omega) hexec fun o ho => (hk hprio hq o _).2.1 h ((ho.boundCtx q).trans hb)
  · refine executed_of (st := 0) hready rfl (by omega) hexec fun o ho => ?_
    refine ⟨_, _, (hk hprio hq o _).2.2 c h ((ho.boundCtx q).trans hb), .of_host ho rfl, rfl, rfl,
      fun e hst hq hc _ => ⟨hst, hq, hc⟩, fun _ _ => ⟨?_, fun j hj => ?_⟩⟩
    · rw [← ho.queue]
      exact Tbl.getD_set_self _ _ _ _
    · rw [← ho.queue]
      exact Tbl.getD_set_of_ne _ _ _ hj

end Sys2Proof.Hosts
end

section
/-! Replacement images (R94, R330). -/

namespace Sys2Proof.Hosts
open Sys2Proof Sys2Proof.Machine

/-- The body of INSTALL_REPLACEMENT_IMAGE (R330). -/
def installBody (q old new : Nat) : List Byte := queued q ++ natLE 8 old ++ natLE 8 new

/-- Two images that may replace each other (R94). -/
def Replaces (im a : Image) : Prop := im.regs = a.regs ∧ im.waves = a.waves ∧ im.det = a.det ∧ im.scratch ≤ a.scratch

theorem not_replaces_iff {im a : Image} :
    (a.regs ≠ im.regs ∨ a.waves ≠ im.waves ∨ a.det ≠ im.det ∨ a.scratch < im.scratch) ↔ ¬ Replaces im a := by
  rw [Replaces, not_and_or, not_and_or, not_and_or, Nat.not_le, eq_comm (a := im.regs), eq_comm (a := im.waves), eq_comm (a := im.det)]

/-- A new install of an image on a queue (R94). -/
def newInstall (s : State) (q c old n : Nat) (im : Image) : Install := { id := s.nextId, queue := q, ctx := c, old := old, img := im, jseq := n }

/-- A kernel that an install applies to takes it on. -/
def underInstall (q old id : Nat) (im : Image) (k : Kernel) : Kernel :=
  if k.queue = q ∧ k.pkt.code = old ∧ !k.st.isFinal then { k with install := some id, newImg := some im } else k

/-- The state in which an install stands. -/
def withInstall (s : State) (q c old n : Nat) (im : Image) : State := { s.fresh with disp := { s.disp with
  installs := s.disp.installs ++ [newInstall s q c old n im]
  kernels := Tbl.mapVals s.disp.kernels (underInstall q old s.nextId im) } }

theorem underInstall_of_applies {q old id : Nat} {im : Image} {K : Kernel} (hq : K.queue = q) (hc : K.pkt.code = old)
    (hst : K.st.isFinal = false) : underInstall q old id im K = { K with install := some id, newImg := some im } :=
  if_pos ⟨hq, hc, by rw [hst]; rfl⟩

theorem isFinal_of_unplaced {K : Kernel} (h : K.unplaced = true) : K.st.isFinal = false := by
  cases hst : K.st <;> simp_all [Kernel.unplaced, KSt.isFinal]

/-- An install is not complete while a kernel that it applies to has a group unplaced (R94). -/
theorem withInstall_notDone {s : State} {q c old n k : Nat} {im : Image} {K : Kernel} (hK : Tbl.get? s.disp.kernels k = some K)
    (hq : K.queue = q) (hc : K.pkt.code = old) (hun : K.unplaced = true) :
    (withInstall s q c old n im).installDone (newInstall s q c old n im) = false := by
  have hget : Tbl.get? (withInstall s q c old n im).disp.kernels k = some { K with install := some s.nextId, newImg := some im } := by
    rw [withInstall, Tbl.get?_mapVals, hK, Option.map_some, underInstall_of_applies hq hc (isFinal_of_unplaced hun)]
  rw [State.installDone, List.all_eq_false]
  refine ⟨_, Contexts.mem_of_get? hget, ?_⟩
  have hun' : Kernel.unplaced { K with install := some s.nextId, newImg := some im } = true := hun
  simp [newInstall, hun']

theorem withInstall_settled {s : State} {q c old n k : Nat} {im : Image} {K : Kernel} (hall : ∀ y, y ∈ s.disp.installs → y.complete = true)
    (hK : Tbl.get? s.disp.kernels k = some K) (hq : K.queue = q) (hc : K.pkt.code = old) (hun : K.unplaced = true) :
    (withInstall s q c old n im).settleInstalls = withInstall s q c old n im := by
  refine Contexts.settleInstalls_of_complete _ fun x hx => ?_
  rcases List.mem_append.1 hx with hx | hx
  · exact .inl (hall x hx)
  · rw [List.mem_singleton.1 hx]
    exact .inr (withInstall_notDone hK hq hc hun)

/-- INSTALL_REPLACEMENT_IMAGE, whose body names its queue and both images (R94, R330). -/
theorem exec_installReplacementImage (port : Fin 2) (s : State) : ∃ k,
    (∀ dg, exec (.installReplacementImage port dg) s = .next (s.command port 3 dg k)) ∧
    ∀ {q old new : Nat}, old < 2 ^ 64 → new < 2 ^ 64 → q < 2 ^ 16 → ∀ (o : State) (n : Nat),
      (o.boundCtx q = none → k (installBody q old new) n o = (o, refuse 2 q 0xFF)) ∧
      ∀ c, o.boundCtx q = some c → ∃ t, Touched o t ∧
        (o.readImage c old = none ∨ o.readImage c new = none → k (installBody q old new) n o = (t, refuse 3 q c)) ∧
        ∀ a im, o.readImage c old = some a → o.readImage c new = some im →
          ((o.disp.installs.any fun x => x.queue == q && !x.complete) = true → k (installBody q old new) n o = (t, refuse 6 q c)) ∧
          ((o.disp.installs.any fun x => x.queue == q && !x.complete) = false →
            (¬ Replaces im a → k (installBody q old new) n o = (t, refuse 3 q c)) ∧
            (Replaces im a → k (installBody q old new) n o = ((withInstall t q c old n im).settleInstalls, { queue := q, ctx := c }))) := by
  refine ⟨_, fun _ => rfl, fun {q old new} hold hnew hq o n => ?_⟩
  have hbody : installBody q old new = queued q ++ (natLE 8 old ++ natLE 8 new) := List.append_assoc _ _ _
  have hlay := layout_queued (q := q) (natLE 8 old ++ natLE 8 new) (n := 24) (by simp)
  have hfold : fieldAt (queued q ++ (natLE 8 old ++ natLE 8 new)) 8 8 = old := by
    rw [fieldAt_queued _ 0 8]
    exact fieldAt_natLE _ hold
  have hfnew : fieldAt (queued q ++ (natLE 8 old ++ natLE 8 new)) 16 8 = new := by
    rw [fieldAt_queued _ 8 8, fieldAt_skip (Nat.le_refl 8)]
    exact fieldAt_natLE_alone hnew
  simp only [hbody, hlay, fieldAt_queued_queue _ hq, hfold, hfnew]
  refine ⟨fun h => by rw [h]; rfl, fun c hc => ?_⟩
  have htouch := (touchImage_touched o c old).trans (touchImage_touched _ c new)
  have halike := htouch.readsAlike
  simp only [hc, halike.readImage, htouch.disp]
  refine ⟨_, htouch, fun h => ?_, fun a im ha him => ⟨fun hany => ?_, fun hany => ⟨fun hr => ?_, fun hr => ?_⟩⟩⟩
  · rcases h with h | h
    · rw [h]; rfl
    · rw [h]; cases o.readImage c old <;> rfl
  all_goals
    simp only [ha, him, hany]
  · rfl
  · exact if_pos (not_replaces_iff.2 hr)
  · refine (if_neg (fun hg => not_replaces_iff.1 hg hr)).trans ?_
    rw [withInstall, htouch.disp]
    rfl

/-- R94, R330: what an install of a replacement image does. -/
theorem install_refused {s : State} (port : Fin 2) {q c old new : Nat} (hready : s.boot = .ready) (hold : old < 2 ^ 64) (hnew : new < 2 ^ 64)
    (hq : q < 2 ^ 16) :
    let install := Commanded s port (.installReplacementImage port) 3 (installBody q old new)
    (s.boundCtx q = none → install 2 0 (entryIs 4 q 0xFF) (HostOnly s)) ∧
    (s.boundCtx q = some c → (s.readImage c old = none ∨ s.readImage c new = none) → install 3 0 (entryIs 4 q c) (OnlyReads s)) ∧
    ∀ a im, s.boundCtx q = some c → s.readImage c old = some a → s.readImage c new = some im →
      ((∃ y, y ∈ s.disp.installs ∧ y.queue = q ∧ y.complete = false) → install 6 0 (entryIs 4 q c) (OnlyReads s)) ∧
      ((∀ y, y ∈ s.disp.installs → y.complete = true) → ¬ Replaces im a → install 3 0 (entryIs 4 q c) (OnlyReads s)) := by
  obtain ⟨k, hexec, hk⟩ := exec_installReplacementImage port s
  refine ⟨fun hb => ?_, fun hb hnone => ?_, fun a im hb ha him => ⟨fun hbusy => ?_, fun hall hr => ?_⟩⟩
  · exact refused_of hready rfl (by omega) hexec fun o ho => (hk hold hnew hq o _).1 ((ho.boundCtx q).trans hb)
  all_goals
    refine refused_reading hready rfl (by omega) hexec fun o ho => ?_
    obtain ⟨t, ht, hmissing, hboth⟩ := (hk hold hnew hq o s.host.seq).2 c ((ho.boundCtx q).trans hb)
    refine ⟨t, ht, ?_⟩
    rw [ho.readsAlike.readImage, ho.readsAlike.readImage] at hmissing
  · exact hmissing hnone
  all_goals
    obtain ⟨hsome, hfree⟩ := hboth a im ((ho.readsAlike.readImage c old).trans ha) ((ho.readsAlike.readImage c new).trans him)
    rw [ho.disp] at hsome hfree
  · obtain ⟨y, hy, hyq, hyc⟩ := hbusy
    exact hsome (List.any_eq_true.2 ⟨y, hy, by simp [hyq, hyc]⟩)
  · refine (hfree (List.any_eq_false.2 fun y hy => ?_)).1 hr
    simp [hall y hy]

/-- An install that begins (R94). -/
theorem install_begins {s : State} (port : Fin 2) {q c old new k₀ : Nat} {a im : Image} {K₀ : Kernel} (hready : s.boot = .ready)
    (hold : old < 2 ^ 64) (hnew : new < 2 ^ 64) (hq : q < 2 ^ 16) (hb : s.boundCtx q = some c) (ha : s.readImage c old = some a)
    (him : s.readImage c new = some im) (hall : ∀ y, y ∈ s.disp.installs → y.complete = true) (hr : Replaces im a)
    (hK : Tbl.get? s.disp.kernels k₀ = some K₀) (hKq : K₀.queue = q) (hKc : K₀.pkt.code = old) (hun : K₀.unplaced = true) :
    Commanded s port (.installReplacementImage port) 3 (installBody q old new) 0 0 (entryIs 0 q c) fun t =>
      t.disp.installs = s.disp.installs ++ [newInstall s q c old s.host.seq im] ∧
      ∀ k K, Tbl.get? s.disp.kernels k = some K → K.queue = q → K.pkt.code = old → K.st.isFinal = false →
        t.kernel k = { K with install := some s.nextId, newImg := some im } := by
  obtain ⟨k, hexec, hk⟩ := exec_installReplacementImage port s
  refine executed_of (st := 0) hready rfl (by omega) hexec fun o ho => ?_
  obtain ⟨t, ht, -, hboth⟩ := (hk hold hnew hq o s.host.seq).2 c ((ho.boundCtx q).trans hb)
  have hdisp : t.disp = s.disp := ht.disp.trans ho.disp
  have hid : t.nextId = s.nextId := by rw [ht.rest]; exact ho.nextId
  have hrun := ((hboth a im ((ho.readsAlike.readImage c old).trans ha) ((ho.readsAlike.readImage c new).trans him)).2
    (List.any_eq_false.2 fun y hy => by rw [ho.disp] at hy; simp [hall y hy])).2 hr
  rw [withInstall_settled (by rwa [hdisp]) (by rwa [hdisp]) hKq hKc hun] at hrun
  refine ⟨_, _, hrun, .of_host ho ht.host, rfl, rfl, fun e hst hq hc _ => ⟨hst, hq, hc⟩, fun _ _ => ⟨?_, fun j K hj hjq hjc hjst => ?_⟩⟩
  · show t.disp.installs ++ [newInstall t q c old s.host.seq im] = _
    rw [hdisp, newInstall, hid]
    rfl
  · show Tbl.getD (Tbl.mapVals t.disp.kernels (underInstall q old t.nextId im)) j {} = _
    rw [Contexts.getD_of_get? (by rw [Tbl.get?_mapVals, hdisp, hj]; rfl), underInstall_of_applies hjq hjc hjst, hid]

end Sys2Proof.Hosts
end

section
/-! Contexts that are created, suspended and resumed (R61, R62, R67, R330). -/

namespace Sys2Proof.Hosts
open Sys2Proof Sys2Proof.Machine Sys2Proof.Contexts

/-! ## Entries -/

theorem entry_eq_some_iff {t : State} {n : Nat} {e : JEntry} :
    t.entry n = some e ↔ Tbl.get? t.host.ring ((n - 1) % 32768) = some e ∧ e.seq = n := by
  unfold State.entry
  cases Tbl.get? t.host.ring ((n - 1) % 32768) with
  | none => simp
  | some x =>
    dsimp only
    split
    · next hs => exact ⟨fun h => ⟨h, (Option.some.inj h) ▸ hs⟩, fun h => h.1⟩
    · next hs => exact ⟨fun h => (Option.some_ne_none _ h.symm).elim, fun ⟨h, hn⟩ => absurd ((Option.some.inj h).symm ▸ hn) hs⟩

/-- What keeps the host's part keeps a command's entry, unless an install or a suspension waited for it. -/
theorem Executed.of_keeps {s o u t : State} {kind : Nat} (ho : OpenedFor s kind o) (hu : u.host = o.host) (h : Keeps u t) :
    ∃ st, (st = 0 ∨ st = 2 ∧ Awaits u s.host.seq) ∧ Executed s kind st o t := by
  obtain ⟨hget, hseq⟩ := entry_eq_some_iff.1 ho.entry
  have hhost : { t.host with ring := o.host.ring, out := o.host.out } = o.host := by
    have := congrArg (fun x : HostIf => { x with out := o.host.out }) h.host
    rw [hu] at this
    exact this
  obtain ⟨e, he, hcase⟩ := h.ring _ _ (by rw [hu]; exact hget)
  rcases hcase with rfl | ⟨hw, rfl⟩
  · exact ⟨0, .inl rfl, hhost, _, entry_eq_some_iff.2 ⟨he, hseq⟩, rfl, rfl, rfl, rfl⟩
  · exact ⟨2, .inr ⟨rfl, hw⟩, hhost, _, entry_eq_some_iff.2 ⟨he, hseq⟩, rfl, rfl, rfl, rfl⟩

/-- A command's entry, complete. -/
def completeEntry (s : State) (kind : Nat) : JEntry :=
  { seq := s.host.seq, lo := s.time.lo, queue := 0xFFFF, ctx := 0xFF, kind := kind, st := 2 }

/-- A command completes its own entry (R80). -/
theorem Executed.of_jset {s o t : State} {kind : Nat} (ho : OpenedFor s kind o) (ht : t.host = o.host) (hn : 0 < s.host.seq) :
    Executed s kind 2 o (t.jset s.host.seq 2 0) := by
  obtain ⟨hget, hseq⟩ := entry_eq_some_iff.1 ho.entry
  rw [← ht] at hget
  have h : t.jset s.host.seq 2 0 =
      { t with host := { t.host with ring := Tbl.set t.host.ring ((s.host.seq - 1) % 32768) (completeEntry s kind) } } := by
    rw [State.jset, hget]
    exact if_pos ⟨rfl, by omega, Nat.zero_lt_two⟩
  rw [h]
  exact ⟨by rw [ht], _, entry_eq_some_iff.2 ⟨Tbl.get?_set_self _ _ _, rfl⟩, rfl, rfl, rfl, rfl⟩

/-! Contexts, groups and kernels do not depend on the host's part. -/

theorem ctx_withHost (t : State) (h : HostIf) (c : Nat) : ({ t with host := h } : State).ctx c = t.ctx c := rfl
theorem group_withHost (t : State) (h : HostIf) (g : Nat) : ({ t with host := h } : State).group g = t.group g := rfl
theorem kernel_withHost (t : State) (h : HostIf) (k : Nat) : ({ t with host := h } : State).kernel k = t.kernel k := rfl

/-! ## Creation -/

theorem ctxFree_iff {s : State} {c : Nat} : s.ctxFree c = true ↔ (s.ctx c).st = .free := by
  rw [State.ctxFree, CtxSt.isFree, beq_iff_eq]

theorem OpenedFor.parseCtx {s o : State} {kind : Nat} (h : OpenedFor s kind o) (b : List Byte) : o.parseCtx b = s.parseCtx b := by
  unfold State.parseCtx
  simp only [h.queue]

/-- The queues that a new context names are bound to it (R61). -/
def bindQueues (s : State) (c : Nat) (x : Context) : State :=
  (List.range 256).foldl (fun t q => if x.queues.testBit q then t.setQueue q { ctx := some c } else t) (s.setCtx c x)

theorem bindQueues_rest (s : State) (c : Nat) (x : Context) :
    { bindQueues s c x with disp := s.disp } = s.setCtx c x := by
  refine List.foldlRecOn (motive := fun t : State => { t with disp := s.disp } = s.setCtx c x) _ _ rfl fun t ht q _ => ?_
  split
  · exact ht
  · exact ht

theorem bindQueues_host (s : State) (c : Nat) (x : Context) : (bindQueues s c x).host = s.host := by
  have h := congrArg State.host (bindQueues_rest s c x)
  exact h

theorem bindQueues_ctx (s : State) (c : Nat) (x : Context) : (bindQueues s c x).ctx c = x := by
  have h := congrArg State.ctxs (bindQueues_rest s c x)
  rw [State.ctx, show (bindQueues s c x).ctxs = (s.setCtx c x).ctxs from h]
  exact State.ctx_setCtx s c x

theorem newContext_full {s : State} (h : ∀ k, k < 64 → (s.ctx k).st ≠ .free) (b : List Byte) : s.newContext b = (s, -1) := by
  have hfind : (List.range 64).find? (fun c => s.ctxFree c) = none := by
    rw [List.find?_eq_none]
    intro k hk hfree
    exact h k (List.mem_range.1 hk) (ctxFree_iff.1 hfree)
  rw [State.newContext, hfind]

theorem newContext_lowest {s : State} {c : Nat} (hc : c < 64) (hfree : (s.ctx c).st = .free) (hlow : ∀ k, k < c → (s.ctx k).st ≠ .free)
    (b : List Byte) : (s.parseCtx b = none → s.newContext b = (s, -2)) ∧
      ∀ x, s.parseCtx b = some x → s.newContext b = (bindQueues s c x, (c : Int)) := by
  have hfind : (List.range 64).find? (fun c => s.ctxFree c) = some c := by
    rw [List.find?_range_eq_some]
    refine ⟨ctxFree_iff.2 hfree, List.mem_range.2 hc, fun k hk => ?_⟩
    rw [Bool.not_eq_true', Bool.eq_false_iff]
    exact fun h => hlow k hk (ctxFree_iff.1 h)
  rw [State.newContext, hfind]
  exact ⟨fun h => by rw [h], fun x h => by rw [h]; rfl⟩

/-- CONTEXT_CREATE (R61, R330). -/
theorem exec_contextCreate (port : Fin 2) (s : State) : ∃ k, (∀ dg, exec (.contextCreate port dg) s = .next (s.command port 4 dg k)) ∧
    ∀ {body : List Byte}, body.length = 64 → ∀ (o : State) (n : Nat),
      ((o.newContext body).2 = -1 → k body n o = (o, refuse 5 0xFFFF 0xFF)) ∧
      ((o.newContext body).2 = -2 → k body n o = (o, refuse 3 0xFFFF 0xFF)) ∧
      ∀ (c : Nat) (t : State), o.newContext body = (t, (c : Int)) → k body n o = (t, { st := 2, ctx := c, value := c }) := by
  refine ⟨_, fun _ => rfl, fun {body} hbody o n => ?_⟩
  have hlay : layout body 64 [] = true := layout_of_length hbody rfl
  simp only [hlay, List.take_of_length_le hbody.le]
  refine ⟨fun h => ?_, fun h => ?_, fun c t h => ?_⟩ <;> rw [h]
  · rfl
  · rfl
  · rw [if_neg (by simp), if_neg (by omega), if_neg (by omega), Int.toNat_natCast]

theorem contextCreate_commanded {s : State} (port : Fin 2) {body : List Byte} (hready : s.boot = .ready) (hbody : body.length = 64) :
    let create := Commanded s port (.contextCreate port) 4 body
    ((∀ k, k < 64 → (s.ctx k).st ≠ .free) → create 5 0 (entryIs 4 0xFFFF 0xFF) (HostOnly s)) ∧
    ∀ c, c < 64 → (s.ctx c).st = .free → (∀ k, k < c → (s.ctx k).st ≠ .free) →
      (s.parseCtx body = none → create 3 0 (entryIs 4 0xFFFF 0xFF) (HostOnly s)) ∧
      ∀ x, s.parseCtx body = some x → create 0 c (entryIs 2 0xFFFF c) fun t => t.ctx c = x := by
  obtain ⟨k, hexec, hk⟩ := exec_contextCreate port s
  refine ⟨fun hfull => ?_, fun c hc hfree hlow => ⟨fun hbad => ?_, fun x hx => ?_⟩⟩
  · refine refused_of hready rfl (by omega) hexec fun o ho => (hk hbody o _).1 ?_
    rw [newContext_full fun j hj => by rw [ho.ctx]; exact hfull j hj]
  all_goals
    have hnew := fun o (ho : OpenedFor s 4 o) => newContext_lowest (s := o) hc (by rw [ho.ctx]; exact hfree)
      (fun j hj => by rw [ho.ctx]; exact hlow j hj) body
  · refine refused_of hready rfl (by omega) hexec fun o ho => (hk hbody o _).2.1 ?_
    rw [(hnew o ho).1 (by rw [ho.parseCtx]; exact hbad)]
  · refine executed_of (st := 0) hready rfl (by omega) hexec fun o ho => ?_
    have hrun := (hk hbody o s.host.seq).2.2 c _ ((hnew o ho).2 x (by rw [ho.parseCtx]; exact hx))
    have hdone : Executed s 4 0 o (bindQueues o c x) := .of_host ho (bindQueues_host o c x)
    refine ⟨bindQueues o c x, { st := 2, ctx := c, value := c }, hrun, hdone, rfl, rfl, fun e hst hq hc _ => ⟨hst, hq, hc⟩,
      fun _ _ => ?_⟩
    rw [ctx_withHost]
    exact bindQueues_ctx o c x

/-! ## Commands on a context -/

/-- A command whose body names a context goes on where that is not free (R330). -/
theorem onCtx_named {c : Nat} (hc : c < 64) (o : State) (k : Nat → State → State × Answer) :
    o.onCtx (natLE 1 c) k = if o.ctxFree c then (o, refuse 3 0xFFFF c) else k c o := by
  have hlay : layout (natLE 1 c) 1 [] = true := layout_of_length (natLE_length 1 c) rfl
  have hfield : fieldAt (natLE 1 c) 0 1 = c := fieldAt_natLE_alone (by omega)
  rw [State.onCtx]
  simp only [hlay, hfield]
  exact if_neg (by simp; omega)

/-- The commands on contexts, where their context is not free (R62, R330). -/
theorem exec_onContext (port : Fin 2) (s : State) {y : Nat × (List Byte → Instr)}
    (hy : y ∈ [(5, Instr.contextSuspend port), (6, .contextResume port), (7, .contextEnd port)]) : isCommand y.1 = true ∧ y.1 < 256 ∧
    ∃ k, (∀ dg, exec (y.2 dg) s = .next (s.command port y.1 dg k)) ∧
      ∀ {c : Nat}, c < 64 → ∀ (o : State) (n : Nat), o.ctxFree c = true → k (natLE 1 c) n o = (o, refuse 3 0xFFFF c) := by
  simp only [List.mem_cons, List.not_mem_nil, or_false] at hy
  obtain rfl | rfl | rfl := hy
  all_goals refine ⟨rfl, by norm_num, _, fun _ => rfl, fun {c} hc o n h => ?_⟩
  all_goals exact (onCtx_named hc o _).trans (if_pos h)

theorem onContext_free {s : State} (port : Fin 2) {c : Nat} (hready : s.boot = .ready) (hc : c < 64) (hfree : (s.ctx c).st = .free)
    {y : Nat × (List Byte → Instr)} (hy : y ∈ [(5, Instr.contextSuspend port), (6, .contextResume port), (7, .contextEnd port)]) :
    Commanded s port y.2 y.1 (natLE 1 c) 3 0 (entryIs 4 0xFFFF c) (HostOnly s) := by
  obtain ⟨hcmd, hkind, k, hexec, hk⟩ := exec_onContext port s hy
  exact refused_of hready hcmd hkind hexec fun o ho => hk hc o _ (ctxFree_iff.2 (by rw [ho.ctx]; exact hfree))

/-! ## Suspension and resumption (R61, R67) -/

/-- A notice leaves a context's state, and what it waits for (R60). -/
theorem postNotice_ctx (s : State) (c kind unit detail d : Nat) :
    ((s.postNotice c kind unit detail).ctx d).st = (s.ctx d).st ∧ ((s.postNotice c kind unit detail).ctx d).jsusp = (s.ctx d).jsusp := by
  obtain ⟨u, x, hu, heq, hx⟩ := postNotice_cases s c kind unit detail
  rw [heq]
  by_cases hd : d = c
  · rw [hd, State.ctx_setCtx]
    have hst := congrArg Context.st hx
    have hj := congrArg Context.jsusp hx
    exact ⟨hst, hj⟩
  · rw [State.ctx_setCtx_of_ne _ _ hd, hu.ctx]
    exact ⟨rfl, rfl⟩

theorem openNotice_ctx (s : State) (c kind unit d : Nat) :
    ((s.openNotice c kind unit).ctx d).st = (s.ctx d).st ∧ ((s.openNotice c kind unit).ctx d).jsusp = (s.ctx d).jsusp := by
  obtain ⟨detail, h⟩ := openNotice_eq s c kind unit
  rw [h]
  exact postNotice_ctx _ c kind unit detail d

theorem openNotice_host (s : State) (c kind unit : Nat) : (s.openNotice c kind unit).host = s.host := by
  obtain ⟨detail, h⟩ := openNotice_eq s c kind unit
  rw [h, postNotice_host]

theorem openNotice_disp (s : State) (c kind unit : Nat) : (s.openNotice c kind unit).disp = s.disp := by
  obtain ⟨detail, h⟩ := openNotice_eq s c kind unit
  rw [h, postNotice_disp]

/-- Some group of a context stands on a core. -/
def Resident (s : State) (c : Nat) : Prop := ∃ e, e ∈ s.groups ∧ e.2.place = .placed ∧ (s.kernel e.2.kernel).ctx = c

theorem isPlaced_iff (G : Group) : G.isPlaced = true ↔ G.place = .placed := by
  cases h : G.place <;> simp [Group.isPlaced, h]

theorem resident_iff {s : State} {c : Nat} : (s.groups.any fun e => e.2.isPlaced && (s.kernel e.2.kernel).ctx == c) = true ↔ Resident s c := by
  simp only [List.any_eq_true, Bool.and_eq_true, isPlaced_iff, beq_iff_eq, Resident]

/-- A suspension whose context has a resident group goes on. -/
theorem settleSuspend_of_resident {s : State} {c : Nat} (h : Resident s c) : s.settleSuspend c = s := by
  unfold State.settleSuspend
  split
  · rfl
  · exact if_pos (resident_iff.2 h)

/-- A suspension that only one command waits for completes it, where the context has no resident group (R67). -/
theorem settleSuspend_of_not_resident {s : State} {c j : Nat} (h : ¬ Resident s c) (hj : (s.ctx c).jsusp = [j]) :
    s.settleSuspend c = (s.modCtx c fun x => { x with jsusp := [] }).jset j 2 0 := by
  rw [State.settleSuspend, hj]
  exact if_neg fun hr => h (resident_iff.1 hr)

/-- The command that waits for a suspension (R67). -/
def awaitingSuspend (s : State) (c n : Nat) : State := (s.suspendCtx c).modCtx c fun x => { x with jsusp := x.jsusp ++ [n] }

section
variable {s : State} {c : Nat} (hlive : (s.ctx c).st = .live)
include hlive

theorem suspendCtx_eq : s.suspendCtx c =
    (((s.modCtx c fun x => { x with st := .suspended }).clearPass c).preemptCtx c).openNotice c 0x82 0xFFFF := if_pos hlive

theorem suspendCtx_host : (s.suspendCtx c).host = s.host := by
  rw [suspendCtx_eq hlive, openNotice_host]
  rfl

theorem suspendCtx_ctx : ((s.suspendCtx c).ctx c).st = .suspended ∧ ((s.suspendCtx c).ctx c).jsusp = (s.ctx c).jsusp := by
  have h : (((s.modCtx c fun x => { x with st := .suspended }).clearPass c).preemptCtx c).ctx c = { s.ctx c with st := .suspended } :=
    State.ctx_setCtx s c _
  rw [suspendCtx_eq hlive]
  obtain ⟨hst, hj⟩ := openNotice_ctx (((s.modCtx c fun x => { x with st := .suspended }).clearPass c).preemptCtx c) c 0x82 0xFFFF c
  rw [h] at hst hj
  exact ⟨hst, hj⟩

theorem suspendCtx_kernel (k : Nat) : (s.suspendCtx c).kernel k = s.kernel k := by
  rw [suspendCtx_eq hlive, State.kernel, openNotice_disp]
  rfl

/-- Pre-emption is only asked for: the groups stay where they stand. -/
theorem suspendCtx_resident : Resident (s.suspendCtx c) c ↔ Resident s c := by
  have hgroups : (s.suspendCtx c).groups = Tbl.mapVals s.groups fun x =>
      if x.isPlaced && (s.kernel x.kernel).ctx == c then { x with preempt := .now } else x := by
    rw [suspendCtx_eq hlive, openNotice_groups]
    rfl
  rw [← resident_iff, ← resident_iff, hgroups, Tbl.mapVals, List.any_map]
  refine Eq.congr_left (congrArg (fun f => List.any s.groups f) (funext fun e => ?_))
  dsimp only [Function.comp]
  rw [suspendCtx_kernel hlive]
  split <;> rfl

theorem awaitingSuspend_ctx (n : Nat) : ((awaitingSuspend s c n).ctx c).st = .suspended ∧
    ((awaitingSuspend s c n).ctx c).jsusp = (s.ctx c).jsusp ++ [n] := by
  obtain ⟨hst, hj⟩ := suspendCtx_ctx hlive
  rw [awaitingSuspend, State.modCtx, State.ctx_setCtx, ← hj]
  exact ⟨hst, rfl⟩

theorem awaitingSuspend_host (n : Nat) : (awaitingSuspend s c n).host = s.host := suspendCtx_host hlive

theorem awaitingSuspend_resident (n : Nat) : Resident (awaitingSuspend s c n) c ↔ Resident s c := suspendCtx_resident hlive

end

end Sys2Proof.Hosts
end

section
/-! Commands on contexts and on halted groups (R61, R62, R67, R330). -/

namespace Sys2Proof.Hosts
open Sys2Proof Sys2Proof.Machine Sys2Proof.Contexts

theorem OpenedFor.resident {s o : State} {kind : Nat} (h : OpenedFor s kind o) (c : Nat) : Resident o c ↔ Resident s c := by
  unfold Resident
  simp only [h.groups, h.kernel]

/-- CONTEXT_SUSPEND of a live context (R61, R330). -/
theorem exec_contextSuspend (port : Fin 2) (s : State) : ∃ k, (∀ dg, exec (.contextSuspend port dg) s = .next (s.command port 5 dg k)) ∧
    ∀ {c : Nat}, c < 64 → ∀ (o : State) (n : Nat), (o.ctx c).st = .live →
      k (natLE 1 c) n o = ((awaitingSuspend o c n).settleSuspend c, { ctx := c }) := by
  refine ⟨_, fun _ => rfl, fun {c} hc o n h => (onCtx_named hc o _).trans ?_⟩
  rw [if_neg (fun hf => by rw [ctxFree_iff, h] at hf; cases hf)]
  exact if_pos (by rw [Context.isLive, h]; rfl)

/-- CONTEXT_RESUME of a context that is not free (R61, R330). -/
theorem exec_contextResume (port : Fin 2) (s : State) : ∃ k, (∀ dg, exec (.contextResume port dg) s = .next (s.command port 6 dg k)) ∧
    ∀ {c : Nat}, c < 64 → ∀ (o : State) (n : Nat), (o.ctx c).st ≠ .free →
      k (natLE 1 c) n o = (o.resumeCtx c, { st := 2, ctx := c }) :=
  ⟨_, fun _ => rfl, fun hc o n h => (onCtx_named hc o _).trans (if_neg fun hf => h (ctxFree_iff.1 hf))⟩

/-- CONTEXT_END of a context that is not free (R61, R330). -/
theorem exec_contextEnd (port : Fin 2) (s : State) : ∃ k, (∀ dg, exec (.contextEnd port dg) s = .next (s.command port 7 dg k)) ∧
    ∀ {c : Nat}, c < 64 → ∀ (o : State) (n : Nat), (o.ctx c).st ≠ .free →
      k (natLE 1 c) n o = ((o.endCtx c).modCtx c fun x => { x with jend := x.jend ++ [n] }, { ctx := c }) :=
  ⟨_, fun _ => rfl, fun hc o n h => (onCtx_named hc o _).trans (if_neg fun hf => h (ctxFree_iff.1 hf))⟩

/-! ## Suspension and resumption -/

/-- A suspension waits for the groups that stand on a core (R67). -/
theorem contextSuspend_waits {s : State} (port : Fin 2) {c : Nat} (hready : s.boot = .ready) (hc : c < 64) (hlive : (s.ctx c).st = .live)
    (hres : Resident s c) :
    Commanded s port (.contextSuspend port) 5 (natLE 1 c) 0 0 (entryIs 0 0xFFFF c) fun t => (t.ctx c).st = .suspended := by
  obtain ⟨k, hexec, hk⟩ := exec_contextSuspend port s
  refine executed_of (st := 0) hready rfl (by omega) hexec fun o ho => ?_
  have hl : (o.ctx c).st = .live := by rw [ho.ctx]; exact hlive
  have hrun := hk hc o s.host.seq hl
  rw [settleSuspend_of_resident ((awaitingSuspend_resident hl _).2 ((ho.resident c).2 hres))] at hrun
  refine ⟨_, _, hrun, .of_host ho (awaitingSuspend_host hl _), rfl, rfl, fun e hst hq hc _ => ⟨hst, hq, hc⟩, fun _ _ => ?_⟩
  rw [ctx_withHost]
  exact (awaitingSuspend_ctx hl _).1

/-- A suspension is complete at once where no group stands on a core (R67). -/
theorem contextSuspend_completes {s : State} (port : Fin 2) {c : Nat} (hready : s.boot = .ready) (hseq : 0 < s.host.seq) (hc : c < 64)
    (hlive : (s.ctx c).st = .live) (hres : ¬ Resident s c) (hj : (s.ctx c).jsusp = []) :
    Commanded s port (.contextSuspend port) 5 (natLE 1 c) 0 0 (entryIs 2 0xFFFF c) fun t => (t.ctx c).st = .suspended := by
  obtain ⟨k, hexec, hk⟩ := exec_contextSuspend port s
  refine executed_of (st := 2) hready rfl (by omega) hexec fun o ho => ?_
  have hl : (o.ctx c).st = .live := by rw [ho.ctx]; exact hlive
  obtain ⟨hst, hjs⟩ := awaitingSuspend_ctx hl s.host.seq
  rw [ho.ctx, hj, List.nil_append] at hjs
  have hrun := hk hc o s.host.seq hl
  rw [settleSuspend_of_not_resident (fun h => hres ((ho.resident c).1 ((awaitingSuspend_resident hl s.host.seq).1 h))) hjs] at hrun
  have hring := jset_ringOnly ((awaitingSuspend o c s.host.seq).modCtx c fun x => { x with jsusp := [] }) s.host.seq 2 0
  refine ⟨_, _, hrun, .of_jset ho (awaitingSuspend_host hl s.host.seq) hseq, rfl, rfl, fun e hst hq hc _ => ⟨hst, hq, hc⟩, fun _ _ => ?_⟩
  rw [ctx_withHost, State.ctx, hring.ctxs, State.modCtx]
  exact (congrArg Context.st (State.ctx_setCtx _ c _)).trans hst

theorem contextResume_resumes {s : State} (port : Fin 2) {c : Nat} (hready : s.boot = .ready) (hc : c < 64)
    (hsusp : (s.ctx c).st = .suspended) :
    Commanded s port (.contextResume port) 6 (natLE 1 c) 0 0 (entryIs 2 0xFFFF c) fun t => (t.ctx c).st = .live := by
  obtain ⟨k, hexec, hk⟩ := exec_contextResume port s
  refine executed_of (st := 0) hready rfl (by omega) hexec fun o ho => ?_
  have hs : (o.ctx c).st = .suspended := by rw [ho.ctx]; exact hsusp
  have heq : o.resumeCtx c = (o.modCtx c fun x => { x with st := .live }).openNotice c 0x82 0xFFFF := if_pos hs
  have hrun := hk hc o s.host.seq (by rw [hs]; decide)
  rw [heq] at hrun
  refine ⟨_, _, hrun, .of_host ho (openNotice_host _ _ _ _), rfl, rfl, fun e hst hq hc _ => ⟨hst, hq, hc⟩, fun _ _ => ?_⟩
  rw [ctx_withHost, (openNotice_ctx _ _ _ _ _).1, State.modCtx]
  exact congrArg Context.st (State.ctx_setCtx o c _)

/-! ## The end of a context -/

theorem tellDropped_keeps (s : State) (x : GWrite) : Keeps s (s.tellDropped x) := by
  unfold State.tellDropped
  split
  · exact Keeps.refl s
  · split
    · exact (modMem_memLamp s _).keeps
    · exact postNotice_keeps s _ _ _ _

theorem cancelEngines_keeps (s : State) (g : Nat) : Keeps s (s.cancelEngines g) := by
  refine Keeps.trans ?_ (modCore_keeps _ _ _)
  exact modGroup_keeps s g _ fun x => ⟨rfl, .inl ⟨rfl, rfl⟩⟩

theorem setFlow_keeps (s : State) (k : Nat) (f : Flow) : Keeps s (s.setFlow k f) := (modMem_memLamp s _).keeps

theorem modDie_keeps (s : State) (d : Nat) (f : Die → Die) : Keeps s (s.modDie d f) := Keeps.of_fields rfl rfl rfl rfl rfl rfl

theorem fresh_keeps (s : State) : Keeps s s.fresh := Keeps.of_fields rfl rfl rfl rfl rfl rfl

theorem withInvals_keeps (s : State) (v : List Inval) : Keeps s { s with invals := v } := Keeps.of_fields rfl rfl rfl rfl rfl rfl

theorem sendInval_keeps (s : State) (c va : Option Nat) : Keeps s (s.sendInval c va) := by
  unfold State.sendInval
  refine Keeps.trans (Keeps.trans ?_ (fresh_keeps _)) (withInvals_keeps _ _)
  exact Keeps.foldl _ _ (fun t d => modDie_keeps t d _) s

/-- The work of a context that is not its kernels' and groups' own may differ. -/
theorem withWork_keeps (s : State) (txs : List Tx) (pod : Pod) (queues : Tbl Queue) (launches : List LaunchMsg) (mbx : List MbxMsg)
    (memory : Memory) : Keeps s { s with
      txs := txs, pod := pod, memory := memory
      disp := { s.disp with queues := queues, launches := launches, mbxMsgs := mbx } } :=
  Keeps.of_fields rfl rfl rfl rfl rfl rfl

/-- The context is ending, and its fault queue is emptied (R61). -/
def endingCtx (s : State) (c : Nat) : State := s.modCtx c fun x => { x with st := .ending, endPrev := x.st.code, fq := [] }

theorem endingCtx_host (s : State) (c : Nat) : (endingCtx s c).host = s.host := rfl

theorem endingCtx_st (s : State) (c : Nat) : ((endingCtx s c).ctx c).st = .ending := by
  rw [endingCtx, State.modCtx, State.ctx_setCtx]

theorem awaits_of_endingCtx {s : State} {c j : Nat} (h : Awaits (endingCtx s c) j) : Awaits s j :=
  awaits_of_setCtx (x := { s.ctx c with st := .ending, endPrev := (s.ctx c).st.code, fq := [] }) (fun _ hj => hj) h

/-- The end of a context ends its kernels and their work, and brings nothing back (R61). -/
theorem endCtx_keeps {s : State} {c : Nat} (h : (s.ctx c).st = .live ∨ (s.ctx c).st = .suspended) :
    Keeps (endingCtx s c) (s.endCtx c) := by
  unfold State.endCtx
  rw [if_pos h]
  refine Keeps.trans (Keeps.trans ?_ (sendInval_keeps _ (some c) none)) (setCtx_keeps _ c _ rfl fun j hj => hj)
  refine Keeps.trans ?_ (Keeps.foldl _ _ tellDropped_keeps _)
  refine Keeps.trans ?_ (withWork_keeps _ _ _ _ _ _ _)
  refine Keeps.trans ?_ (Keeps.foldl _ _ (fun t w => ?_) _)
  · refine Keeps.trans ?_ (Keeps.foldl _ _ (fun t (e : Nat × Group) => cancelEngines_keeps t e.1) _)
    exact Keeps.foldl _ _ (fun t k => (failKernel_keeps t k 0).trans (stopKernel_keeps _ k)) _
  · split
    · exact setFlow_keeps t _ _
    · exact Keeps.refl t

theorem contextEnd_begins {s : State} (port : Fin 2) {c : Nat} (hready : s.boot = .ready) (hc : c < 64)
    (hst : (s.ctx c).st = .live ∨ (s.ctx c).st = .suspended) (hunused : ¬ Awaits s s.host.seq) :
    Commanded s port (.contextEnd port) 7 (natLE 1 c) 0 0 (entryIs 0 0xFFFF c) fun t =>
      (t.ctx c).st = .ending ∧ s.host.seq ∈ (t.ctx c).jend := by
  obtain ⟨k, hexec, hk⟩ := exec_contextEnd port s
  refine executed_of (st := 0) hready rfl (by omega) hexec fun o ho => ?_
  have ho' : (o.ctx c).st = .live ∨ (o.ctx c).st = .suspended := by rw [ho.ctx]; exact hst
  have hkeep : Keeps (endingCtx o c) ((o.endCtx c).modCtx c fun x => { x with jend := x.jend ++ [s.host.seq] }) :=
    (endCtx_keeps ho').trans (setCtx_keeps _ c _ rfl fun j hj => hj)
  obtain ⟨st, hcase, hexecuted⟩ := Executed.of_keeps ho (endingCtx_host o c) hkeep
  obtain rfl : st = 0 := hcase.resolve_right fun ⟨_, h⟩ => hunused (by
    have hw := awaits_of_endingCtx h
    rwa [Awaits, ho.disp, ho.ctxs] at hw)
  refine ⟨_, _, hk hc o s.host.seq ?_, hexecuted, rfl, rfl, fun e hst hq hc _ => ⟨hst, hq, hc⟩, fun _ _ => ?_⟩
  · rcases ho' with h | h <;> rw [h] <;> decide
  · rw [ctx_withHost]
    refine ⟨(hkeep.ctxs c).trans (endingCtx_st o c), ?_⟩
    rw [State.modCtx, State.ctx_setCtx]
    exact List.mem_append_right _ (List.mem_singleton.2 rfl)

/-! ## Halted groups -/

/-- The halted group that a command names (R330). -/
def namesHalted (kn lin : Nat) (e : Nat × Group) : Bool := e.2.kernel == kn && e.2.lin == lin && e.2.halted && !e.2.isEnded

/-- The body of a command on a halted group (R330). -/
theorem onHalted_named {kn lin : Nat} (hkn : kn < 2 ^ 64) (hlin : lin < 2 ^ 32) (o : State) (k : Nat → State → State) :
    (o.groups.find? (namesHalted kn lin) = none → o.onHalted (natLE 8 kn ++ natLE 4 lin) k = (o, refuse 3 0xFFFF 0xFF)) ∧
    ∀ e, o.groups.find? (namesHalted kn lin) = some e → o.onHalted (natLE 8 kn ++ natLE 4 lin) k =
      (k e.1 o, { st := 2, queue := (o.kernel kn).queue, ctx := (o.kernel kn).ctx, kernel := kn }) := by
  have hlay : layout (natLE 8 kn ++ natLE 4 lin) 12 [] = true := layout_of_length (by simp) rfl
  have hkernel : fieldAt (natLE 8 kn ++ natLE 4 lin) 0 8 = kn := fieldAt_natLE _ hkn
  have hnumber : fieldAt (natLE 8 kn ++ natLE 4 lin) 8 4 = lin := by
    rw [fieldAt_skip (Nat.le_refl 8)]
    exact fieldAt_natLE_alone (by omega)
  unfold State.onHalted
  have hnames : (fun e : Nat × Group => e.2.kernel == kn && e.2.lin == lin && e.2.halted && !e.2.isEnded) = namesHalted kn lin := rfl
  simp only [hlay, hkernel, hnumber, hnames]
  exact ⟨fun h => by rw [h]; rfl, fun e h => by rw [h]; rfl⟩

/-- A halted group has ended, unsaved, and is halted no longer. -/
def unhalted (s : State) (g : Nat) : State := (s.stopGroup g).modGroup g fun x => { x with halted := false }

/-- A kernel counts one more group as exited. -/
def countExit (K : Kernel) : Kernel :=
  { K with exited := K.exited + 1, st := if K.st = .running ∧ K.exited + 1 = K.pkt.ngx * K.pkt.ngy then .retiring else K.st }

theorem endHalted_eq (s : State) (g : Nat) : s.endHalted g = (unhalted s g).modKernel (s.group g).kernel countExit := rfl

theorem unhalted_keeps (s : State) (g : Nat) : Keeps s (unhalted s g) :=
  (stopGroup_keeps s g).trans (modGroup_keeps _ g _ fun x => ⟨rfl, .inl ⟨rfl, rfl⟩⟩)

theorem unhalted_group (s : State) (g : Nat) : (unhalted s g).group g = { (s.stopGroup g).group g with halted := false } := by
  rw [unhalted, State.modGroup, State.group_setGroup]

theorem endHalted_host (s : State) (g : Nat) : (s.endHalted g).host = (unhalted s g).host := by
  rw [endHalted_eq, State.modKernel, State.setKernel_host]

/-- A halted group ends unsaved. -/
theorem endHalted_group (s : State) (g : Nat) : ((s.endHalted g).group g).place = .ended ∧ ((s.endHalted g).group g).halted = false := by
  have hgroup : (s.endHalted g).group g = (unhalted s g).group g := by rw [endHalted_eq, State.modKernel, State.group, State.setKernel_groups]; rfl
  rw [hgroup, unhalted_group]
  exact ⟨(stopGroup_stops s g).place, rfl⟩

/-- It counts as exited. -/
theorem endHalted_exited (s : State) (g : Nat) :
    ((s.endHalted g).kernel (s.group g).kernel).exited = (s.kernel (s.group g).kernel).exited + 1 := by
  rw [endHalted_eq, State.modKernel, State.kernel_setKernel, countExit, ((unhalted_keeps s g).kernels _).exited]

section
variable {s : State} (port : Fin 2) {kn lin : Nat} (hready : s.boot = .ready) (hkn : kn < 2 ^ 64) (hlin : lin < 2 ^ 32)
include hready hkn hlin

/-- Where no group that a command names is halted, both commands are malformed. -/
theorem halted_missing (h : s.groups.find? (namesHalted kn lin) = none) :
    Commanded s port (.resumeHaltedGroup port) 9 (natLE 8 kn ++ natLE 4 lin) 3 0 (entryIs 4 0xFFFF 0xFF) (HostOnly s) ∧
    Commanded s port (.endHaltedGroup port) 10 (natLE 8 kn ++ natLE 4 lin) 3 0 (entryIs 4 0xFFFF 0xFF) (HostOnly s) := by
  constructor <;> exact refused_of hready rfl (by omega) (fun _ => rfl) fun o ho =>
    (onHalted_named hkn hlin o _).1 (by rw [ho.groups]; exact h)

/-- A halted group may be placed again. -/
theorem resumeHaltedGroup_resumes {g : Nat} {G : Group} (h : s.groups.find? (namesHalted kn lin) = some (g, G))
    (hG : Tbl.get? s.groups g = some G) :
    Commanded s port (.resumeHaltedGroup port) 9 (natLE 8 kn ++ natLE 4 lin) 0 0 (entryIs 2 (s.kernel kn).queue (s.kernel kn).ctx) fun t =>
      t.group g = { G with halted := false } := by
  refine executed_of (st := 0) hready rfl (by omega) (fun _ => rfl) fun o ho => ?_
  have hrun := (onHalted_named hkn hlin o fun g s => s.modGroup g fun x => { x with halted := false }).2 (g, G) (by rw [ho.groups]; exact h)
  refine ⟨_, _, hrun, .of_host ho rfl, rfl, rfl, fun e hst hq hc _ => ⟨hst, ?_, ?_⟩, fun _ _ => ?_⟩
  · rw [hq, ho.kernel]
  · rw [hc, ho.kernel]
  · have hgroup : o.group g = G := by rw [ho.group, State.group, getD_of_get? hG]
    rw [← hgroup]
    exact State.group_setGroup o g _

/-- A halted group ends, and counts as exited. -/
theorem endHaltedGroup_ends {g : Nat} {G : Group} (h : s.groups.find? (namesHalted kn lin) = some (g, G))
    (hG : Tbl.get? s.groups g = some G) :
    Commanded s port (.endHaltedGroup port) 10 (natLE 8 kn ++ natLE 4 lin) 0 0 (entryIs 2 (s.kernel kn).queue (s.kernel kn).ctx) fun t =>
      (t.group g).place = .ended ∧ (t.group g).halted = false ∧ (t.kernel kn).exited = (s.kernel kn).exited + 1 := by
  have hkernel : (s.group g).kernel = kn := by
    have hnames := List.find?_some h
    simp only [namesHalted, Bool.and_eq_true, beq_iff_eq] at hnames
    rw [State.group, getD_of_get? hG]
    exact hnames.1.1.1
  refine commanded_of (fun _ => rfl) (by omega) (.inl rfl) fun key counter => ?_
  have ho := opened_for s 10 key counter
  rw [outcome_ready hready rfl _ ho]
  generalize opened s 10 key counter = o at ho ⊢
  have hok : (o.group g).kernel = kn := by rw [ho.group]; exact hkernel
  obtain ⟨st, hst2, hexecuted⟩ := Executed.of_keeps ho rfl (unhalted_keeps o g)
  have hrun := (onHalted_named hkn hlin o fun g s => s.endHalted g).2 (g, G) (by rw [ho.groups]; exact h)
  obtain ⟨hplace, hhalted⟩ := endHalted_group o g
  have hexited := endHalted_exited o g
  rw [hok, ho.kernel] at hexited
  refine ⟨st, _, _, hrun, hexecuted.congr (endHalted_host o g), rfl, rfl, fun e hst hq hc _ => ⟨?_, ?_, ?_⟩,
    fun _ _ => ?_⟩
  · rcases hst2 with rfl | ⟨rfl, -⟩ <;> exact hst
  · rw [hq, ho.kernel]
  · rw [hc, ho.kernel]
  · rw [group_withHost, kernel_withHost]
    exact ⟨hplace, hhalted, hexited⟩

end

end Sys2Proof.Hosts
end

section
/-! The statement about host commands (R80, R81, R329, R330). -/

namespace Sys2Proof.Hosts
open Sys2Proof Sys2Proof.Machine Sys2Proof.Contexts

theorem replaces_fails {im a : Image} (h : im.regs ≠ a.regs ∨ im.waves ≠ a.waves ∨ im.det ≠ a.det ∨ a.scratch < im.scratch) :
    ¬ Replaces im a := by
  rintro ⟨hregs, hwaves, hdet, hscratch⟩
  rcases h with h | h | h | h
  · exact h hregs
  · exact h hwaves
  · exact h hdet
  · exact absurd hscratch (Nat.not_le.2 h)

/-- Settles O51: a message is dropped, answered again, or opens an entry, is executed, and closes the entry; each command's outcome is
followed on its own. -/
theorem hostCommands : Obligations.HostCommands := by
  unfold Obligations.HostCommands
  intro s port dg body pk q c g old new prio kn lin tag key counter mask r p im a x G
  have hbind : ∀ {q c}, (q < 256 ∧ (s.queue q).ctx = some c ∧ (s.ctx c).st ≠ .ending) → s.boundCtx q = some c := boundCtx_of_bound
  have hunbind : ∀ {q c}, (256 ≤ q ∨ (s.queue q).ctx = none ∨ (s.queue q).ctx = some c ∧ (s.ctx c).st = .ending) → s.boundCtx q = none :=
    boundCtx_of_unbound
  refine ⟨fun y hy => hostCommand_general s port hy dg body c tag key counter r, fun h => nextGen_fresh h, fun hready hseq =>
    ⟨fun y hy hb => ?_, fun hpk hq => ?_, fun hpk hmask hq => ?_, fun hpk hmask hbit hflag hp hb hroom => ?_, fun hold hnew hq => ?_,
      fun hold hnew hb ha him => ?_, fun hbody => ?_, fun hc => ?_, fun hprio hq => ?_, fun hkn hlin => ?_⟩⟩
  · rw [hb]
    exact hostCommand_empty hy hready
  · obtain ⟨hun, hmal, hfull, hok⟩ := hostLaunch_commanded (c := c) (p := p) (im := im) port hready hpk hq
    exact ⟨fun h => hun (hunbind h), fun h => hmal (hbind h), fun h => hfull (hbind h),
      fun h hr hroom hpred hprod _ => hok (hbind h) hr hroom hpred hprod⟩
  · obtain ⟨hbad, hun, hfull⟩ := hostPodLaunch_refused (c := c) port hready hpk hmask hq
    exact ⟨hbad, fun hf h => hun hf (hunbind h), fun hf h => hfull hf (hbind h)⟩
  · have hq : q < 2 ^ 16 := by have := hb.1; omega
    have hfits : PodFits s mask pk := ⟨hbit, hflag, by rw [hp]; exact Option.some_ne_none p⟩
    refine commanded_mono (hostPodLaunch_sends port hready hpk hmask hq hfits (hbind hb) hroom) fun t ⟨horigins, hgen, hout⟩ => ?_
    exact ⟨newOrigin s q c mask s.host.seq pk, s.originMsg (newOrigin s q c mask s.host.seq pk) 1 0, horigins, rfl, rfl, rfl, rfl, rfl, rfl,
      rfl, hgen, hout, rfl, rfl, rfl, rfl, rfl, rfl, rfl, rfl⟩
  · obtain ⟨hun, hmissing, hboth⟩ := install_refused (c := c) port hready hold hnew hq
    exact ⟨fun h => hun (hunbind h), fun h => hmissing (hbind h),
      fun h ha him hall hd => (hboth a im (hbind h) ha him).2 hall (replaces_fails hd)⟩
  · have hq : q < 2 ^ 16 := by have := hb.1; omega
    obtain ⟨-, -, hboth⟩ := install_refused (c := c) port hready hold hnew hq
    refine ⟨fun hbusy => (hboth a im (hbind hb) ha him).1 hbusy, fun hall hregs hwaves hdet hscratch ⟨k, K, hK, hKq, hKc, hun⟩ => ?_⟩
    exact install_begins port hready hold hnew hq (hbind hb) ha him hall ⟨hregs, hwaves, hdet, hscratch⟩ hK hKq hKc hun
  · obtain ⟨hfull, hfree⟩ := contextCreate_commanded port hready hbody
    exact ⟨hfull, fun hc hf hlow => ⟨(hfree c hc hf hlow).1, (hfree c hc hf hlow).2 x⟩⟩
  · refine ⟨fun hf y hy => onContext_free port hready hc hf hy, fun hl hno hj => contextSuspend_completes port hready hseq hc hl ?_ hj,
      fun hl hres => contextSuspend_waits port hready hc hl hres, fun hs => contextResume_resumes port hready hc hs,
      fun hst _ hun => contextEnd_begins port hready hc hst ?_⟩
    · rintro ⟨e, he, hp, hk⟩
      exact hno e he hp hk
    · rintro (⟨y, hy, hys⟩ | ⟨e, he, hes⟩)
      · exact hun.1 y hy hys
      · exact hun.2 e he hes
  · obtain ⟨hbad, hun, hok⟩ := setQueuePriority_commanded (c := c) port hready hprio hq
    exact ⟨hbad, fun h hb => hun h (hunbind hb), fun h hb => hok h (hbind hb)⟩
  · exact ⟨fun h => halted_missing port hready hkn hlin h, fun h hG => ⟨resumeHaltedGroup_resumes port hready hkn hlin h hG,
      endHaltedGroup_ends port hready hkn hlin h hG⟩⟩

end Sys2Proof.Hosts
end
